-- ==== Sys2Proof/Word.lean ====
section
/-!
DEFINITION. Sys2Proof/Word.lean: the words of the N9 and the plainest arithmetic on them. Registers, addresses and
encoded words are bit vectors; the key of a memory byte is a natural number.
-/

namespace Sys2Proof

/-- A byte of memory. -/
abbrev Byte := BitVec 8
/-- A vector register of one thread (R5). -/
abbrev W32 := BitVec 32
/-- A scalar register, a bit address or a program counter (R5, R2). -/
abbrev W64 := BitVec 64

/-- A sparse table by number: strictly rising keys, absent keys at the table's own default. -/
abbrev SMap (α : Type) := List (Nat × α)

/-- Bits [lo + n - 1 : lo] of a number (R2). -/
def fld (w lo n : Nat) : Nat := w / 2 ^ lo % 2 ^ n

/-- Bit i of a number. -/
def bit (w i : Nat) : Bool := w / 2 ^ i % 2 == 1

/-- 1 for true (a one-bit field). -/
def b1 (b : Bool) : Nat := if b then 1 else 0

/-- The signed value of the low `n` bits of `w` (two's complement, R89). -/
def sgn (n w : Nat) : Int := if w % 2 ^ n < 2 ^ (n - 1) then Int.ofNat (w % 2 ^ n) else Int.ofNat (w % 2 ^ n) - Int.ofNat (2 ^ n)

/-- An exact integer modulo 2^n as a pattern: wrap32 and wrap64 of R97. -/
def wrap (n : Nat) (x : Int) : BitVec n := BitVec.ofInt n x

end Sys2Proof
end

