-- ==== Sys2Proof/Config.lean ====
section
/-!
DEFINITION. Sys2Proof/Config.lean: what an implementation fixes and the spec leaves open. Every constant here is
opaque: nothing in Lean can evaluate it, so a statement holds whatever its value is. The log entry that owns each is
named in its docstring.
-/

namespace Sys2Proof.Config

/-- A value the spec leaves open at the n-th draw of the state's counter (log 4). -/
opaque freeValue : Nat → Nat
/-- PM_SERIAL, "fused" (R271; log 2). -/
opaque serial : BitVec 64
/-- SEC_SVN, "fused minimum" (R271; log 2). -/
opaque svnMinimum : BitVec 16
/-- The k-th Saggar key made by the on-die random source: the pair of keys of XTS (R277; log 7). -/
opaque saggarKey : Nat → BitVec 512
/-- The key of the save-area tags of the partition that holds the k-th Saggar key (R278; log 7). -/
opaque saveKey : Nat → BitVec 256
/-- The class figure of a remote chip for an access at its bit address, at a cycle (R136 C7; log 8). -/
opaque remoteFigure : Nat → Nat → Nat
/-- The time of an access to host memory over PCI Express at its bit address, at a cycle: R136 has no class for it
(log 8). -/
opaque hostFigure : Nat → Nat → Nat
/-- The clock period in ps that enforces a module cap of so many watts (R281; log 9). -/
opaque capPeriod : Nat → Nat
/-- The cycles of the k-th 10 microsecond window in which pushes of a partition capped at so many watts are withheld
(R281: its measured power is not a value the spec gives; log 9). -/
opaque dutyCycles : Nat → Nat → Nat
/-- The key of the tags of firmware images (R278; log 7). -/
opaque firmwareKey : BitVec 256
/-- The Skaxel keys fused into the package, public keys of ML-DSA-87 (R279; log 7). -/
opaque bootKeys : List (List (BitVec 8))
/-- The measurement of the boot ROM, and the device identity key made from fuse entropy (R279; log 7). -/
opaque romMeasure : BitVec 512
opaque identityKey : BitVec 256
/-- The answer to an SPDM request of a function under an identity key, from a nonce and the measured words (R279; log 7). -/
opaque spdmAnswer : BitVec 256 → Nat → BitVec 256 → List (BitVec 512) → BitVec 256

end Sys2Proof.Config
end

