-- ==== Sys2Proof/Syntax.lean ====
section
/-!
DEFINITION. Sys2Proof/Syntax.lean: the abstract syntax of the N9. One constructor of `Instr` per row of
spec/opcode_table.json: the 217 words of 32 bits (the prefix among them) of R58 to R68, the sixteen 16-bit words
of R56, and the 105 steps of the part that have no word of their own (95_what_each_step_holds.md).
An operand structure per format says which operands a word of that format carries; a field whose every legal value
is a number below a bound is a `Fin`, so that an operand out of range cannot be written down.
-/

namespace Sys2Proof

/-- v0 to v95 (R5). -/
abbrev VReg := Fin 96
/-- s0 to s31 (R5). -/
abbrev SReg := Fin 32
/-- p0 to p47 (R5). -/
abbrev PReg := Fin 48
/-- A core of the chip, 0 to 191 (R11). -/
abbrev CoreId := Fin 192
/-- A residency slot of the chip: 128 x core + 4 x slice + slot (R11, R20). -/
abbrev WarpId := Fin 24576
/-- A stream of the Kiln (R202). -/
abbrev StreamId := Fin 64

/-- A 7-bit operand code with its last-read bit (R57): a vector register, or an s-register read once for the warp.
A last-read bit on an s code is no operand at all. -/
inductive Opd where
  | v (n : VReg) (last : Bool)
  | s (n : SReg)
deriving DecidableEq, Repr

/-- A 7-bit operand code of a format that has no last-read bit (R57, R58). -/
inductive Src where
  | v (n : VReg)
  | s (n : SReg)
deriving DecidableEq, Repr

/-- A predicate field used as a source: p0 to p47, or pt (R58). -/
inductive PSrc where
  | p (n : PReg)
  | pt
deriving DecidableEq, Repr

/-- The scopes of R60 and R64, narrow to wide. -/
inductive Scope where
  | warp | core | cluster | chip | fabric
deriving DecidableEq, Repr

/-- The kind of a FENCE (R64). -/
inductive FenceKind where
  | acqRel | acquire | release
deriving DecidableEq, Repr

/-- Format V with two sources. -/
structure VOps where
  d : VReg
  a : Opd
  b : Opd
deriving DecidableEq, Repr

/-- Format V with B = 0 and LB = 0. -/
structure UnOps where
  d : VReg
  a : Opd
deriving DecidableEq, Repr

/-- Format VT (LUT3). -/
structure LutOps where
  d : Fin 32
  a : Fin 32
  b : Fin 32
  la : Bool
  lb : Bool
  tbl : Fin 256
deriving DecidableEq, Repr

/-- FCVT: format V whose B holds the conversion code of R324: `toF32` is KIND 01. -/
structure CvtOps where
  d : VReg
  a : Opd
  toF32 : Bool
  fmt : Fin 16
deriving DecidableEq, Repr

/-- Format VP: a comparison per thread. -/
structure CmpOps where
  p : PReg
  a : Opd
  b : Opd
  cond : Fin 8
deriving DecidableEq, Repr

/-- Format VSEL. -/
structure SelOps where
  d : VReg
  p : PSrc
  a : Fin 32
  b : Fin 32
  la : Bool
  lb : Bool
deriving DecidableEq, Repr

/-- Format PL. -/
structure PlopOps where
  pd : PReg
  pa : PSrc
  pb : PSrc
  tbl : Fin 16
deriving DecidableEq, Repr

/-- Format VI. -/
structure ImmOps where
  d : VReg
  imm : Fin 65536
deriving DecidableEq, Repr

/-- REDUX, SCAN and SCAN.X: format V whose B is an operation code of R67. -/
structure RedOps where
  d : VReg
  a : Opd
  op : Fin 11
deriving DecidableEq, Repr

/-- Format VN. -/
structure PackOps where
  d : VReg
  a : Src
  fmt : Fin 14
  idx : Fin 32
deriving DecidableEq, Repr

/-- Format VA: D and A are the numbers of pairs. -/
structure PairOps where
  d : Fin 48
  a : Fin 48
  b : Src
  wc : Fin 10
deriving DecidableEq, Repr

/-- Format VS: a shift by SH5. -/
structure ShOps where
  d : VReg
  a : Opd
  sh : Fin 32
deriving DecidableEq, Repr

/-- Format VF: a funnel shift. -/
structure FunOps where
  d : VReg
  a : Fin 64
  b : Fin 64
  sh : Fin 32
deriving DecidableEq, Repr

/-- Format M of a load. `nt` and `lu` are the bits of FN (R63). -/
structure LdOps where
  d : VReg
  sb : SReg
  x : Src
  wc : Fin 12
  nt : Bool
  lu : Bool
deriving DecidableEq, Repr

/-- Format M of a store; an s code may be stored (R397). -/
structure StOps where
  d : Src
  sb : SReg
  x : Src
  wc : Fin 10
  nt : Bool
  lu : Bool
deriving DecidableEq, Repr

/-- Format M of PREF and CINV (D = 0). -/
structure PrefOps where
  sb : SReg
  x : Src
  wc : Fin 10
deriving DecidableEq, Repr

/-- Format MO of LDA and LDC. -/
structure LdaOps where
  d : VReg
  sb : SReg
  x : Src
  scope : Scope
  rem : Bool
  w64 : Bool
deriving DecidableEq, Repr

/-- Format MO of STR and STC. -/
structure StrOps where
  d : Src
  sb : SReg
  x : Src
  scope : Scope
  w64 : Bool
deriving DecidableEq, Repr

/-- The sizes of format A (R60). -/
inductive AtomSize where
  | w32 | w64 | bf
deriving DecidableEq, Repr

/-- The operations of R68. -/
inductive AtomOp where
  | add | imin | imax | umin | umax | and | or | xor | exch | cas | incw | decw | fadd
deriving DecidableEq, Repr

/-- Format A. SCOPE is one of CORE to FABRIC (R60). -/
structure AtomOps where
  d : VReg
  sb : SReg
  xv : Fin 32
  op : AtomOp
  size : AtomSize
  scope : Fin 4
deriving DecidableEq, Repr

/-- Format S with I = 0. -/
structure SOps where
  sd : SReg
  sa : SReg
  sb : SReg
deriving DecidableEq, Repr

/-- Format S with I = 1. -/
structure SImmOps where
  sd : SReg
  sa : SReg
  imm : Fin 1024
deriving DecidableEq, Repr

/-- Format SP. -/
structure ScmpOps where
  p : PReg
  sa : SReg
  sb : SReg
  cond : Fin 8
deriving DecidableEq, Repr

/-- Format SA. -/
structure SaOps where
  sd : SReg
  sa : SReg
  sb : SReg
  wc : Fin 10
deriving DecidableEq, Repr

/-- Format MXS of SCACC. VB is the number of a quad. -/
structure ScaccOps where
  ac : Fin 4
  pl : Fin 8
  va : Src
  vb : VReg
  imm : Fin 16
deriving DecidableEq, Repr

/-- Format ACX of ACCRD and ACCWR. -/
structure TileOps where
  d : VReg
  ac : Fin 4
  row : Fin 128
deriving DecidableEq, Repr

/-- Format ACX of PLNRD. -/
structure PlaneOps where
  d : VReg
  pl : Fin 8
  row : Fin 128
deriving DecidableEq, Repr

/-- Format C (R56). -/
structure COps where
  d : Fin 32
  b : Fin 32
  lb : Bool
deriving DecidableEq, Repr

/-- How a masked-off thread's destination is treated (R61). -/
inductive Merge where
  | none | keep | zero
deriving DecidableEq, Repr

/-- The prefix word (R61). `rnd` is 0 to 6; `c` is the code of field C with its last-read bit. -/
structure Prefix where
  w : Bool
  sat : Bool
  negm : Bool
  c : Opd
  rnd : Fin 7
  mask : PSrc
  merge : Merge
deriving DecidableEq, Repr

/-- A request for an event of this chip that arrives from another chip (R221). -/
inductive RemoteOp where
  | fref (n : Fin 65536)
  /-- FDROP, or a DROP word (R214). -/
  | fdrop (n : Fin 65536) (word : Bool)
  | evsig (n : Fin 65536)
  /-- SIGEV of a stream, which asks whether the entry took it (R214). -/
  | sigev (token : Nat) (n : Fin 65536)
  /-- FWAIT or FPOLL of the requester, named by its token there. -/
  | query (token : Nat) (wait : Bool)
  /-- WAITEV of a stream with its CONS (R207). -/
  | waitev (token : Nat) (cons : Fin 65536)
  /-- A consumer's stencil subscription, and its end with a consumer that has failed. -/
  | subscribe (token : Nat)
  | unsubscribe (token : Nat)
deriving DecidableEq, Repr

/-- A Kiln request from another chip: its sender, the partition number it carries and the index it names (R221). -/
structure RemoteReq where
  chip : Fin 1024
  part : Fin 16
  idx : Fin 65536
  op : RemoteOp
  /-- The stamp of its packet (R258). -/
  stamp : BitVec 64
deriving DecidableEq, Repr

/-- An owner's answer or retirement notice: the subscriber's token and the entry as the owner reports it (R221). -/
structure RemoteAns where
  token : Nat
  state : Fin 8
  gen : BitVec 8
  cval : BitVec 32
  /-- The producer holds the subscriber's stencil reference (R213). -/
  held : Bool
  /-- The stamp of its packet (R258). -/
  stamp : BitVec 64
deriving DecidableEq, Repr

/-- A warp that the Wheel places: its residency slot (4 x slice + slot) and its private window (R37, R38). -/
structure Seat where
  slot : Fin 128
  privBase : BitVec 64
deriving DecidableEq, Repr

/-- The writes that take effect under REGISTER_WRITE: a BAR0 write of function f at a register number (R270, R271),
and the acts of the Wheel that the rules of the row give their effect (R28, R37 to R41, R196). -/
inductive RegWrite where
  | bar0 (f : Fin 16) (reg : Nat) (value : BitVec 64)
  /-- A BAR0 read of function f at a register number (R270). -/
  | bar0Read (f : Fin 16) (reg : Nat)
  /-- The Wheel's own register write. -/
  | wheel (reg : Nat) (value : BitVec 64)
  /-- The Wheel places worker block g on a core (R37 to R41). -/
  | place (core : CoreId) (g : Fin 256) (seats : List Seat)
  /-- The Wheel adds a member to a group (R41). -/
  | join (w : WarpId) (g : Fin 256)
  /-- The Wheel removes worker block g from a core (R41, R196). -/
  | remove (core : CoreId) (g : Fin 256)
  /-- The Wheel's own kernel-mode warp on a core (R17). -/
  | kernel (core : CoreId) (slot : Fin 128) (pc : BitVec 64)
  /-- The host masks a vector of function f in its MSI-X table (R272). -/
  | mask (f : Fin 16) (vec : Fin 64)
deriving DecidableEq, Repr

/-- What a packet from another chip asks of this chip's HBM (R237, R239). -/
inductive PacketBody where
  | none
  | write (chip : Fin 1024) (addr : Fin 4398046511104) (width : Fin 1025) (value : Nat)
  | read (chip : Fin 1024) (addr : Fin 4398046511104) (width : Fin 1025)
  | atomic (chip : Fin 1024) (op : AtomOp) (addr : Fin 4398046511104) (width : Fin 65) (value : Nat) (compare : Nat)
deriving DecidableEq, Repr

/-- A UALink packet: the stamp it carries and its body (R237, R258). -/
structure Packet where
  stamp : BitVec 64
  body : PacketBody
deriving DecidableEq, Repr

/-- A host access through BAR2 of function f at a byte offset, or a write of the host to its own memory (R164, R270). -/
inductive Bar2 where
  | read (f : Fin 16) (off : Nat) (len : Nat)
  | write (f : Fin 16) (off : Nat) (data : List Byte)
  | host (byteAddr : Nat) (data : List Byte)
deriving DecidableEq, Repr

/-- A datagram on the management port: its group address and port, and its payload (R280). -/
structure CapFrame where
  dest : BitVec 48
  bytes : List Byte
deriving DecidableEq, Repr

/-- A limit of R282 that acts on its own, with the clock period in ps while it holds, or the end of both. -/
inductive Thermal where
  | thermal (period : Nat)
  | current (period : Nat)
  | clear
deriving DecidableEq, Repr

/-- A firmware image: its security version, the bit address at which it lies, its bytes, one tag for each 512 bits of it, and its
signature (R278, R279). -/
structure Firmware where
  svn : BitVec 16
  addr : Nat
  bytes : List Byte
  tags : List (BitVec 256)
  sig : List Byte
deriving DecidableEq, Repr

/-- The steps of R283 as they reach the part. -/
inductive BringUp where
  /-- Power-on or module reset, with the image that the boot ROM finds. -/
  | rom (fw : Firmware)
  /-- The Wheel takes every core, with a kernel-mode warp at a residency slot and a clause of its own (R17). -/
  | wheel (slot : Fin 128) (pc : BitVec 64)
  /-- The fabric manager writes the chip number. -/
  | chip (n : Fin 1024)
  /-- Step 4 succeeds for partition p: its streams are accepted. -/
  | accept (p : Fin 16)
deriving DecidableEq, Repr

/-- An SPDM request over DOE on function f (R279). -/
structure SpdmReq where
  f : Fin 16
  nonce : BitVec 256
deriving DecidableEq, Repr

/-- What goes wrong with a read (R253): a single-bit error, or an uncorrectable one that the second attempt mends or not. -/
inductive ReadError where
  | single | transient | lasting
deriving DecidableEq, Repr

/-- The instructions of 32 and of 16 bits, and the steps of the part: one constructor per row of the opcode table. -/
inductive Instr where
  /-- IADD (R340). -/
  | iadd (o : VOps)
  /-- ISUB (R340). -/
  | isub (o : VOps)
  /-- IMUL (R340). -/
  | imul (o : VOps)
  /-- IMULH (R340). -/
  | imulh (o : VOps)
  /-- IMIN (R346). -/
  | imin (o : VOps)
  /-- IMAX (R346). -/
  | imax (o : VOps)
  /-- UMIN (R410). -/
  | umin (o : VOps)
  /-- UMAX (R410). -/
  | umax (o : VOps)
  /-- AND (R289). -/
  | and (o : VOps)
  /-- OR (R366). -/
  | or (o : VOps)
  /-- XOR (R414). -/
  | xor (o : VOps)
  /-- ANDN (R289). -/
  | andn (o : VOps)
  /-- SHL (R386). -/
  | shl (o : VOps)
  /-- SHR (R386). -/
  | shr (o : VOps)
  /-- SAR (R386). -/
  | sar (o : VOps)
  /-- ROT (R382). -/
  | rot (o : VOps)
  /-- BFX (R299). -/
  | bfx (o : VOps)
  /-- BFXS (R299). -/
  | bfxs (o : VOps)
  /-- BFI (R299). -/
  | bfi (o : VOps)
  /-- POPC (R371). -/
  | popc (o : UnOps)
  /-- CLZ (R310). -/
  | clz (o : UnOps)
  /-- CTZ (R310). -/
  | ctz (o : UnOps)
  /-- BREV (R301). -/
  | brev (o : UnOps)
  /-- IMAD (R345). -/
  | imad (o : VOps)
  /-- UMULH (R411). -/
  | umulh (o : VOps)
  /-- IDIV (R344). -/
  | idiv (o : VOps)
  /-- UDIV (R409). -/
  | udiv (o : VOps)
  /-- LUT3 (R357). -/
  | lut3 (o : LutOps)
  /-- FADD (R318). -/
  | fadd (o : VOps)
  /-- FSUB (R318). -/
  | fsub (o : VOps)
  /-- FMUL (R318). -/
  | fmul (o : VOps)
  /-- FFMA (R318). -/
  | ffma (o : VOps)
  /-- FMIN (R332). -/
  | fmin (o : VOps)
  /-- FMAX (R332). -/
  | fmax (o : VOps)
  /-- FMINN (R332). -/
  | fminn (o : VOps)
  /-- FMAXN (R332). -/
  | fmaxn (o : VOps)
  /-- FRCP (R323). -/
  | frcp (o : UnOps)
  /-- FRSQ (R323). -/
  | frsq (o : UnOps)
  /-- FSQRT (R323). -/
  | fsqrt (o : UnOps)
  /-- FEXP2 (R323). -/
  | fexp2 (o : UnOps)
  /-- FLOG2 (R323). -/
  | flog2 (o : UnOps)
  /-- FSIN (R323). -/
  | fsin (o : UnOps)
  /-- FCOS (R323). -/
  | fcos (o : UnOps)
  /-- FTANH (R323). -/
  | ftanh (o : UnOps)
  /-- BADD2 (R294). -/
  | badd2 (o : VOps)
  /-- BMUL2 (R294). -/
  | bmul2 (o : VOps)
  /-- BFMA2 (R294). -/
  | bfma2 (o : VOps)
  /-- BMAX2 (R294). -/
  | bmax2 (o : VOps)
  /-- HADD2 (R337). -/
  | hadd2 (o : VOps)
  /-- HMUL2 (R337). -/
  | hmul2 (o : VOps)
  /-- HFMA2 (R337). -/
  | hfma2 (o : VOps)
  /-- HMAX2 (R337). -/
  | hmax2 (o : VOps)
  /-- FCVT (R324). -/
  | fcvt (o : CvtOps)
  /-- FCVT_SAT (R324). -/
  | fcvtSat (o : CvtOps)
  /-- FRND (R331). -/
  | frnd (o : UnOps)
  /-- FFRAC (R331). -/
  | ffrac (o : UnOps)
  /-- FCLASS (R320). -/
  | fclass (o : UnOps)
  /-- FLDEXP (R331). -/
  | fldexp (o : VOps)
  /-- ICMP (R343). -/
  | icmp (o : CmpOps)
  /-- FCMP (R321). -/
  | fcmp (o : CmpOps)
  /-- SEL (R392). -/
  | sel (o : SelOps)
  /-- PLOP (R370). -/
  | plop (o : PlopOps)
  /-- P2V (R367). -/
  | p2v (d : VReg) (p : PSrc)
  /-- V2P (R412). -/
  | v2p (p : PReg) (a : Src)
  /-- ELECT (R312). -/
  | elect (p : PReg)
  /-- PBAL (R367). -/
  | pbal (d : VReg) (p : PSrc) (a : Src)
  /-- MOV (R358). -/
  | mov (o : UnOps)
  /-- MOV64 (R358). -/
  | mov64 (o : UnOps)
  /-- MOVSR (R360). -/
  | movsr (d : VReg) (n : Fin 43)
  /-- MOVSW (R360). -/
  | movsw (n : Fin 43) (a : Opd)
  /-- MOVIL (R359). -/
  | movil (o : ImmOps)
  /-- MOVIH (R359). -/
  | movih (o : ImmOps)
  /-- MOVIS (R359). -/
  | movis (o : ImmOps)
  /-- MOVIF (R359). -/
  | movif (o : ImmOps)
  /-- SHFL_IDX (R393). -/
  | shflIdx (o : VOps)
  /-- SHFL_UP (R393). -/
  | shflUp (o : VOps)
  /-- SHFL_DN (R393). -/
  | shflDn (o : VOps)
  /-- SHFL_XOR (R393). -/
  | shflXor (o : VOps)
  /-- XPUSH (R415). -/
  | xpush (o : VOps)
  /-- VOTE_ALL (R413). -/
  | voteAll (o : UnOps)
  /-- VOTE_ANY (R413). -/
  | voteAny (o : UnOps)
  /-- VOTE_BAL (R413). -/
  | voteBal (o : UnOps)
  /-- VOTE_EQ (R413). -/
  | voteEq (o : VOps)
  /-- REDUX (R378). -/
  | redux (o : RedOps)
  /-- SCAN (R389). -/
  | scan (o : RedOps)
  /-- SCAN_X (R389). -/
  | scanX (o : RedOps)
  /-- RAND (R376). -/
  | rand (d : VReg)
  /-- RANDF (R376). -/
  | randf (d : VReg)
  /-- RSEED (R376). -/
  | rseed (a : Opd) (b : Opd)
  /-- RSKIP (R376). -/
  | rskip (a : Opd)
  /-- NPACK (R363). -/
  | npack (o : PackOps)
  /-- NUNPK (R363). -/
  | nunpk (o : PackOps)
  /-- NEXT (R363). -/
  | next (o : PackOps)
  /-- NINS (R363). -/
  | nins (o : PackOps)
  /-- AIDX (R284). -/
  | aidx (o : PairOps)
  /-- AIDXU (R284). -/
  | aidxu (o : PairOps)
  /-- ALGN (R284). -/
  | algn (o : PairOps)
  /-- ADIF (R284). -/
  | adif (o : PairOps)
  /-- B2A (R284). -/
  | b2a (o : PairOps)
  /-- A2B (R284). -/
  | a2b (o : PairOps)
  /-- AADD (R284). -/
  | aadd (o : PairOps)
  /-- ASUB (R284). -/
  | asub (o : PairOps)
  /-- LD (R352). -/
  | ld (o : LdOps)
  /-- LDV (R352). -/
  | ldv (o : LdOps)
  /-- ST (R396). -/
  | st (o : StOps)
  /-- STV (R396). -/
  | stv (o : StOps)
  /-- LDA (R355). -/
  | lda (o : LdaOps)
  /-- LDC (R355). -/
  | ldc (o : LdaOps)
  /-- STR (R399). -/
  | str (o : StrOps)
  /-- STC (R399). -/
  | stc (o : StrOps)
  /-- ATOM (R290). -/
  | atom (o : AtomOps)
  /-- ATOMN (R290). -/
  | atomn (o : AtomOps)
  /-- FENCE (R329). -/
  | fence (scope : Scope) (kind : FenceKind)
  /-- BARA (R296). -/
  | bara (g : Fin 256)
  /-- BARW (R296). -/
  | barw (g : Fin 256)
  /-- BAR (R296). -/
  | bar (g : Fin 256)
  /-- PHADV (R235). -/
  | phadv (g : Fin 256)
  /-- NOP (R365). -/
  | nop
  /-- PREF_L1 (R372). -/
  | prefL1 (o : PrefOps)
  /-- PREF_L2 (R372). -/
  | prefL2 (o : PrefOps)
  /-- CINV (R308). -/
  | cinv (o : PrefOps)
  /-- TAGWA (R171). -/
  | tagwa (sa : SReg)
  /-- TAGWY (R171). -/
  | tagwy (sd : SReg) (sa : SReg)
  /-- TAGFF (R171). -/
  | tagff (sd : SReg) (sa : SReg)
  /-- TAGCLR (R171). -/
  | tagclr (sa : SReg)
  /-- TAGRD (R171). -/
  | tagrd (sd : SReg) (tag : Fin 64)
  /-- JPOP (R349). -/
  | jpop (sd : SReg) (mb : Fin 8)
  /-- JDONE (R347). -/
  | jdone
  /-- JYIELD (R347). -/
  | jyield (sa : SReg)
  /-- FSPAWN (R335). -/
  | fspawn (sd : SReg) (sa : SReg)
  /-- FREF (R327). -/
  | fref (sa : SReg) (n : Fin 2048)
  /-- FDROP (R327). -/
  | fdrop (sa : SReg) (n : Fin 2048)
  /-- FWAIT (R336). -/
  | fwait (sa : SReg)
  /-- FPOLL (R333). -/
  | fpoll (sd : SReg) (sa : SReg) (p : PReg)
  /-- FCOMMIT (R322). -/
  | fcommit
  /-- EVSIG (R314). -/
  | evsig (sa : SReg) (n : Fin 2048)
  /-- QSND (R231). -/
  | qsnd (sd : SReg) (sa : SReg)
  /-- QRCV (R231). -/
  | qrcv (sd : SReg) (q : Fin 4)
  /-- QPOLL (R231). -/
  | qpoll (sd : SReg) (q : Fin 4) (p : PReg)
  /-- RACQ (R374). -/
  | racq (sd : SReg) (kind : Fin 4) (k : Fin 512)
  /-- RREL (R374). -/
  | rrel (kind : Fin 4) (k : Fin 512)
  /-- RQRY (R374). -/
  | rqry (sd : SReg) (kind : Fin 4)
  /-- ENTER (R262). -/
  | enter (n : Fin 2048)
  /-- LEAVE (R262). -/
  | leave (n : Fin 2048)
  /-- CONERD (R261). -/
  | conerd (sd : SReg)
  /-- BKPT (R300). -/
  | bkpt (n : Fin 2048)
  /-- TRAP (R407). -/
  | trap (n : Fin 2048)
  /-- TMSET (R406). -/
  | tmset (sa : SReg)
  /-- TRET (R408). -/
  | tret
  /-- SYSR (R401). -/
  | sysr (sd : SReg) (sa : SReg) (n : Fin 2048)
  /-- SYSW (R401). -/
  | sysw (sd : SReg) (sa : SReg) (n : Fin 2048)
  /-- TLBI (R404). -/
  | tlbi (sa : SReg) (kind : Fin 3)
  /-- HALT (R339). -/
  | halt
  /-- KRET (R351). -/
  | kret
  /-- SADD (R384). -/
  | sadd (o : SOps)
  /-- SADD_IMM (R384). -/
  | saddImm (o : SImmOps)
  /-- SSUB (R384). -/
  | ssub (o : SOps)
  /-- SSUB_IMM (R384). -/
  | ssubImm (o : SImmOps)
  /-- SMUL (R384). -/
  | smul (o : SOps)
  /-- SMUL_IMM (R384). -/
  | smulImm (o : SImmOps)
  /-- SMULH (R384). -/
  | smulh (o : SOps)
  /-- SMULH_IMM (R384). -/
  | smulhImm (o : SImmOps)
  /-- SAND (R384). -/
  | sand (o : SOps)
  /-- SAND_IMM (R384). -/
  | sandImm (o : SImmOps)
  /-- SOR (R384). -/
  | sor (o : SOps)
  /-- SOR_IMM (R384). -/
  | sorImm (o : SImmOps)
  /-- SXOR (R384). -/
  | sxor (o : SOps)
  /-- SXOR_IMM (R384). -/
  | sxorImm (o : SImmOps)
  /-- SSHL (R384). -/
  | sshl (o : SOps)
  /-- SSHL_IMM (R384). -/
  | sshlImm (o : SImmOps)
  /-- SSHR (R384). -/
  | sshr (o : SOps)
  /-- SSHR_IMM (R384). -/
  | sshrImm (o : SImmOps)
  /-- SSAR (R384). -/
  | ssar (o : SOps)
  /-- SSAR_IMM (R384). -/
  | ssarImm (o : SImmOps)
  /-- SMIN (R384). -/
  | smin (o : SOps)
  /-- SMIN_IMM (R384). -/
  | sminImm (o : SImmOps)
  /-- SMAX (R384). -/
  | smax (o : SOps)
  /-- SMAX_IMM (R384). -/
  | smaxImm (o : SImmOps)
  /-- SMINU (R384). -/
  | sminu (o : SOps)
  /-- SMINU_IMM (R384). -/
  | sminuImm (o : SImmOps)
  /-- SMAXU (R384). -/
  | smaxu (o : SOps)
  /-- SMAXU_IMM (R384). -/
  | smaxuImm (o : SImmOps)
  /-- SDIVU (R384). -/
  | sdivu (o : SOps)
  /-- SDIVU_IMM (R384). -/
  | sdivuImm (o : SImmOps)
  /-- SMOV (R384). -/
  | smov (o : SOps)
  /-- SMOV_IMM (R384). -/
  | smovImm (o : SImmOps)
  /-- SMOVI_Z (R395). -/
  | smoviZ (sd : SReg) (imm : Fin 65536)
  /-- SMOVI_H1 (R395). -/
  | smoviH1 (sd : SReg) (imm : Fin 65536)
  /-- SMOVI_H2 (R395). -/
  | smoviH2 (sd : SReg) (imm : Fin 65536)
  /-- SMOVI_H3 (R395). -/
  | smoviH3 (sd : SReg) (imm : Fin 65536)
  /-- SCMP (R391). -/
  | scmp (o : ScmpOps)
  /-- SAIDX (R383). -/
  | saidx (o : SaOps)
  /-- SALGN (R383). -/
  | salgn (o : SaOps)
  /-- SB2A (R383). -/
  | sb2a (o : SaOps)
  /-- SA2B (R383). -/
  | sa2b (o : SaOps)
  /-- RDLANE (R377). -/
  | rdlane (sd : SReg) (a : VReg) (lane : Fin 32)
  /-- RDFIRST (R377). -/
  | rdfirst (sd : SReg) (a : VReg)
  /-- SCACC (R200). -/
  | scacc (o : ScaccOps)
  /-- SCACC_UE4M3 (R200). -/
  | scaccUe4m3 (o : ScaccOps)
  /-- ACCCLR (R199). -/
  | accclr (ac : Fin 4) (band : Fin 4)
  /-- ACCRD (R198). -/
  | accrd (o : TileOps)
  /-- ACCWR (R198). -/
  | accwr (o : TileOps)
  /-- PLNRD (R369). -/
  | plnrd (o : PlaneOps)
  /-- BRP (R302). -/
  | brp (p : PReg) (neg : Bool) (off : Fin 65536)
  /-- BRA (R302). -/
  | bra (off : Fin 65536)
  /-- CALL (R304). -/
  | call (off : Fin 65536)
  /-- BRX (R303). -/
  | brx (a : Src)
  /-- CALLX (R306). -/
  | callx (a : Src)
  /-- RET (R380). -/
  | ret
  /-- EXIT (R316). -/
  | exit
  /-- SHL_IMM (R386). -/
  | shlImm (o : ShOps)
  /-- SHR_IMM (R386). -/
  | shrImm (o : ShOps)
  /-- SAR_IMM (R386). -/
  | sarImm (o : ShOps)
  /-- ROT_IMM (R382). -/
  | rotImm (o : ShOps)
  /-- FSHL (R334). -/
  | fshl (o : FunOps)
  /-- FSHR (R334). -/
  | fshr (o : FunOps)
  /-- PREFIX (R61). -/
  | pfx (o : Prefix)
  /-- IADD_C (R56). -/
  | iaddC (o : COps)
  /-- ISUB_C (R56). -/
  | isubC (o : COps)
  /-- IMUL_C (R56). -/
  | imulC (o : COps)
  /-- AND_C (R56). -/
  | andC (o : COps)
  /-- OR_C (R56). -/
  | orC (o : COps)
  /-- XOR_C (R56). -/
  | xorC (o : COps)
  /-- SHL_C (R56). -/
  | shlC (o : COps)
  /-- SHR_C (R56). -/
  | shrC (o : COps)
  /-- IMIN_C (R56). -/
  | iminC (o : COps)
  /-- IMAX_C (R56). -/
  | imaxC (o : COps)
  /-- FADD_C (R56). -/
  | faddC (o : COps)
  /-- FSUB_C (R56). -/
  | fsubC (o : COps)
  /-- FMUL_C (R56). -/
  | fmulC (o : COps)
  /-- FMIN_C (R56). -/
  | fminC (o : COps)
  /-- FMAX_C (R56). -/
  | fmaxC (o : COps)
  /-- MOV_C (R56). -/
  | movC (o : COps)
  /-- ISSUE_OPPORTUNITY (R26). -/
  | issueOpportunity (core : CoreId) (slice : Fin 32)
  /-- AGE_ESCAPE (R31). -/
  | ageEscape (w : WarpId)
  /-- USER_TIMER_EXPIRY (R45). -/
  | userTimerExpiry (w : WarpId)
  /-- ICACHE_LINE_FILL (R431). -/
  | icacheLineFill (core : CoreId) (line : Nat)
  /-- LOAD_REPLY (R354). -/
  | loadReply (id : Nat)
  /-- STORE_AT_HOME (R121). -/
  | storeAtHome (id : Nat)
  /-- ATOMIC_AT_HOME (R292). -/
  | atomicAtHome (id : Nat)
  /-- UNCORRECTABLE_READ (R253). -/
  | uncorrectableRead (key : Nat) (e : ReadError)
  /-- PAGE_WALK_COMPLETE (R138). -/
  | pageWalkComplete (id : Nat)
  /-- FAULT_BUFFER_ENTRY (R141). -/
  | faultBufferEntry (id : Nat)
  /-- FAULT_REPLAY (R142). -/
  | faultReplay (idx : Fin 4096) (ok : Bool)
  /-- DEFERRED_FAULT_DELIVERY (R248). -/
  | deferredFaultDelivery (w : WarpId)
  /-- RACQ_GRANT (R196). -/
  | racqGrant (w : WarpId)
  /-- RREL_FREE (R196). -/
  | rrelFree (w : WarpId)
  /-- JOB_POP (R43). -/
  | jobPop (core : CoreId) (mb : Fin 8)
  /-- BARRIER_COMPLETE (R297). -/
  | barrierComplete (g : Fin 256)
  /-- PHASE_ADVANCE (R235). -/
  | phaseAdvance (core : CoreId)
  /-- PHASE_VALUE_ARRIVAL (R236). -/
  | phaseValueArrival (src : CoreId) (dst : CoreId) (value : BitVec 32)
  /-- QUEUE_MESSAGE_ARRIVAL (R233). -/
  | queueMessageArrival (id : Nat)
  /-- QUEUE_NACK (R233). -/
  | queueNack (id : Nat)
  /-- QUEUE_BACKOFF_RESEND (R233). -/
  | queueBackoffResend (id : Nat)
  /-- QUEUE_ACK (R233). -/
  | queueAck (id : Nat)
  /-- SCACC_PERFORM (R388). -/
  | scaccPerform (core : CoreId)
  /-- GO_ACCEPT (R169). -/
  | goAccept (core : CoreId) (eng : Fin 9)
  /-- ENGINE_COMMAND_COMPLETE (R170). -/
  | engineCommandComplete (id : Nat)
  /-- COPY (R175). -/
  | copy (id : Nat)
  /-- FILL (R176). -/
  | fill (id : Nat)
  /-- QFENCE (R156). -/
  | qfence (id : Nat)
  /-- PINL2 (R176). -/
  | pinl2 (id : Nat)
  /-- UNPIN (R176). -/
  | unpin (id : Nat)
  /-- BCOL (R176). -/
  | bcol (id : Nat)
  /-- ACCOUT (R176). -/
  | accout (id : Nat)
  /-- MATRIX_ACC (R192). -/
  | matrixAcc (id : Nat)
  /-- MATRIX_PLANE (R192). -/
  | matrixPlane (id : Nat)
  /-- MATRIX_ACC_CLEAR (R192). -/
  | matrixAccClear (id : Nat)
  /-- MATRIX_BLOCK_STEP (R194). -/
  | matrixBlockStep (id : Nat)
  /-- GATHER (R179). -/
  | gather (id : Nat)
  /-- NRED (R182). -/
  | nred (id : Nat)
  /-- BCAST (R182). -/
  | bcast (id : Nat)
  /-- COLLECTIVE_TIMEOUT (R182). -/
  | collectiveTimeout (id : Nat)
  /-- EVENT_REQUEST_ARRIVAL (R216). -/
  | eventRequestArrival (id : Nat)
  /-- MAILBOX_PUSH (R218). -/
  | mailboxPush (id : Nat)
  /-- KILN_REMOTE_REQUEST (R221). -/
  | kilnRemoteRequest (r : RemoteReq)
  /-- KILN_REMOTE_ANSWER (R221). -/
  | kilnRemoteAnswer (r : RemoteAns)
  /-- TILE (R212). -/
  | tile (st : StreamId)
  /-- WAITEV (R207). -/
  | waitev (st : StreamId)
  /-- SIGEV (R214). -/
  | sigev (st : StreamId)
  /-- JUMP (R207). -/
  | jump (st : StreamId)
  /-- LOOP (R208). -/
  | loop (st : StreamId)
  /-- KOP_FENCE (R207). -/
  | kopFence (st : StreamId)
  /-- YIELD (R207). -/
  | yield (st : StreamId)
  /-- HOSTSIG (R207). -/
  | hostsig (st : StreamId)
  /-- PIN (R207). -/
  | pin (st : StreamId)
  /-- KOP_UNPIN (R207). -/
  | kopUnpin (st : StreamId)
  /-- PREFETCH (R209). -/
  | prefetch (st : StreamId)
  /-- DROP (R207). -/
  | drop (st : StreamId)
  /-- END (R207). -/
  | endStream (st : StreamId)
  /-- STREAM_RUN (R203). -/
  | streamRun (st : StreamId)
  /-- STREAM_STOP (R203). -/
  | streamStop (st : StreamId)
  /-- KLN_SPC_WRITE (R202). -/
  | klnSpcWrite (st : StreamId) (v : BitVec 64)
  /-- KLN_SLOOP_WRITE (R202). -/
  | klnSloopWrite (st : StreamId) (v : BitVec 64)
  /-- KLN_SSAVE_WRITE (R202). -/
  | klnSsaveWrite (st : StreamId) (v : BitVec 64)
  /-- KLN_EV_FREE_WRITE (R214). -/
  | klnEvFreeWrite (e : Fin 65536) (v : BitVec 128)
  /-- KLN_PREEMPT (R222). -/
  | klnPreempt (v : BitVec 64)
  /-- PREEMPT_AUTOMATIC (R222). -/
  | preemptAutomatic (e : Nat)
  /-- DRAIN_STEP_ADVANCE (R222). -/
  | drainStepAdvance (st : StreamId)
  /-- DRAIN_TIMEOUT (R222). -/
  | drainTimeout (st : StreamId)
  /-- STREAM_RESUME (R224). -/
  | streamResume (st : StreamId)
  /-- RESTORE_VERIFY (R224). -/
  | restoreVerify (st : StreamId)
  /-- REGISTER_WRITE (R271). -/
  | registerWrite (r : RegWrite)
  /-- BLKCTL_CONTINUE (R245). -/
  | blkctlContinue (core : CoreId) (g : Fin 256)
  /-- BLKCTL_DISCARD (R245). -/
  | blkctlDiscard (core : CoreId) (g : Fin 256)
  /-- MEM_OWNER_WRITE (R115). -/
  | memOwnerWrite (core : CoreId) (v : BitVec 64)
  /-- KLN_WAKE (R339). -/
  | klnWake (core : CoreId)
  /-- TLBI_COMPLETE (R405). -/
  | tlbiComplete (w : WarpId)
  /-- DBG_STOP (R265). -/
  | dbgStop (core : CoreId) (v : BitVec 64)
  /-- TRACE_SAMPLE (R264). -/
  | traceSample (core : CoreId)
  /-- CONE_TICK (R259). -/
  | coneTick
  /-- CONE_EPOCH_ALERT (R259). -/
  | coneEpochAlert
  /-- CONE_PHYS_STOP (R259). -/
  | conePhysStop
  /-- CONE_PHYS_WRITE (R259). -/
  | conePhysWrite (v : BitVec 64)
  /-- HBM_SLOT_SERVE (R275). -/
  | hbmSlotServe (id : Nat)
  /-- HBM_REFRESH (R430). -/
  | hbmRefresh (bank : Nat)
  /-- UALINK_PACKET_RECEIVE (R258). -/
  | ualinkPacketReceive (p : Packet)
  /-- UALINK_CRC_ERROR (R253). -/
  | ualinkCrcError (port : Fin 16) (again : Bool)
  /-- LINK_TRAINING (R239). -/
  | linkTraining (port : Fin 16) (lat : BitVec 64)
  /-- LINK_DOWN (R239). -/
  | linkDown (port : Fin 16)
  /-- BAR2_ACCESS (R270). -/
  | bar2Access (a : Bar2)
  /-- HOH2D_RELEASED (R274). -/
  | hoh2dReleased (f : Fin 16)
  /-- HOH2D_GIVE_REQUEST (R274). -/
  | hoh2dGiveRequest (f : Fin 16)
  /-- MSIX_UNMASK (R272). -/
  | msixUnmask (f : Fin 16) (vec : Fin 64)
  /-- FUNCTION_LEVEL_RESET (R276). -/
  | functionLevelReset (f : Fin 16)
  /-- FLR_COMMAND_TIMEOUT (R276). -/
  | flrCommandTimeout (f : Fin 16)
  /-- PARTITION_ENABLE (R273). -/
  | partitionEnable (f : Fin 16) (v : BitVec 64)
  /-- SEC_SVN_WRITE (R271). -/
  | secSvnWrite (v : BitVec 64)
  /-- CAP_FRAME (R280). -/
  | capFrame (fr : CapFrame)
  /-- CAP_EXPIRY (R281). -/
  | capExpiry (i : Nat)
  /-- PARTITION_DUTY_WINDOW (R281). -/
  | partitionDutyWindow (f : Fin 16)
  /-- THERMAL_LIMIT (R282). -/
  | thermalLimit (t : Thermal)
  /-- BRING_UP (R283). -/
  | bringUp (b : BringUp)
  /-- SPDM_REQUEST (R279). -/
  | spdmRequest (q : SpdmReq)
  /-- ENCODING_NOT_AN_INSTRUCTION (R71). -/
  | encodingNotAnInstruction
  /-- BADKOP (R207). -/
  | badkop (st : StreamId)
  /-- OPERATOR_WORD_FETCH_FAULT (R204). -/
  | operatorWordFetchFault (st : StreamId)
  /-- ENGINE_SOURCE_REPLY (R178). -/
  | engineSourceReply (id : Nat)
deriving DecidableEq, Repr

end Sys2Proof
end

