-- ==== Sys2Proof/Machine/State.lean ====
section
/-!
DEFINITION. Sys2Proof/Machine/State.lean: the state of one N9 package as plain data, and the state after reset.
INVENTORY.md lists every field with the rule of spec/ that names it. Sparse tables (`SMap`) hold only the entries
that differ from the table's default: a warp, a core or an event that is not listed is at its reset value.
A memory byte is keyed by a number made from its space and its byte (Machine/Mem.lean).
-/

namespace Sys2Proof.Machine
open Sys2Proof

/-! ## Addresses -/

/-- The physical spaces a page can name (R112). -/
inductive Space where
  | hbm | lpddr | host
  /-- A remote chip's HBM: the 52-bit address names the chip (R112). -/
  | remote
  | spad (core : Nat)
  | bsram (core : Nat)
deriving DecidableEq, Repr

/-- A physical bit address in its space (R108, R114). -/
structure PAddr where
  space : Space
  bit : Nat
deriving DecidableEq, Repr

/-- The home at which an access is performed (R121). -/
inductive Home where
  | l2 (slice : Nat)
  | sram (core : Nat)
  /-- The memory controller of a HOME = 11 page. -/
  | mem
deriving DecidableEq, Repr

/-- A run of bits of one thread's access: the run starts at bit `pos` of the thread's value. -/
structure Piece where
  t : Fin 32
  pos : Nat
  pa : PAddr
  width : Nat
deriving DecidableEq, Repr

/-- A byte to be written under a bit mask (R121). -/
structure ByteWrite where
  key : Nat
  mask : Byte
  value : Byte
deriving DecidableEq, Repr

/-- A leaf held by a TLB, for the partition that filled it (R110, R138). -/
structure TlbEntry where
  part : Nat
  base : Nat
  size : Nat
  pte : BitVec 64
deriving DecidableEq, Repr

/-! ## Warps -/

/-- An entry of a warp's frontier (R28). `pc` is a clause header, or the instruction at which a W-form entry is parked
or at which a return resumes a body of the clause at `hdr` (R250, R242). -/
structure Entry where
  pc : W64
  hdr : W64
  prio : BitVec 12
  mask : BitVec 32
  /-- Instructions issued from other entries since it last issued (R31). -/
  age : Nat := 0
  /-- The age escape has found it due (R31). -/
  due : Bool := false
  /-- Parked at a W-form cross-lane operation (R250). -/
  parked : Bool := false
  /-- The member set that a parked entry waits for (R250). -/
  members : BitVec 32 := 0
  /-- An entry of kernel mode (R241). -/
  kernel : Bool := false
deriving DecidableEq, Repr

/-- The entry that is running a clause body (R29, R48). -/
structure Body where
  hdr : W64
  /-- The next instruction. -/
  pc : W64
  /-- The bit address after the body (R48). -/
  stop : W64
  prio : BitVec 12
  mask : BitVec 32
  setA : Option (Fin 12)
  setB : Option (Fin 12)
  kernel : Bool
deriving DecidableEq, Repr

/-- An entry of a thread's Coil (R32). -/
structure CoilEntry where
  pc : W64
  prio : BitVec 12
deriving DecidableEq, Repr

/-- What an instruction that has issued and not returned waits for (R26, R266). -/
inductive Wait where
  | none
  /-- JPOP, arrived (R43, R349). -/
  | jpop (sd : SReg)
  /-- FWAIT on a local index, or on a name of another chip (R219, R336). -/
  | fwait (name : BitVec 26)
  /-- BAR or BARW on a generation of a group; `own` when it made the arrival itself (R297, R298). -/
  | bar (g : Fin 256) (gen : Bool) (own : Bool)
  | phadv (g : Fin 256)
  | qrcv (sd : SReg) (q : Fin 4) (flag : Option (Fin 12))
  | racq (sd : SReg) (kind : Fin 4) (k : Fin 512) (since : Nat)
  | rrel (kind : Fin 4) (k : Fin 512)
  | tagwa (mask : W64)
  | tagwy (sd : SReg) (mask : W64)
  | tagff (sd : SReg) (mask : W64)
  /-- A SYSW held behind the warp's stores (R402). -/
  | sysw
  /-- A TLBI of a kind on a value, for the partition of its warp (R404, R405). -/
  | tlbi (kind : Fin 3) (value : W64) (part : BitVec 4)
  /-- HALT, until a wake event (R339). -/
  | halt
  /-- A replayable fault in the fault buffer (R141); `coil` when it is that of a Coil access (R33). -/
  | replay (coil : Bool)
  /-- A replayable fault of a fetch in the fault buffer (R47, R140). -/
  | fetch
  /-- Page walks of an instruction's accesses; the cycle in which it issued, none where it is to fault (R138, R248). -/
  | walk (since : Option Nat)
  /-- The page walk of a fetch that is to fault (R47, R138). -/
  | xlate
  /-- Coil spills or refills not yet performed (R305, R381); the op that performs them. -/
  | coil (op : Nat)
  /-- Stopped by a kernel-mode fault (R246). -/
  | stopped
deriving DecidableEq, Repr

/-- A fault detected after issue, to be delivered at the warp's next issue opportunity (R248). -/
structure Deferred where
  code : BitVec 6
  sub : BitVec 6
  addr : W64
  tmask : BitVec 32
  pc : W64
  /-- The warp's issue count when the faulting instruction issued. -/
  seq : Nat
  cycle : Nat
  /-- The instruction issued in kernel mode. -/
  kernel : Bool
  /-- Its number; the stamp taken when it was detected, once issued, and the bits of RECLAIM then (R243). -/
  key : Nat
  cone : Option W64
  rcl : Bool
  drn : Bool
deriving DecidableEq, Repr

/-- What a read of a special register latches for its high half (R69). -/
structure Latches where
  cycle : Option W32 := none
  cone : Option W32 := none
  tcmp : Option W32 := none
deriving DecidableEq, Repr

/-- The grant of a waiting RACQ: its cycle, how many instructions its warp had issued, its register with what that held and when
that was to be there, and where the warp stood (R375). -/
structure Grant where
  at_ : Nat
  seq : Nat
  sd : SReg
  was : W64
  late : Option (Option Nat)
  body : Option Body
  frontier : List Entry
deriving DecidableEq, Repr

/-- One resident warp (R19, R20). -/
structure Warp where
  /-- Mapped vector registers, one value per thread (R34). -/
  v : SMap (Vector W32 32)
  s : Vector W64 32
  /-- Predicates, one bit per thread (R5). -/
  p : Vector (BitVec 32) 48
  /-- Completion flags (R53). -/
  flags : Vector (BitVec 6) 12
  frontier : List Entry
  /-- The body in execution; none at a clause boundary. -/
  body : Option Body
  /-- Each thread's Coil, newest entry first, at most four (R32). -/
  coil : Vector (List CoilEntry) 32
  csp : Vector W64 32
  coilDep : Vector W32 32
  /-- MODE: true in kernel mode (R69). -/
  kernel : Bool
  part : BitVec 4
  /-- Event name of the current job (R69). -/
  job : Option (BitVec 26)
  tile : W32
  /-- RECLAIM[0], RECLAIM[1] and RECLAIM[15:8] (R69). -/
  rcl : Bool
  drn : Bool
  jobGen : BitVec 8
  tcmp : W64
  tvec : W32
  tepc : W32
  tcause : W32
  rngCtr : W32
  rngLo : W32
  rngHi : W32
  fpctl : W32
  fpstat : W32
  floor : BitVec 7
  headroom : BitVec 7
  /-- The region stack, top first, at most sixteen, and its depth (R262). -/
  regions : List (BitVec 11)
  rgnDepth : BitVec 8
  latches : Latches
  /-- Staging words W0 to W3 (R165). -/
  stage : Vector W64 4
  /-- A GO that waits for acceptance, and the first cycle in which a window store may issue after it (R169). -/
  goPending : Bool
  goFree : Nat
  /-- The worker block, by its group id; none for a warp of the Wheel. -/
  block : Option (Fin 256)
  privBase : W64
  cspTop : W64
  /-- Order of placement: the cycle (R27). -/
  placed : Nat
  wait : Wait
  /-- The flag that counts an instruction whose access waits in the fault buffer (R54). -/
  waitFlag : Option (Fin 12)
  /-- Availability of results not yet ready: code to cycle, none while a load is outstanding (R24). -/
  ready : SMap (Option Nat)
  /-- Registers whose outstanding load missed L1, and registers whose load a scratchpad bank has deferred, from the cycle at
  which it would have been there (R125, R266). -/
  missing : List Nat
  deferral : SMap Nat
  /-- The first cycle at which the warp may issue again, and the stall reason charged until then (R266). -/
  nextIssue : Nat
  nextWhy : Nat
  /-- Stores, atomics and window stores that have not reached their R54 event (R151). -/
  stores : List Nat
  /-- Loads outstanding. -/
  loads : List Nat
  /-- Tokens and a cycle that later memory accesses and synchronising instructions wait for (R330, R356). -/
  hold : List Nat
  holdUntil : Nat
  /-- An acquiring FENCE of CORE scope or wider holds the warp; and the L1 sectors that were filled before such a hold ended,
which its loads do not hit (R150, R151). -/
  fenced : Bool
  stale : List Nat
  /-- Threads whose strong writes record their core after a CORE-scope FENCE release (R152). -/
  coreRelease : BitVec 32
  /-- Instructions issued, for NLATER (R248). -/
  issued : Nat
  lastIssue : Nat
  deferred : List Deferred
  /-- Stopped by its block's halt broadcast (R244), and SKID of its record. -/
  halted : Bool
  skid : Bool
  /-- The stamp of the fault that stops it, and the bits of RECLAIM then (R243, R244). -/
  haltAt : Option (W64 × Bool × Bool)
  /-- Generation of each group at which the warp has an arrival (R297). -/
  arrived : SMap Bool
  /-- Its arrival at PHADV has found every earlier store performed (R235). -/
  phaseReady : Bool
  /-- It has taken the trap of the debugger stop that its core requests (R265). -/
  dbgStopped : Bool
  /-- It moves to the reclaim entry at its next clause boundary (R220). -/
  xfer : Bool
  /-- FPOLLs whose answer has not come; until then its loads do not hit L1 (R151, R219). -/
  polls : Nat
  /-- The last grant of a waiting RACQ (R375). -/
  granted : Option Grant
  /-- Bodies that wait in a BAR of the generation for which the running one waits (R297). -/
  bars : List Body
deriving DecidableEq, Repr

/-! ## Cores -/

/-- A copy tag (R170). -/
inductive Tag where
  | idle
  | busy
  | done (status : Fin 4)
deriving DecidableEq, Repr

/-- An entry of a mailbox: the event's index and the four words of R218. -/
structure MboxEntry where
  idx : Nat
  words : Vector W64 4
deriving DecidableEq, Repr

/-- A message held in a receive queue, with the cycle of its arrival (R232). -/
structure Held where
  value : W64
  at_ : Nat
deriving DecidableEq, Repr

/-- A slice: busy until a cycle, and the residency slot that issued last (R26). -/
structure Slice where
  busy : Nat := 0
  last : Nat := 3
deriving DecidableEq, Repr

/-- A SCACC that waits for the scale datapath, with its scale words read at issue (R388). -/
structure Scacc where
  w : Nat
  ac : Fin 4
  pl : Fin 8
  imm : Fin 16
  ue : Bool
  sa : Vector W32 32
  sb : List (Vector W32 32)
  flag : Option (Fin 12)
  at_ : Nat
deriving DecidableEq, Repr

/-- A line of instructions on its way, and the operation that brings it (R431). -/
structure IcReq where
  line : Nat
  op : Nat
deriving DecidableEq, Repr

/-- What an instruction of a core's own warps needs of its SRAM: its request, its slice, and rows to serve by bank; the first
frame in which it needs them (R124, R125). -/
structure BankUse where
  req : Nat
  slice : Nat
  rows : SMap Nat
  frame : Nat
deriving DecidableEq, Repr

/-- One core. -/
structure Core where
  tags : Vector Tag 64
  tagBmp : W64
  phase : W32
  phAllow : BitVec 8
  /-- seen(n): the phase of neighbour n as delivered (R236). -/
  seen : SMap W32
  queues : Vector (List Held) 4
  /-- Tags as they stood at the end of the cycle before their last change, and the cycle of that change (R171). -/
  tagWas : Vector Tag 64
  tagAt : Vector Nat 64
  mail : Vector (List MboxEntry) 8
  /-- Accepted commands of the nine engine queues in the order of R168's mask bits, oldest first. -/
  eng : Vector (List Nat) 9
  /-- GOs waiting for acceptance, per queue, with the cycle from which they may be accepted. -/
  go : Vector (List (Nat × Nat)) 9
  /-- Accumulator file: element (unit x 128 + row) x 128 + column; units 0-3 tiles, 4-11 planes (R196). -/
  acc : SMap W32
  /-- Units whose contents are undefined where `acc` lists no element, with the number of the draw that gives them (R201). -/
  accFree : SMap Nat
  /-- What the accumulator-file instructions of a cycle have replaced, the last first: residency slot, element and bits; and that
cycle (R388). -/
  accPast : List (Nat × Nat × W32)
  accPastAt : Nat
  tileHolder : Vector (Option (Fin 256)) 4
  planeHolder : Vector (Option (Fin 256)) 8
  poolHolder : Vector (Option (Fin 256)) 64
  scaccs : List Scacc
  /-- The first cycle at which the scale datapath is free (R388). -/
  scaleFree : Nat
  /-- C of the last block of the array's sequence, and Dend of the last two (R194). -/
  mxC : Nat
  mxD1 : Nat
  mxD2 : Nat
  /-- L1 sectors by physical sector number (R127). -/
  l1 : SMap (BitVec 256)
  /-- Lines of L1, youngest first (R14, R127). -/
  l1Age : List Nat
  tlb : List TlbEntry
  /-- Instruction cache lines by physical line number, and the lines requested (R431). -/
  icache : SMap (BitVec 1024)
  icWait : List IcReq
  /-- Lines of the instruction cache, youngest first (R14), and lines that met SRAM whose owner has exited (R115). -/
  icAge : List Nat
  icGone : List Nat
  /-- Instruction sectors that were poisoned when their line came (R254). -/
  icBad : List Nat
  slices : SMap Slice
  /-- Instructions that the banks of the core's SRAM still serve, and the slice that each bank served last (R125). -/
  banks : List BankUse
  bankLast : SMap Nat
  /-- SEQ of the next trace record, and the next warp to sample (R263, R264). -/
  traceSeq : BitVec 16
  /-- Records of the trace ring that software has not freed (R263). -/
  traceHeld : Nat
  sampleNext : Nat
  /-- A kernel-mode fault has closed it to pushes (R246). -/
  noPush : Bool
  /-- A block has been placed since bring-up (R115). -/
  hosted : Bool
deriving DecidableEq, Repr

/-! ## Memory operations in flight -/

/-- What an operation in flight does when its data is there. -/
inductive OpKind where
  /-- LD, LDV, LDA or LDC into v(d) on, with its width code, whether L1 may serve and keep it. -/
  | load (d : Nat) (wc : Nat) (l1 : Bool) (fill : Bool)
  /-- LDA: its scope is CORE or wider, and REM (R356). -/
  | lda (d : Nat) (w64 : Bool) (core : Bool) (l1 : Bool) (rem : Bool)
  | store
  /-- STR or STC. -/
  | strong
  | atom (d : Option Nat) (op : AtomOp) (size : AtomSize)
  /-- PREF to L1 or to L2. -/
  | pref (l1 : Bool)
  /-- Coil spills of a CALL (R33), with the destination of each thread and the clause to return to. -/
  | spill (dest : Vector W64 32) (ret : W64) (prio : BitVec 12)
  /-- Coil refills of a RET (R33). -/
  | refill
  /-- A read for engine command `cmd`: source block `block`. -/
  | cmdRead (cmd : Nat) (block : Nat)
  /-- A write of engine command `cmd`. -/
  | cmdWrite (cmd : Nat)
  /-- A write of the Kiln's save area for a stream (R222 step 4), or its reads (R224). -/
  | save (st : Fin 64)
  | restore (st : Fin 64)
  /-- The read of a line of instructions for a core (R431). -/
  | line (core : CoreId) (line : Nat)
  /-- The read of a table entry by a page walk (R138). -/
  | table (walk : Nat)
deriving DecidableEq, Repr

/-- A request of an operation (R125, R130). -/
structure Req where
  op : Nat
  pieces : List Piece
  /-- The first bit of the aligned 1,024-bit block, and the window fetched in it. -/
  block : PAddr
  off : Nat
  grain : Nat
  home : Home
  enc : Bool
  lu : Bool
  nt : Bool
  /-- No L1 copy is made of it (R127, R309). -/
  noAlloc : Bool
  write : Bool
  /-- Cycle at which it left its core, and at which it reaches the HBM controller. -/
  sent : Nat
  arrive : Nat
  /-- It missed L2 and waits for a slot (R275). -/
  waiting : Bool
  missed : Bool
  /-- Cycles that its route to HBM adds, fixed when it is sent (R132, R133). -/
  route : Nat
  /-- Cycles added to its class figure (R293, R356). -/
  extra : Nat
  /-- It has taken effect: its data is read, or its write performed. -/
  done : Bool
deriving DecidableEq, Repr

/-- A memory instruction or engine access in flight. -/
structure Op where
  w : Nat
  /-- WARP of its warp, which it keeps when the warp has ended (R398). -/
  slot : Nat
  core : Nat
  part : BitVec 4
  kind : OpKind
  issued : Nat
  occ : Nat
  act : BitVec 32
  addr : Vector W64 32
  width : Nat
  /-- Data stored, or gathered so far, per thread. -/
  data : Vector Nat 32
  /-- Second operand of an atomic, per thread. -/
  data2 : Vector Nat 32
  /-- Requests not yet answered. -/
  left : Nat
  poison : BitVec 32
  poisonSub : BitVec 6
  gone : BitVec 32
  flag : Option (Fin 12)
  pc : W64
  seq : Nat
  kernel : Bool
  /-- Threads whose write records the core on its line (R152). -/
  recs : BitVec 32
  /-- Faults found since it issued (R247, R248). -/
  late : List Deferred
  /-- Spills to be performed when every one of them has found its home (R33, R305). -/
  parts : List Req
deriving DecidableEq, Repr

/-! ## Engine commands -/

/-- A matrix command on the array (R193 to R195). -/
structure MxRun where
  /-- Compute start and drain start of each of its blocks. -/
  blocks : List (Nat × Nat)
  /-- Reads of A to come: cycle, row, chunk and scratchpad offset. -/
  plan : List (Nat × Nat × Nat × Nat)
  /-- A by row, and B of the block in compute by column, as read so far. -/
  a : List Nat
  b : List Nat
  /-- Sums of the blocks that have been computed, by block, row by row. -/
  sums : SMap (List W32)
  /-- The array's C and Dends before the command. -/
  prev : Nat × Nat × Nat
deriving DecidableEq, Repr

/-- An engine command from its GO to its end (R165 to R186). -/
structure Cmd where
  core : Nat
  queue : Fin 9
  tag : Option (Fin 64)
  w : Nat
  block : Option (Fin 256)
  part : BitVec 4
  /-- The issuing warp's MODE (R113). -/
  kernel : Bool
  /-- The flag that counts its GO until acceptance (R54). -/
  flag : Option (Fin 12)
  /-- The release of its GO has taken effect (R157). -/
  released : Bool
  /-- Its start waits for that release, or on a replayable fault. -/
  waiting : Bool
  job : Option (BitVec 26)
  /-- GEN of the job's entry, and whether the job has been reclaimed since (R184, R185). -/
  gen : BitVec 8
  dead : Bool
  notify : Bool
  bound : Bool
  words : Vector W64 4
  accepted : Option Nat
  /-- It has issued its first read (R185). -/
  started : Bool
  /-- Shape or parameter block once read. -/
  shape : Option (BitVec 512)
  /-- Source blocks by number, with their data once arrived. -/
  src : SMap (Option Nat)
  /-- Writes to come, by operation, and writes sent and not performed; of a QFENCE, the commands that it waits for. -/
  dst : List Nat
  writes : Nat
  /-- The first cycle that is free for its next write. -/
  nextSend : Nat
  /-- A gather's elements are being read; a matrix command is to be rejected at its start (R191). -/
  stage : Nat
  mx : Option MxRun
  /-- Of a matrix command, where the pages of A lie, by page number (R191). -/
  pages : SMap PAddr
  /-- Its status once it has ended, with the cause of an ERROR. -/
  finished : Option (Fin 4)
  cause : Nat
  /-- Its stream, and of a Kiln command the counter that a PREFETCH signals (R209). -/
  stream : Option (Fin 64)
  signal : Option (BitVec 32)
deriving DecidableEq, Repr

/-- An open collective instance (R182): its group, the P of its first command, its commands in the order in which they
arrived, and whether all have. -/
structure Coll where
  g : Fin 256
  p : Nat
  members : List Nat
  closed : Bool
  /-- Its time has run out while contributions were on their way. -/
  expired : Bool
deriving DecidableEq, Repr

/-! ## Messages and releases -/

/-- A QSND message (R231 to R233). -/
structure Msg where
  src : Nat
  dst : Nat
  q : Fin 4
  num : Nat
  value : W64
  w : Nat
  flag : Option (Fin 12)
  nacks : Nat
  /-- It has left its core, with its number. -/
  left : Bool
deriving DecidableEq, Repr

/-- The replay state of a sender core and a destination queue (R233). -/
structure Pair where
  next : Nat
  window : List Nat
  /-- The number whose NACK the destination has sent and waits for. -/
  blocked : Option Nat
  /-- The next number the destination takes. -/
  expect : Nat
  /-- The first cycle in which the sender's resends leave the link free. -/
  linkFree : Nat
deriving DecidableEq, Repr

/-- What the end of a job leaves to be done to the table in its cycle: a reference dropped for a partition, and the consumers of
a producer that has retired or failed (R216, R217). -/
inductive TableAct where
  | drop (name : BitVec 26) (gen : BitVec 8) (part : BitVec 4)
  | retired (name : BitVec 26) (gen : BitVec 8)
  | failed (name : BitVec 26) (gen : BitVec 8)
  /-- A region of a partition becomes undefined (R160). -/
  | undefine (part : BitVec 4) (first bits : Nat)
deriving DecidableEq, Repr

/-- An event of the agenda: a step of the part that has no word, under the name of its row of the opcode table, or an inner
event of the model. The step runs a row's event as `exec` runs the row (Machine/Fire.lean). -/
inductive Ev where
  | issueOpportunity (core : CoreId) (slice : Fin 32)
  | ageEscape (w : WarpId)
  | userTimerExpiry (w : WarpId)
  | icacheLineFill (core : CoreId) (line : Nat)
  | loadReply (id : Nat)
  | storeAtHome (id : Nat)
  | atomicAtHome (id : Nat)
  | uncorrectableRead (key : Nat) (e : ReadError)
  | pageWalkComplete (id : Nat)
  | faultBufferEntry (id : Nat)
  | faultReplay (idx : Fin 4096) (ok : Bool)
  | deferredFaultDelivery (w : WarpId)
  | racqGrant (w : WarpId)
  | rrelFree (w : WarpId)
  | jobPop (core : CoreId) (mb : Fin 8)
  | barrierComplete (g : Fin 256)
  | phaseAdvance (core : CoreId)
  | phaseValueArrival (src : CoreId) (dst : CoreId) (value : BitVec 32)
  | queueMessageArrival (id : Nat)
  | queueNack (id : Nat)
  | queueBackoffResend (id : Nat)
  | queueAck (id : Nat)
  | scaccPerform (core : CoreId)
  | goAccept (core : CoreId) (eng : Fin 9)
  | engineCommandComplete (id : Nat)
  | copy (id : Nat)
  | fill (id : Nat)
  | qfence (id : Nat)
  | pinl2 (id : Nat)
  | unpin (id : Nat)
  | bcol (id : Nat)
  | accout (id : Nat)
  | matrixAcc (id : Nat)
  | matrixPlane (id : Nat)
  | matrixAccClear (id : Nat)
  | matrixBlockStep (id : Nat)
  | gather (id : Nat)
  | nred (id : Nat)
  | bcast (id : Nat)
  | collectiveTimeout (id : Nat)
  | eventRequestArrival (id : Nat)
  | mailboxPush (id : Nat)
  | kilnRemoteRequest (r : RemoteReq)
  | kilnRemoteAnswer (r : RemoteAns)
  | tile (st : StreamId)
  | waitev (st : StreamId)
  | sigev (st : StreamId)
  | jump (st : StreamId)
  | loop (st : StreamId)
  | kopFence (st : StreamId)
  | yield (st : StreamId)
  | hostsig (st : StreamId)
  | pin (st : StreamId)
  | kopUnpin (st : StreamId)
  | prefetch (st : StreamId)
  | drop (st : StreamId)
  | endStream (st : StreamId)
  | badkop (st : StreamId)
  | streamRun (st : StreamId)
  | streamStop (st : StreamId)
  | klnSpcWrite (st : StreamId) (v : BitVec 64)
  | klnSloopWrite (st : StreamId) (v : BitVec 64)
  | klnSsaveWrite (st : StreamId) (v : BitVec 64)
  | klnEvFreeWrite (e : Fin 65536) (v : BitVec 128)
  | klnPreempt (v : BitVec 64)
  | preemptAutomatic (e : Nat)
  | drainStepAdvance (st : StreamId)
  | drainTimeout (st : StreamId)
  | streamResume (st : StreamId)
  | restoreVerify (st : StreamId)
  | registerWrite (r : RegWrite)
  | blkctlContinue (core : CoreId) (g : Fin 256)
  | blkctlDiscard (core : CoreId) (g : Fin 256)
  | memOwnerWrite (core : CoreId) (v : BitVec 64)
  | klnWake (core : CoreId)
  | tlbiComplete (w : WarpId)
  | dbgStop (core : CoreId) (v : BitVec 64)
  | traceSample (core : CoreId)
  | coneTick
  | coneEpochAlert
  | conePhysStop
  | conePhysWrite (v : BitVec 64)
  | hbmSlotServe (id : Nat)
  | hbmRefresh (bank : Nat)
  | ualinkPacketReceive (p : Packet)
  | ualinkCrcError (port : Fin 16) (again : Bool)
  | linkTraining (port : Fin 16) (lat : BitVec 64)
  | linkDown (port : Fin 16)
  | bar2Access (a : Bar2)
  | hoh2dReleased (f : Fin 16)
  | hoh2dGiveRequest (f : Fin 16)
  | msixUnmask (f : Fin 16) (vec : Fin 64)
  | functionLevelReset (f : Fin 16)
  | flrCommandTimeout (f : Fin 16)
  | partitionEnable (f : Fin 16) (v : BitVec 64)
  | secSvnWrite (v : BitVec 64)
  | capFrame (fr : CapFrame)
  | capExpiry (i : Nat)
  | partitionDutyWindow (f : Fin 16)
  | thermalLimit (t : Thermal)
  | bringUp (b : BringUp)
  | spdmRequest (q : SpdmReq)
  | encodingNotAnInstruction
  | operatorWordFetchFault (st : StreamId)
  | engineSourceReply (id : Nat)
  /-- The SETB count of a staged window word drops (R166). -/
  | staged (w : Nat) (flag : Option (Fin 12)) (tok : Nat)
  /-- A strong write or message leaves its core. -/
  | sendOp (op : Nat)
  /-- The banks of a core's SRAM serve the frame that ends (R125). -/
  | bankFrame (core : Nat)
  | sendMsg (msg : Nat)
  /-- An arrival at a barrier takes effect (R298). -/
  | arrive (w : Nat) (g : Fin 256)
  | phaseReady (w : Nat)
  /-- A waiting instruction's condition has held: it returns with a value (R171, R297, R336, ...). -/
  | wake (w : Nat) (value : W64)
  /-- The waits on the tags of a core are looked at (R171). -/
  | tagCheck (core : Nat)
  /-- A command starts, or goes on where a fault has held it (R142, R177); or a fault of its ends it. -/
  | cmdStart (id : Nat)
  | cmdFault (id : Nat)
  /-- A stream's operator word is fetched again, or its fault stands (R142, R204). -/
  | streamReplay (st : StreamId) (ok : Bool)
  /-- The release of a command's GO has taken effect (R151, R157). -/
  | cmdReleased (id : Nat)
  /-- A SYSW is performed, and a SYSR reads its register (R402). -/
  | sysw (w : Nat) (reg : Nat) (value : W64)
  | sysr (w : Nat) (sd : SReg) (reg : Nat)
  /-- A job ends DONE once its commands have ended, is pushed or is granted: the Kiln looks at an event. -/
  | kiln (idx : Nat)
  | table (a : TableAct)
  /-- The Kiln looks at its table when the changes of a cycle have been made: pushes, streams that wait or are saved. -/
  | kilnLook
  /-- The Kiln's fetcher arbitrates. -/
  | fetch
  /-- An ACCWR or ACCCLR is performed: the warp, the element unit x 128 + row where it begins, how many elements, those it
  writes and their values (R197 to R199). -/
  | accWrite (w : Nat) (core : CoreId) (at_ : Nat) (values : List (Option W32))
  /-- A halt broadcast stops the warp: detected in the cycle before (R244). -/
  | halted (w : Nat) (since : Nat)
  /-- The Wheel looks whether the stores and commands of an ended block have ended, to give up its SRAM (R115, R316). -/
  | vacate (core : CoreId) (g : Fin 256)
  /-- The trace record of a job pop, of the warp of its block that arrived last (R263). -/
  | popRecord (core : Nat) (payload : Nat) (warp : Option Nat)
deriving DecidableEq, Repr

/-- An event held until tokens have gone: it happens `add` cycles after the later of `base` and that cycle (R151). -/
structure Rel where
  deps : List Nat
  base : Nat
  add : Nat
  ev : Ev
deriving DecidableEq, Repr

/-! ## The Kiln -/

/-- What a WAITING stream waits for (R223). -/
inductive StreamWait where
  | none
  | waitev (prod : BitVec 26) (cons : BitVec 16)
  | fence
  | handover
deriving DecidableEq, Repr

/-- A drain in progress: its step, the stream it favours, and when step 2 began (R222). -/
structure Drain where
  favour : Fin 64
  step : Nat
  since : Nat
  timedOut : Bool
deriving DecidableEq, Repr

/-- A stream (R202, R203). -/
structure Stream where
  part : BitVec 4
  prio : BitVec 3
  run : Bool
  pc : W64
  loop : W64
  save : W64
  host : W64
  eidx : BitVec 32
  code : BitVec 8
  state : Fin 7
  wait : StreamWait
  /-- A TILE stopped part-way at `eidx` (R207, R212). -/
  part_way : Bool
  stamp : W64
  scount : BitVec 32
  drain : Option Drain
  /-- PREFETCH, PIN and UNPIN commands that have not completed. -/
  copies : Nat
  /-- A replayable fault holds its word (R141, R209, R211). -/
  held : Bool
  /-- Its save area is being read back (R224). -/
  resuming : Bool
  /-- RUN = 0 has been written while one of its words is in execution (R203). -/
  stopping : Bool
  /-- Its READY jobs are not pushed: from a drain of it to its restore (R222, R224). -/
  frozen : Bool
deriving DecidableEq, Repr

/-- The Kiln's record of a job beside its 128-bit entry (R212 to R219, R225). -/
structure JobInfo where
  arg : W64
  out : W64
  cont : Bool
  child : Bool
  parent : BitVec 26
  part : BitVec 4
  /-- Producers that hold its stencil references, by name and generation. -/
  refs : List (BitVec 26 × BitVec 8)
  /-- Producers whose retirement it waits for. -/
  prods : List (BitVec 26 × BitVec 8)
  children : List (BitVec 26 × BitVec 8)
  /-- Order of creation (R218). -/
  created : Nat
  /-- The cycle from which it has found no room in any mailbox of its template (R222). -/
  blocked : Option Nat
  /-- Core and mailbox that hold its entry, or will when its push ends. -/
  queued : Option (Nat × Nat)
  pushing : Bool
  excluded : Option Nat
  retried : Bool
  /-- A block has popped it. -/
  popped : Bool
  /-- Its count reached zero when it was committed: its result is discarded at retirement (R160, R216, R220). -/
  discard : Bool
  /-- Its reclaim is pending (R220). -/
  reclaim : Bool
  /-- Parts of warps that have not reached the entry's end (R43). -/
  parts : Nat
  /-- N = 1 commands outstanding, and whether the last live warp has ended (R184). -/
  cmds : Nat
  jdone : Bool
  /-- The block's last live warp ended without ending its part (R317). -/
  failed : Bool
  block : Option (Nat × Fin 256)
  /-- SA of the last JYIELD. -/
  yieldTo : Option W64
  /-- The words of the entry that its block has popped, and the warp that ended its part last (R218, R263). -/
  words : Vector W64 4
  last : Option Nat
deriving DecidableEq, Repr

/-- An entry of the event table (R214). -/
structure Event where
  cval : W32
  gen : BitVec 8
  cmt : Bool
  core : BitVec 8
  stream : BitVec 6
  y : BitVec 16
  x : BitVec 16
  tpl : BitVec 12
  cnt : BitVec 16
  pend : BitVec 8
  state : Fin 8
  info : JobInfo
deriving DecidableEq, Repr

/-- A request on its way to the event table (R219). -/
inductive KilnOp where
  /-- The block as core x 256 + group. -/
  | jdone (block : Nat)
  | jyield (block : Nat) (cont : W64)
  | fspawn (sd : SReg) (words : Vector W64 4) (stream : BitVec 6) (parent : BitVec 26) (fail : Bool)
  | fref (n : Nat)
  | fdrop (n : Nat)
  | fwait
  | fpoll (sd : SReg) (p : PReg) (act : BitVec 32)
  | fcommit
  | evsig (n : Nat)
  /-- A stream's SIGEV at another chip (R214). -/
  | sigev (st : Fin 64)
  /-- A stencil subscription of a consumer of this chip at another chip (R221). -/
  | stencil (consumer : Nat) (gen : BitVec 8)
  /-- A WAITEV on an event of another chip (R207, R221). -/
  | waitev (st : Fin 64) (cons : BitVec 16)
deriving DecidableEq, Repr

/-- Who waits for a change of an entry: a warp in FWAIT, or another chip by its number and token, for what FWAIT waits for or for
what WAITEV does (R207, R219, R221). -/
inductive Sub where
  | warp (w : Nat)
  | chip (key : Nat)
  | chipWaitev (key cons : Nat)
deriving DecidableEq, Repr

structure KilnReq where
  w : Nat
  part : BitVec 4
  name : BitVec 26
  op : KilnOp
  issued : Nat
deriving DecidableEq, Repr

/-- The fetcher (R205): the stream that fetched last, arbitrations in the window, turns won per partition, the stream
that yielded, the stream whose word is in execution, and a TILE's next index. -/
structure Fetcher where
  last : Nat
  count : Nat
  won : SMap Nat
  yielded : Option (Fin 64)
  busy : Option (Fin 64)
  word : BitVec 256
  index : Nat
  /-- The TILE in execution has passed its checks. -/
  begun : Bool
deriving DecidableEq, Repr

/-! ## Faults, caps and the host -/

/-- An entry of the fault buffer: a page of a partition, and who waits on it in order (R141). -/
structure FaultEntry where
  part : BitVec 4
  /-- Its first bit address, and its size as a power of two: that of the leaf, 64 KiB where there is none. -/
  page : Nat
  bits : Nat
  warps : List Nat
  cmds : List Nat
  streams : List (Fin 64)
  addr : W64
  /-- A release request for the page is still to be sent to the host (R162). -/
  migration : Bool
  /-- The threads of each waiting warp that fault on the page, the address of the lowest, and the fault's place in the order of the
  chip's faults (R142). -/
  what : SMap (BitVec 32 × W64 × Nat)
deriving DecidableEq, Repr

/-- A cap held (R280, R281). -/
structure Cap where
  rank : Fin 5
  src : BitVec 16
  watts : Nat
  part : Nat
  seq : BitVec 64
  received : Nat
  expires : Option Nat
deriving DecidableEq, Repr

/-- A page walk for a page of 64 KiB (R109, R138): the levels still to be read and the base of their table, the leaf once found,
and who waits for it: warps, fetches of lines by warp and address, and prefetches. -/
structure Walk where
  core : Nat
  part : Nat
  va : Nat
  rest : List (Nat × Nat × Nat)
  base : PAddr
  entry : Option TlbEntry
  warps : List Nat
  lines : List (Nat × W64)
  prefs : List Nat
deriving DecidableEq, Repr

/-- What the part sends out that only the host, the fabric manager or another chip sees. -/
inductive Out where
  /-- A read, a write or an atomic of a page of another chip, or the acknowledgement of a write (R237). -/
  | packet (chip : Nat) (stamp : W64) (body : PacketBody)
  /-- The answer to a remote read or atomic; none where its data is poisoned. -/
  | data (chip : Nat) (stamp : W64) (value : Option Nat)
  | kiln (chip : Nat) (stamp : W64) (req : RemoteReq)
  | answer (chip : Nat) (stamp : W64) (ans : RemoteAns)
  | spdm (f : Fin 16) (answer : BitVec 256)
  | bar2 (data : List Byte)
  /-- What a BAR0 read of a function returns (R270). -/
  | bar0 (f : Fin 16) (value : W64)
  | status (f : Fin 16) (code : String)
deriving DecidableEq, Repr

/-- What a stamp taken in a cycle is for (R222, R243, R255, R258, R261, R263). -/
inductive StampUse where
  /-- The CONE field of a record at an HBM bit address. -/
  | record (bit : Nat)
  /-- That of an ERR_LOG record. -/
  | log (bit : Nat)
  /-- A trace record that the ring has no room for. -/
  | lost
  | conerd (w : Nat) (sd : SReg)
  | coneLo (w : Nat) (d : Nat) (act : BitVec 32)
  /-- A fault detected after issue, by its warp and number, and a halt of a warp (R243, R244). -/
  | late (w : Nat) (key : Nat)
  | halt (w : Nat)
  /-- The save record of a stream, with the stamp that the chip issued last; it takes none of its own (R223). -/
  | save (st : Fin 64)
  /-- What leaves the chip with its stamp. -/
  | send (o : Out)
deriving DecidableEq, Repr

/-- Where an instruction issues: the context that `step` gives to `exec` (R26, R61). -/
structure Issue where
  w : Nat
  /-- The instruction's address, that of its prefix when it has one, and the next instruction. -/
  pc : W64
  faultPc : W64
  next : W64
  pfx : Option Prefix
  /-- It goes on behind the page walks of its accesses, and the cycle in which it issued (R138, R248). -/
  walked : Bool := false
  since : Option Nat := none
deriving DecidableEq, Repr

/-- Whether the machine is between instructions or about to issue one. -/
inductive Phase where
  | idle
  | issue
deriving DecidableEq, Repr

/-- Everything but memory. -/
structure Chip where
  warps : SMap Warp
  cores : SMap Core
  /-- Device registers by register number, where they differ from R271's value at bring-up. -/
  dev : SMap W64
  /-- Lower qwords of a wide register as last written (R271). -/
  low : SMap W64
  /-- Performance counters that have overflowed: the cycle, and the value before the increment (R256). -/
  pmcWas : SMap (Nat × W64)
  /-- Counters and selectors written in this cycle: the writes take effect behind the cycle's increments (R256). -/
  pmWrites : SMap W64
  streams : SMap Stream
  events : SMap Event
  fetcher : Fetcher
  kreqs : SMap KilnReq
  subs : SMap (List Sub)
  /-- The core of the last arrival or exit in each group (R298). -/
  barCore : SMap Nat
  /-- Waits in BAR and PHADV that warps have abandoned in this cycle (R298, R368). -/
  abandoned : List (Nat × Wait)
  /-- The stream that was served last at each mailbox (R218). -/
  pushLast : SMap Nat
  /-- Where output regions of reclaimed jobs and discarded results lie: space, first bit and end (R160, R216). -/
  undef : List (Space × Nat × Nat)
  /-- What writes of SRAM of the last 20 cycles have replaced, the last first: cycle, place, width and bits (R158, R195). -/
  sramPast : List (Nat × PAddr × Nat × Nat)
  ops : SMap Op
  reqs : SMap Req
  cmds : SMap Cmd
  colls : SMap Coll
  msgs : SMap Msg
  pairs : SMap Pair
  rel : List Rel
  walks : SMap Walk
  ctlb : SMap (List TlbEntry)
  faults : SMap FaultEntry
  /-- Faults on their way into the fault buffer, or waiting for room in it (R141). -/
  faulting : SMap FaultEntry
  /-- Halted worker blocks, by core x 256 + group: whether a hardware-error fault halted it (R225, R244). -/
  halts : SMap Bool
  /-- L2: bits valid per line (quarter-sectors and written bits), pinned lines, recorded core (R128, R129, R152). -/
  l2 : SMap (BitVec 1024)
  pinned : List Nat
  /-- The lines of each slice, the first for eviction last (R14, R127), and the key under which L2 sees a 512-bit unit of which
  it holds bits (R277). -/
  l2Age : SMap (List Nat)
  l2View : SMap (Option Nat)
  releasedBy : SMap Nat
  /-- Poisoned 256-bit sectors by key, with the core whose read poisoned them (R254). -/
  poison : SMap Nat
  /-- Key under which a 512-bit unit was last written (R277). -/
  keyed : SMap Nat
  /-- 128-bit blocks, four to a unit, that the device's own records have written since, with the key or none (R243, R277). -/
  blockKeys : SMap (Option Nat)
  /-- Open row of each HBM bank (R430). -/
  rows : SMap Nat
  hbmQ : List Nat
  /-- Key held by each partition, and keys made so far (R276, R277). -/
  keys : SMap Nat
  keyCount : Nat
  /-- Stamp unit (R257, R259). -/
  lastStamp : W64
  /-- Stamps taken in this cycle, by the residency slot of the chip that orders them, 24,576 for the chip's own (R257). -/
  stamps : List (Nat × StampUse)
  conePhys : BitVec 48
  coneWritten : Bool
  coneAlert : Bool
  chipNo : BitVec 10
  msixMask : SMap W64
  msixPend : SMap W64
  /-- Vectors raised, as function x 64 + vector. -/
  raised : List Nat
  caps : List Cap
  capSeq : SMap (BitVec 64)
  /-- The periods in ps that a thermal and a current limit enforce, while they hold (R281, R282). -/
  thermal : Option Nat
  current : Option Nat
  /-- The error log ring has been filled once (R255). -/
  logWrapped : Bool
  /-- Partitions whose reset is in progress, with the step (R276), and pushes withheld until a cycle (R281). -/
  resets : SMap Nat
  withheld : SMap Nat
  /-- The record that the host has committed and the Wheel has not read, by function, and the handover to the host in
  progress with its SEQ (R163, R274). -/
  handover : SMap (W64 × W64)
  giving : SMap (W64 × Nat)
  recovery : Bool
  /-- The SHA3-512 digest of the firmware image that runs (R279). -/
  firmware : BitVec 512
  upStep : Nat
  accepted : List Nat
  /-- Worker blocks, by core and group, whose placement the Wheel has reported as failed (R17, R283). -/
  unplaced : List (Nat × Fin 256)
  out : List Out
  /-- Compute cycle, wall-clock ps since power-on, period of a cycle in ps (R3, R16, R45). -/
  cycle : Nat
  wall : Nat
  period : Nat
  agenda : List (Nat × Ev)
  phase : Phase
  cur : Issue
  /-- The next slice to visit in this cycle, 0 to 6,144. -/
  pos : Nat
  /-- The model's own: writes of this step, fresh numbers, and the counter of free values (log 4). -/
  wlog : List ByteWrite
  fresh : Nat
  free : Nat
deriving DecidableEq, Repr

/-- The machine: all its state but memory, and memory as canonical cells. -/
structure State where
  chip : Chip
  mem : List Host.Cell
deriving DecidableEq, Repr

/-- Why the machine stops. -/
inductive Fault where
  /-- Raised by `step` when it is to issue an instruction of a warp that is not resident. Safe: no run reaches it from
  reset, and nothing is claimed of the hardware. -/
  | noIssuingWarp
deriving DecidableEq, Repr

/-- What the model does not run. -/
inductive Refusal where
  /-- Raised by `exec` for an instruction without a meaning, by its mnemonic. Safe: no next state is claimed. -/
  | notModelled (mnemonic : String)
deriving DecidableEq, Repr

/-! ## Reset -/

/-- A warp as R39 leaves it before its placement fills in what the group entry gives. -/
def Warp.blank : Warp where
  v := []
  s := Vector.replicate 32 0
  p := Vector.replicate 48 0
  flags := Vector.replicate 12 0
  frontier := []
  body := none
  coil := Vector.replicate 32 []
  csp := Vector.replicate 32 0
  coilDep := Vector.replicate 32 0
  kernel := false
  part := 0
  job := none
  tile := 0
  rcl := false
  drn := false
  jobGen := 0
  tcmp := 0
  tvec := 0
  tepc := 0
  tcause := 0
  rngCtr := 0
  rngLo := 0
  rngHi := 0
  fpctl := 0
  fpstat := 0
  floor := 0
  headroom := 0
  regions := []
  rgnDepth := 0
  latches := {}
  stage := Vector.replicate 4 0
  goPending := false
  goFree := 0
  block := none
  privBase := 0
  cspTop := 0
  placed := 0
  wait := .none
  waitFlag := none
  ready := []
  missing := []
  deferral := []
  nextIssue := 0
  nextWhy := 14
  stores := []
  loads := []
  hold := []
  holdUntil := 0
  fenced := false
  stale := []
  coreRelease := 0
  issued := 0
  lastIssue := 0
  deferred := []
  halted := false
  skid := false
  haltAt := none
  arrived := []
  phaseReady := false
  dbgStopped := false
  xfer := false
  polls := 0
  granted := none
  bars := []

/-- A core after bring-up (R170, R196, R235; log 1). -/
def Core.blank : Core where
  tags := Vector.replicate 64 .idle
  tagBmp := 0
  phase := 0
  phAllow := 0
  seen := []
  queues := Vector.replicate 4 []
  tagWas := Vector.replicate 64 .idle
  tagAt := Vector.replicate 64 0
  mail := Vector.replicate 8 []
  eng := Vector.replicate 9 []
  go := Vector.replicate 9 []
  acc := []
  accFree := []
  accPast := []
  accPastAt := 0
  tileHolder := Vector.replicate 4 none
  planeHolder := Vector.replicate 8 none
  poolHolder := Vector.replicate 64 none
  scaccs := []
  scaleFree := 0
  mxC := 0
  mxD1 := 0
  mxD2 := 0
  l1 := []
  l1Age := []
  tlb := []
  icache := []
  icWait := []
  icAge := []
  icGone := []
  icBad := []
  slices := []
  banks := []
  bankLast := []
  traceSeq := 0
  traceHeld := 0
  sampleNext := 0
  noPush := false
  hosted := false

/-- A stream after bring-up: IDLE, every register 0 (R271). -/
def Stream.blank : Stream where
  part := 0
  prio := 0
  run := false
  pc := 0
  loop := 0
  save := 0
  host := 0
  eidx := 0
  code := 0
  state := 0
  wait := .none
  part_way := false
  stamp := 0
  scount := 0
  drain := none
  copies := 0
  held := false
  resuming := false
  stopping := false
  frozen := false

/-- A command before what names it is filled in. -/
def Cmd.blank : Cmd where
  core := 0
  queue := 0
  tag := none
  w := 24576
  block := none
  part := 0
  kernel := false
  flag := none
  released := false
  waiting := false
  job := none
  gen := 0
  dead := false
  notify := false
  bound := false
  words := Vector.replicate 4 0
  accepted := none
  started := false
  shape := none
  src := []
  dst := []
  writes := 0
  nextSend := 0
  stage := 0
  mx := none
  pages := []
  finished := none
  cause := 0x3F
  stream := none
  signal := none

/-- No job. -/
def JobInfo.blank : JobInfo where
  arg := 0
  out := 0
  cont := false
  child := false
  parent := 0
  part := 0
  refs := []
  prods := []
  children := []
  created := 0
  blocked := none
  queued := none
  pushing := false
  excluded := none
  retried := false
  popped := false
  discard := false
  reclaim := false
  parts := 0
  cmds := 0
  jdone := false
  failed := false
  block := none
  yieldTo := none
  words := Vector.replicate 4 0
  last := none

/-- An event entry after bring-up: FREE, every field zero (R214). -/
def Event.blank : Event where
  cval := 0
  gen := 0
  cmt := false
  core := 0
  stream := 0
  y := 0
  x := 0
  tpl := 0
  cnt := 0
  pend := 0
  state := 0
  info := JobInfo.blank

/-- Everything but memory right after reset. The clock is the 2.5 GHz of R3: a period of 400 ps. -/
def Chip.reset : Chip where
  warps := []
  cores := []
  dev := []
  low := []
  pmcWas := []
  pmWrites := []
  streams := []
  events := []
  fetcher := { last := 63, count := 0, won := [], yielded := none, busy := none, word := 0, index := 0,
               begun := false }
  kreqs := []
  subs := []
  barCore := []
  abandoned := []
  pushLast := []
  undef := []
  sramPast := []
  ops := []
  reqs := []
  cmds := []
  colls := []
  msgs := []
  pairs := []
  rel := []
  walks := []
  ctlb := []
  faults := []
  faulting := []
  halts := []
  l2 := []
  pinned := []
  l2Age := []
  l2View := []
  releasedBy := []
  poison := []
  keyed := []
  blockKeys := []
  rows := []
  hbmQ := []
  keys := []
  keyCount := 0
  lastStamp := 0
  stamps := []
  conePhys := 0
  coneWritten := false
  coneAlert := false
  chipNo := 0
  msixMask := []
  msixPend := []
  raised := []
  caps := []
  capSeq := []
  thermal := none
  current := none
  logWrapped := false
  resets := []
  withheld := []
  handover := []
  giving := []
  recovery := false
  firmware := 0
  upStep := 0
  accepted := []
  unplaced := []
  out := []
  cycle := 0
  wall := 0
  period := 400
  agenda := []
  phase := .idle
  cur := { w := 0, pc := 0, faultPc := 0, next := 0, pfx := none }
  pos := 0
  wlog := []
  fresh := 0
  free := 0

/-- The machine right after power-on or module reset (R283; log 1 for what the spec gives no value). -/
def State.reset : State where
  chip := Chip.reset
  mem := []

end Sys2Proof.Machine
end

