-- ==== Sys2Proof/Machine/Mem.lean ====
section
/-!
DEFINITION. Sys2Proof/Machine/Mem.lean: sparse tables, and memory as cells in one canonical form. A cell's key is the
number of its space times 2^50 plus its byte (a bit address divided by 8, R2). A byte that nothing has written reads
0 (log 3), and no cell holds 0.
-/

namespace Sys2Proof.Machine
open Sys2Proof

/-! ## Sparse tables -/

/-- The entry at a key. -/
def sget {α : Type} : SMap α → Nat → Option α
  | [], _ => none
  | (j, a) :: r, k => if j = k then some a else sget r k

/-- The table with an entry put at a key. -/
def sput {α : Type} : SMap α → Nat → α → SMap α
  | [], k, a => [(k, a)]
  | (j, b) :: r, k, a => if k < j then (k, a) :: (j, b) :: r else if k = j then (k, a) :: r else (j, b) :: sput r k a

/-- The table without the entry at a key. -/
def sdel {α : Type} : SMap α → Nat → SMap α
  | [], _ => []
  | (j, b) :: r, k => if k = j then r else (j, b) :: sdel r k

/-- Every entry changed by a function. -/
def smap {α : Type} (f : Nat → α → α) : SMap α → SMap α
  | [] => []
  | (j, a) :: r => (j, f j a) :: smap f r

/-- The entries that satisfy a test. -/
def sfilter {α : Type} (f : Nat → α → Bool) : SMap α → SMap α
  | [] => []
  | (j, a) :: r => if f j a then (j, a) :: sfilter f r else sfilter f r

/-! ## Memory -/

/-- Memory as the state holds it. -/
abbrev Memory := List Host.Cell

/-- What a byte that no cell lists reads as (log 3). -/
def unlisted : Byte := 0

/-- The number of a space. -/
def Space.num : Space → Nat
  | .hbm => 0
  | .lpddr => 1
  | .host => 2
  | .remote => 3
  | .spad c => 4 + c % 192
  | .bsram c => 196 + c % 192

/-- The key of the byte that holds a physical bit. -/
def PAddr.key (p : PAddr) : Nat := p.space.num * 2 ^ 50 + p.bit / 8 % 2 ^ 50

/-- The byte at a key. -/
def memByte : Memory → Nat → Byte
  | [], _ => unlisted
  | (j, b) :: r, k => if j = k then b else memByte r k

/-- Memory with the byte at a key replaced; a byte that reads as an unlisted one is not listed. -/
def memSet : Memory → Nat → Byte → Memory
  | [], k, v => if v = unlisted then [] else [(k, v)]
  | (j, b) :: r, k, v =>
    if k < j then (if v = unlisted then (j, b) :: r else (k, v) :: (j, b) :: r)
    else if k = j then (if v = unlisted then r else (k, v) :: r)
    else (j, b) :: memSet r k v

/-- The canonical form: addresses strictly rising, and no cell equal to what an unlisted address reads as. -/
def Memory.wf : Memory → Bool
  | [] => true
  | [(_, b)] => decide (b ≠ unlisted)
  | (j, b) :: (k, d) :: r => decide (b ≠ unlisted) && decide (j < k) && Memory.wf ((k, d) :: r)

/-- A byte under the masked writes of a list, oldest first. -/
def patchByte (k : Nat) : List ByteWrite → Byte → Byte
  | [], b => b
  | w :: ws, b => patchByte k ws (if w.key = k then (b &&& ~~~w.mask) ||| (w.value &&& w.mask) else b)

/-- One masked read-merge-write of a byte (R121). -/
def memMerge (m : Memory) (w : ByteWrite) : Memory :=
  memSet m w.key ((memByte m w.key &&& ~~~w.mask) ||| (w.value &&& w.mask))

/-- The masked writes of a step performed on memory, oldest first. -/
def commit (m : Memory) : List ByteWrite → Memory
  | [] => m
  | w :: ws => commit (memMerge m w) ws

/-- A byte as this step sees it: memory under the writes the step has made so far. -/
def peek (m : Memory) (c : Chip) (k : Nat) : Byte := patchByte k c.wlog (memByte m k)

/-- `n` bytes from a key up as a number, low byte first. -/
def peekBytes (m : Memory) (c : Chip) : Nat → Nat → Nat
  | 0, _ => 0
  | n + 1, k => (peek m c k).toNat + 256 * peekBytes m c n (k + 1)

/-- `n` bits at a physical bit address (R2). -/
def readBits (m : Memory) (c : Chip) (p : PAddr) (n : Nat) : Nat :=
  if n = 0 then 0 else peekBytes m c ((p.bit % 8 + n + 7) / 8) p.key / 2 ^ (p.bit % 8) % 2 ^ n

/-- Byte writes of a value and a mask, low byte first, from a key up. -/
def byteWrites : Nat → Nat → Nat → Nat → List ByteWrite
  | 0, _, _, _ => []
  | n + 1, k, mask, v =>
    ⟨k, BitVec.ofNat 8 mask, BitVec.ofNat 8 v⟩ :: byteWrites n (k + 1) (mask / 256) (v / 256)

/-- The writes that put `n` bits at a physical bit address and change no other bit (R120, R121). -/
def bitWrites (p : PAddr) (n v : Nat) : List ByteWrite :=
  if n = 0 then [] else
    byteWrites ((p.bit % 8 + n + 7) / 8) p.key ((2 ^ n - 1) * 2 ^ (p.bit % 8)) (v % 2 ^ n * 2 ^ (p.bit % 8))

/-- A write of this step. -/
def writeBits (c : Chip) (p : PAddr) (n v : Nat) : Chip := { c with wlog := c.wlog ++ bitWrites p n v }

/-- What a step does to everything but memory; it writes memory through `wlog` alone. -/
abbrev Act := Memory → Chip → Chip

/-- What a meaning answers. -/
abbrev Ans := Host.Outcome State Fault Refusal

/-- The next state of an act: the chip it leaves with no write pending, and memory with its writes performed. -/
def run (f : Act) (s : State) : Ans :=
  let c := f s.mem s.chip
  .next { chip := { c with wlog := [] }, mem := commit s.mem c.wlog }

/-- A value the spec leaves open: the next draw of the free values (log 4). -/
def drawFree (c : Chip) : Nat × Chip := (Config.freeValue c.free, { c with free := c.free + 1 })

end Sys2Proof.Machine
end

