-- ==== Sys2Proof/WellFormed.lean ====
section
/-!
DEFINITION. Sys2Proof/WellFormed.lean: what an operand structure must still satisfy to be an instruction: the pair
and quad rules of R57, the ranges of R63 to R68 and of the reference entries. A term that breaks one is no
instruction (R71).
-/

namespace Sys2Proof

/-- A v code naming a pair is even (R57); an s code names 64 bits of one register. -/
def Src.pairOk : Src → Bool
  | .v n => n.val % 2 == 0
  | .s _ => true

/-- As `Src.pairOk`, for a code with a last-read bit. -/
def Opd.pairOk : Opd → Bool
  | .v n _ => n.val % 2 == 0
  | .s _ => true

/-- The code names a vector register. -/
def Src.isV : Src → Bool
  | .v _ => true
  | .s _ => false

/-- The number of the register that the code names. -/
def Src.num : Src → Nat
  | .v n => n.val
  | .s n => n.val

/-- The width in bits of the formats of R90, in the order of the codes 0 to 13 of field FMT. -/
def fmtWidth (f : Nat) : Nat :=
  match f with
  | 0 => 3 | 1 => 4 | 2 => 8 | 3 => 4 | 4 => 6 | 5 => 6 | 6 => 8 | 7 => 8 | 8 => 6 | 9 => 8 | 10 => 8 | 11 => 8
  | 12 => 16 | 13 => 16 | _ => 32

/-- The elements of a width that one register holds (R90). -/
def perReg (width : Nat) : Nat :=
  match width with
  | 3 => 10 | 4 => 8 | 6 => 5 | 8 => 4 | 16 => 2 | _ => 1

/-- The element index of format VN lies inside the register (R364). -/
def PackOps.idxOk (o : PackOps) : Bool := decide (o.idx.val < perReg (fmtWidth o.fmt.val))

/-- NPACK reads v(A) to v(A + n - 1) (R364). -/
def PackOps.packOk (o : PackOps) : Bool := o.idxOk && o.a.isV && decide (o.a.num + o.idx.val ≤ 95)

/-- NUNPK writes v(D) to v(D + n - 1) (R364). -/
def PackOps.unpackOk (o : PackOps) : Bool := o.idxOk && o.a.isV && decide (o.d.val + o.idx.val ≤ 95)

/-- The destination of a load is a pair for WC 8 and a quad for WC 9 (R59, R353). -/
def LdOps.dOk (o : LdOps) : Bool :=
  match o.wc.val with
  | 8 => o.d.val % 2 == 0
  | 9 => o.d.val % 4 == 0
  | _ => true

/-- The data of a store: a pair for WC 8, a quad of vector registers for WC 9 (R397). -/
def StOps.dOk (o : StOps) : Bool :=
  match o.wc.val with
  | 8 => o.d.pairOk
  | 9 => o.d.isV && o.d.num % 4 == 0
  | _ => true

/-- The registers of an atomic (R60, R68, R291): D is even for .64; CAS reads D + 1, or the pair D + 2 for .64; .bf
reads D + 1; FADD takes .32 only. -/
def AtomOps.ok (o : AtomOps) : Bool :=
  (if o.size = .w64 then o.d.val % 2 == 0 else true)
  && (if o.op = .fadd then decide (o.size = .w32) else true)
  && (if o.size = .bf then decide (o.d.val + 1 ≤ 95) else true)
  && (if o.op = .cas then decide (o.d.val + (if o.size = .w64 then 3 else 1) ≤ 95) else true)

/-- ATOMN has no CAS (R68). -/
def AtomOps.okN (o : AtomOps) : Bool := o.ok && decide (o.op ≠ .cas)

/-- MERGE 00 needs MASK and NEGM zero (R61). -/
def Prefix.ok (o : Prefix) : Bool :=
  match o.merge with
  | .none => decide (o.mask = .p 0) && !o.negm
  | _ => true

/-- The checks of R57 to R68 and of the reference entries, instruction by instruction. A step without a word has none. -/
def wellFormed (i : Instr) : Bool :=
  match i with
  | .iadd _ => true
  | .isub _ => true
  | .imul _ => true
  | .imulh _ => true
  | .imin _ => true
  | .imax _ => true
  | .umin _ => true
  | .umax _ => true
  | .and _ => true
  | .or _ => true
  | .xor _ => true
  | .andn _ => true
  | .shl _ => true
  | .shr _ => true
  | .sar _ => true
  | .rot _ => true
  | .bfx _ => true
  | .bfxs _ => true
  | .bfi _ => true
  | .popc _ => true
  | .clz _ => true
  | .ctz _ => true
  | .brev _ => true
  | .imad _ => true
  | .umulh _ => true
  | .idiv _ => true
  | .udiv _ => true
  | .lut3 _ => true
  | .fadd _ => true
  | .fsub _ => true
  | .fmul _ => true
  | .ffma _ => true
  | .fmin _ => true
  | .fmax _ => true
  | .fminn _ => true
  | .fmaxn _ => true
  | .frcp _ => true
  | .frsq _ => true
  | .fsqrt _ => true
  | .fexp2 _ => true
  | .flog2 _ => true
  | .fsin _ => true
  | .fcos _ => true
  | .ftanh _ => true
  | .badd2 _ => true
  | .bmul2 _ => true
  | .bfma2 _ => true
  | .bmax2 _ => true
  | .hadd2 _ => true
  | .hmul2 _ => true
  | .hfma2 _ => true
  | .hmax2 _ => true
  | .fcvt _ => true
  | .fcvtSat _ => true
  | .frnd _ => true
  | .ffrac _ => true
  | .fclass _ => true
  | .fldexp _ => true
  | .icmp _ => true
  | .fcmp _ => true
  | .sel _ => true
  | .plop _ => true
  | .p2v _ _ => true
  | .v2p _ _ => true
  | .elect _ => true
  | .pbal _ _ _ => true
  | .mov _ => true
  | .mov64 o => o.d.val % 2 == 0 && o.a.pairOk
  | .movsr _ _ => true
  | .movsw _ _ => true
  | .movil _ => true
  | .movih _ => true
  | .movis _ => true
  | .movif _ => true
  | .shflIdx _ => true
  | .shflUp _ => true
  | .shflDn _ => true
  | .shflXor _ => true
  | .xpush _ => true
  | .voteAll _ => true
  | .voteAny _ => true
  | .voteBal _ => true
  | .voteEq _ => true
  | .redux _ => true
  | .scan _ => true
  | .scanX _ => true
  | .rand _ => true
  | .randf _ => true
  | .rseed _ _ => true
  | .rskip _ => true
  | .npack o => o.packOk
  | .nunpk o => o.unpackOk
  | .next o => o.idxOk
  | .nins o => o.idxOk
  | .aidx _ => true
  | .aidxu _ => true
  | .algn _ => true
  | .adif o => o.b.pairOk
  | .b2a _ => true
  | .a2b _ => true
  | .aadd o => o.b.pairOk
  | .asub o => o.b.pairOk
  | .ld o => o.dOk
  | .ldv o => o.dOk && o.x.pairOk
  | .st o => o.dOk
  | .stv o => o.dOk && o.x.pairOk
  | .lda o => !o.w64 || o.d.val % 2 == 0
  | .ldc o => !o.rem && (!o.w64 || o.d.val % 2 == 0)
  | .str o => !o.w64 || o.d.pairOk
  | .stc o => !o.w64 || o.d.pairOk
  | .atom o => o.ok
  | .atomn o => o.okN
  | .fence _ _ => true
  | .bara _ => true
  | .barw _ => true
  | .bar _ => true
  | .phadv _ => true
  | .nop => true
  | .prefL1 _ => true
  | .prefL2 _ => true
  | .cinv _ => true
  | .tagwa _ => true
  | .tagwy _ _ => true
  | .tagff _ _ => true
  | .tagclr _ => true
  | .tagrd _ _ => true
  | .jpop sd _ => sd.val % 4 == 0
  | .jdone => true
  | .jyield _ => true
  | .fspawn _ sa => sa.val % 4 == 0
  | .fref _ _ => true
  | .fdrop _ _ => true
  | .fwait _ => true
  | .fpoll _ _ _ => true
  | .fcommit => true
  | .evsig _ _ => true
  | .qsnd _ _ => true
  | .qrcv _ _ => true
  | .qpoll _ _ _ => true
  | .racq _ _ _ => true
  | .rrel _ _ => true
  | .rqry _ _ => true
  | .enter _ => true
  | .leave _ => true
  | .conerd _ => true
  | .bkpt _ => true
  | .trap _ => true
  | .tmset _ => true
  | .tret => true
  | .sysr _ _ _ => true
  | .sysw _ _ _ => true
  | .tlbi _ _ => true
  | .halt => true
  | .kret => true
  | .sadd _ => true
  | .saddImm _ => true
  | .ssub _ => true
  | .ssubImm _ => true
  | .smul _ => true
  | .smulImm _ => true
  | .smulh _ => true
  | .smulhImm _ => true
  | .sand _ => true
  | .sandImm _ => true
  | .sor _ => true
  | .sorImm _ => true
  | .sxor _ => true
  | .sxorImm _ => true
  | .sshl _ => true
  | .sshlImm _ => true
  | .sshr _ => true
  | .sshrImm _ => true
  | .ssar _ => true
  | .ssarImm _ => true
  | .smin _ => true
  | .sminImm _ => true
  | .smax _ => true
  | .smaxImm _ => true
  | .sminu _ => true
  | .sminuImm _ => true
  | .smaxu _ => true
  | .smaxuImm _ => true
  | .sdivu _ => true
  | .sdivuImm _ => true
  | .smov _ => true
  | .smovImm _ => true
  | .smoviZ _ _ => true
  | .smoviH1 _ _ => true
  | .smoviH2 _ _ => true
  | .smoviH3 _ _ => true
  | .scmp _ => true
  | .saidx _ => true
  | .salgn _ => true
  | .sb2a _ => true
  | .sa2b _ => true
  | .rdlane _ _ _ => true
  | .rdfirst _ _ => true
  | .scacc o => o.vb.val % 4 == 0
  | .scaccUe4m3 o => o.vb.val % 4 == 0
  | .accclr _ _ => true
  | .accrd o => o.d.val % 4 == 0
  | .accwr o => o.d.val % 4 == 0
  | .plnrd o => o.d.val % 4 == 0
  | .brp _ _ _ => true
  | .bra _ => true
  | .call _ => true
  | .brx a => a.pairOk
  | .callx a => a.pairOk
  | .ret => true
  | .exit => true
  | .shlImm _ => true
  | .shrImm _ => true
  | .sarImm _ => true
  | .rotImm _ => true
  | .fshl _ => true
  | .fshr _ => true
  | .pfx o => o.ok
  | .iaddC _ => true
  | .isubC _ => true
  | .imulC _ => true
  | .andC _ => true
  | .orC _ => true
  | .xorC _ => true
  | .shlC _ => true
  | .shrC _ => true
  | .iminC _ => true
  | .imaxC _ => true
  | .faddC _ => true
  | .fsubC _ => true
  | .fmulC _ => true
  | .fminC _ => true
  | .fmaxC _ => true
  | .movC _ => true
  | .issueOpportunity _ _ => true
  | .ageEscape _ => true
  | .userTimerExpiry _ => true
  | .icacheLineFill _ _ => true
  | .loadReply _ => true
  | .storeAtHome _ => true
  | .atomicAtHome _ => true
  | .uncorrectableRead _ _ => true
  | .pageWalkComplete _ => true
  | .faultBufferEntry _ => true
  | .faultReplay _ _ => true
  | .deferredFaultDelivery _ => true
  | .racqGrant _ => true
  | .rrelFree _ => true
  | .jobPop _ _ => true
  | .barrierComplete _ => true
  | .phaseAdvance _ => true
  | .phaseValueArrival _ _ _ => true
  | .queueMessageArrival _ => true
  | .queueNack _ => true
  | .queueBackoffResend _ => true
  | .queueAck _ => true
  | .scaccPerform _ => true
  | .goAccept _ _ => true
  | .engineCommandComplete _ => true
  | .copy _ => true
  | .fill _ => true
  | .qfence _ => true
  | .pinl2 _ => true
  | .unpin _ => true
  | .bcol _ => true
  | .accout _ => true
  | .matrixAcc _ => true
  | .matrixPlane _ => true
  | .matrixAccClear _ => true
  | .matrixBlockStep _ => true
  | .gather _ => true
  | .nred _ => true
  | .bcast _ => true
  | .collectiveTimeout _ => true
  | .eventRequestArrival _ => true
  | .mailboxPush _ => true
  | .kilnRemoteRequest _ => true
  | .kilnRemoteAnswer _ => true
  | .tile _ => true
  | .waitev _ => true
  | .sigev _ => true
  | .jump _ => true
  | .loop _ => true
  | .kopFence _ => true
  | .yield _ => true
  | .hostsig _ => true
  | .pin _ => true
  | .kopUnpin _ => true
  | .prefetch _ => true
  | .drop _ => true
  | .endStream _ => true
  | .streamRun _ => true
  | .streamStop _ => true
  | .klnSpcWrite _ _ => true
  | .klnSloopWrite _ _ => true
  | .klnSsaveWrite _ _ => true
  | .klnEvFreeWrite _ _ => true
  | .klnPreempt _ => true
  | .preemptAutomatic _ => true
  | .drainStepAdvance _ => true
  | .drainTimeout _ => true
  | .streamResume _ => true
  | .restoreVerify _ => true
  | .registerWrite _ => true
  | .blkctlContinue _ _ => true
  | .blkctlDiscard _ _ => true
  | .memOwnerWrite _ _ => true
  | .klnWake _ => true
  | .tlbiComplete _ => true
  | .dbgStop _ _ => true
  | .traceSample _ => true
  | .coneTick => true
  | .coneEpochAlert => true
  | .conePhysStop => true
  | .conePhysWrite _ => true
  | .hbmSlotServe _ => true
  | .hbmRefresh _ => true
  | .ualinkPacketReceive _ => true
  | .ualinkCrcError _ _ => true
  | .linkTraining _ _ => true
  | .linkDown _ => true
  | .bar2Access _ => true
  | .hoh2dReleased _ => true
  | .hoh2dGiveRequest _ => true
  | .msixUnmask _ _ => true
  | .functionLevelReset _ => true
  | .flrCommandTimeout _ => true
  | .partitionEnable _ _ => true
  | .secSvnWrite _ => true
  | .capFrame _ => true
  | .capExpiry _ => true
  | .partitionDutyWindow _ => true
  | .thermalLimit _ => true
  | .bringUp _ => true
  | .spdmRequest _ => true
  | .encodingNotAnInstruction => true
  | .badkop _ => true
  | .operatorWordFetchFault _ => true
  | .engineSourceReply _ => true

end Sys2Proof
end

