-- ==== Sys2Proof/Machine/Float.lean ====
section
/-!
DEFINITION. Sys2Proof/Machine/Float.lean: the element formats of R87 to R93, the one rounding of R94 to R98 from an
exact value, the exact sum, product, quotient and root that the entries round, and the special functions of R102.
An exact value is a dyadic, with a mark where the true value lies strictly between it and the next dyadic of its
last place: a quotient or root needs no more to be rounded correctly. A transcendental value is taken from below with 640
fraction bits (log 43).
-/

namespace Sys2Proof.Machine
open Sys2Proof

/-- The flags of FPSTAT as a mask: NV 1, DZ 2, OF 4, UF 8, NX 16 (R98). -/
abbrev Flags := BitVec 5
def fNV : Flags := 1
def fDZ : Flags := 2
def fOF : Flags := 4
def fUF : Flags := 8
def fNX : Flags := 16

/-- A decoded or exact value. `fin neg man exp rest`: magnitude man x 2^exp, or strictly between man and man + 1 of
these when `rest`. -/
inductive Num where
  | nan (signalling : Bool)
  | inf (neg : Bool)
  | fin (neg : Bool) (man : Nat) (exp : Int) (rest : Bool)
deriving DecidableEq, Repr

/-- A rounding mode (R94, codes 0 to 5) with the 16-bit draw that SR takes (R95). -/
structure Rnd where
  mode : Nat
  u : Nat := 0
deriving DecidableEq, Repr

def rne : Rnd := { mode := 0 }

/-- A format with exponent and mantissa fields (R87): the largest finite encoding, and whether it has infinities. -/
structure Fmt where
  ebits : Nat
  mbits : Nat
  bias : Int
  maxEnc : Nat
  hasInf : Bool
  nan : Option Nat
  signed : Bool := true
deriving DecidableEq, Repr

def fp32 : Fmt := { ebits := 8, mbits := 23, bias := 127, maxEnc := 0x7F7FFFFF, hasInf := true, nan := some 0x7FC00000 }
def bf16 : Fmt := { ebits := 8, mbits := 7, bias := 127, maxEnc := 0x7F7F, hasInf := true, nan := some 0x7FC0 }
def fp16 : Fmt := { ebits := 5, mbits := 10, bias := 15, maxEnc := 0x7BFF, hasInf := true, nan := some 0x7E00 }
def e5m2 : Fmt := { ebits := 5, mbits := 2, bias := 15, maxEnc := 0x7B, hasInf := true, nan := some 0x7E }
def e4m3 : Fmt := { ebits := 4, mbits := 3, bias := 7, maxEnc := 0x7E, hasInf := false, nan := some 0x7F }
def e3m2 : Fmt := { ebits := 3, mbits := 2, bias := 3, maxEnc := 0x1F, hasInf := false, nan := none }
def e2m3 : Fmt := { ebits := 2, mbits := 3, bias := 1, maxEnc := 0x1F, hasInf := false, nan := none }
def e2m1 : Fmt := { ebits := 2, mbits := 1, bias := 1, maxEnc := 0x7, hasInf := false, nan := none }
def ue4m3 : Fmt := { e4m3 with signed := false }

/-- Bits of an encoding. -/
def Fmt.bits (f : Fmt) : Nat := 1 + f.ebits + f.mbits

/-- The value of an encoding of a format with fields (R87, R88). -/
def decodeFmt (f : Fmt) (x : Nat) : Num :=
  let neg := f.signed && bit x (f.ebits + f.mbits)
  let e := fld x f.mbits f.ebits
  let m := fld x 0 f.mbits
  if f.hasInf && e == 2 ^ f.ebits - 1 then
    if m = 0 then .inf neg else .nan (!bit m (f.mbits - 1))
  else if !f.hasInf && f.nan.isSome && e == 2 ^ f.ebits - 1 && m == 2 ^ f.mbits - 1 then .nan false
  else if e = 0 then .fin neg m (1 - f.bias - f.mbits) false
  else .fin neg (2 ^ f.mbits + m) (Int.ofNat e - f.bias - f.mbits) false

/-- 2^n for a natural part of an integer. -/
def pow2 (n : Int) : Nat := 2 ^ n.toNat

/-- Whether the magnitude moves to the neighbour away from zero: the part below the neighbour toward zero is rem/den,
and something more when `rest` (R94, R95). -/
def roundsUp (r : Rnd) (neg odd : Bool) (rem den : Nat) (rest : Bool) : Bool :=
  match r.mode with
  | 0 => decide (2 * rem > den) || (decide (2 * rem = den) && (rest || odd))
  | 1 => false
  | 2 => neg && (decide (rem ≠ 0) || rest)
  | 3 => !neg && (decide (rem ≠ 0) || rest)
  | 4 => decide (2 * rem ≥ den)
  | _ => (decide (rem ≠ 0) || rest) && decide (rem * 65536 / den + r.u ≥ 65536)

/-- Magnitude man x 2^exp rounded to a multiple of 2^q: the multiple, and whether it is inexact. -/
def roundAt (r : Rnd) (neg : Bool) (man : Nat) (exp q : Int) (rest : Bool) : Nat × Bool :=
  if q ≤ exp then
    let n := man * pow2 (exp - q)
    (if roundsUp r neg (n % 2 == 1) 0 1 rest then n + 1 else n, rest)
  else
    let d := pow2 (q - exp)
    let n := man / d
    let rem := man % d
    (if roundsUp r neg (n % 2 == 1) rem d rest then n + 1 else n, decide (rem ≠ 0) || rest)

/-- The overflow of R96: the encoding's magnitude, or infinity. -/
def overflowEnc (f : Fmt) (r : Rnd) (neg sat : Bool) : Nat :=
  if sat || !f.hasInf then f.maxEnc
  else
    let toInf := match r.mode with
      | 1 => false
      | 2 => neg
      | 3 => !neg
      | _ => true
    if toInf then (2 ^ f.ebits - 1) * 2 ^ f.mbits else f.maxEnc

/-- The sign bit of an encoding. -/
def signBit (f : Fmt) (neg : Bool) : Nat := if neg && f.signed then 2 ^ (f.ebits + f.mbits) else 0

/-- round_fmt into a format with fields (R94 to R98). R96 names NV alone for a negative result into UE4M3 or E8M0, and the model sets
no NX or OF beside it. Under SR, between the largest finite value and the overflow result of R96, R95 does not say which |b - a|
divides: the model takes the distance to the next evenly spaced multiple (log 39). -/
def roundFmt (f : Fmt) (r : Rnd) (sat : Bool) (x : Num) : Nat × Flags :=
  match x with
  | .nan s =>
    match f.nan with
    | some n => (n, if s then fNV else 0)
    | none => (0, fNV)
  | .inf neg =>
    if neg && !f.signed then ((f.nan).getD 0, fNV)
    else if f.hasInf then (signBit f neg + (2 ^ f.ebits - 1) * 2 ^ f.mbits, 0)
    else (signBit f neg + f.maxEnc, fOF)
  | .fin neg man exp rest =>
    if man = 0 ∧ !rest then (signBit f neg, 0)
    else
      let emin := 1 - f.bias
      let e : Int := exp + Int.ofNat man.log2
      let q := max e emin - f.mbits
      let (n, nx) := roundAt r neg man exp q rest
      let enc := (q - (emin - f.mbits)).toNat * 2 ^ f.mbits + n
      let tiny := decide (e < emin) &&
        !(decide (e = emin - 1) && decide ((roundAt r neg man exp (e - f.mbits) rest).1 = 2 ^ (f.mbits + 1)))
      if enc > f.maxEnc then
        if neg && !f.signed then ((f.nan).getD 0, fNV)
        else (signBit f neg + overflowEnc f r neg sat, fOF ||| fNX)
      else if neg && !f.signed && n != 0 then ((f.nan).getD 0, fNV)
      else (signBit f neg + enc, (if nx then fNX else 0) ||| (if nx && tiny then fUF else 0))

/-! ## E8M0 (R87, R96) -/

/-- The value of an E8M0 code. -/
def decodeE8m0 (x : Nat) : Num := if x % 256 = 255 then .nan false else .fin false 1 (Int.ofNat (x % 256) - 127) false

/-- A conversion into E8M0: positive values to the powers of two extended by zero; a zero, a negative value and a
negative value that rounds to zero give the canonical NaN and set NV. -/
def roundE8m0 (r : Rnd) (x : Num) : Nat × Flags :=
  match x with
  | .nan s => (0xFF, if s then fNV else 0)
  | .inf neg => if neg then (0xFF, fNV) else (0xFE, fOF)
  | .fin neg man exp rest =>
    if (man = 0 ∧ !rest) ∨ neg then (0xFF, fNV)
    else
      let e : Int := exp + Int.ofNat man.log2
      if e < -127 then
        -- below 2^-127: the neighbours are 0 and 2^-127, and a tie goes to 2^-127
        let d := pow2 (-127 - exp)
        let up := if r.mode = 0 ∨ r.mode = 4 then decide (2 * man ≥ d) else roundsUp r false false man d rest
        if up then (0, fNX) else (0, fUF ||| fNX)
      else
        let (n, nx) := roundAt { r with mode := if r.mode = 0 then 6 else r.mode } false man exp e rest
        -- a tie under RNE goes to the even code
        let n := if r.mode = 0 then
            (let d := if e ≤ exp then 1 else pow2 (e - exp)
             let rem := if e ≤ exp then 0 else man % d
             if roundsUp r false ((e + 127).toNat % 2 == 1) rem d rest then 2 else 1)
          else n
        let code := (e + 127).toNat + (n - 1)
        if code > 0xFE then (0xFE, fOF ||| fNX) else (code, if nx then fNX else 0)

/-! ## DPT formats (R91 to R93) -/

/-- DPT8 or DPT6: the absent code, and the scale in which every value is an integer. -/
structure Dpt where
  absent : Nat
  cbits : Nat
deriving DecidableEq, Repr

def dpt8 : Dpt := { absent := 7, cbits := 3 }
def dpt6 : Dpt := { absent := 3, cbits := 2 }

/-- The largest shift of a term; values are integers in units of 2^-top. -/
def Dpt.top (d : Dpt) : Nat := d.absent - 1

/-- A term in units of 2^-top. -/
def Dpt.term (d : Dpt) (s : Bool) (c : Nat) : Int :=
  if c = d.absent then 0 else (if s then -1 else 1) * Int.ofNat (2 ^ (d.top - c))

/-- The encoding of two terms. -/
def Dpt.enc (d : Dpt) (s1 : Bool) (c1 : Nat) (s2 : Bool) (c2 : Nat) : Nat :=
  c2 + b1 s2 * 2 ^ d.cbits + c1 * 2 ^ (d.cbits + 1) + b1 s1 * 2 ^ (2 * d.cbits + 1)

/-- The value of an encoding, canonical or not, in units of 2^-top (R91). -/
def Dpt.val (d : Dpt) (x : Nat) : Int :=
  d.term (bit x (2 * d.cbits + 1)) (fld x (d.cbits + 1) d.cbits) + d.term (bit x d.cbits) (fld x 0 d.cbits)

/-- Every pair (c1, c2) with c1 ≤ c2, largest c1 first. -/
def Dpt.pairs (d : Dpt) : List (Nat × Nat) :=
  ((List.range (d.top + 1)).reverse).flatMap fun c1 => (List.range (d.top + 1)).filterMap fun c2 =>
    if c1 ≤ c2 then some (c1, c2) else none

/-- The canonical encoding of a representable value (R92), with its c2. -/
def Dpt.canon (d : Dpt) (v : Int) : Option (Nat × Nat) :=
  if v = 0 then some (d.enc false d.absent false d.absent, d.absent)
  else
    let neg := decide (v < 0)
    match (List.range (d.top + 1)).find? fun c => v.natAbs = 2 ^ (d.top - c) with
    | some c => some (d.enc neg c false d.absent, d.absent)
    | none =>
      (d.pairs.findSome? fun (c1, c2) => [(false, false), (false, true), (true, false), (true, true)].findSome? fun (s1, s2) =>
        if d.term s1 c1 + d.term s2 c2 = v then some (d.enc s1 c1 s2 c2, c2) else none)

/-- The representable magnitudes, rising, in units of 2^-top; the largest is 2. -/
def Dpt.mags (d : Dpt) : List Nat := (List.range (2 ^ (d.top + 1) + 1)).filter fun n => (d.canon (Int.ofNat n)).isSome

/-- A conversion into a DPT format (R93, R96, R98). R93 saturates a magnitude above 2, which has no neighbour above, and does not say
whether that is an overflow in a mode that would round it to 2: OF and NX in every mode are the model's choice (log 39). -/
def roundDpt (d : Dpt) (r : Rnd) (x : Num) : Nat × Flags :=
  let code := fun (neg : Bool) (n : Nat) => ((d.canon (if neg then -Int.ofNat n else Int.ofNat n)).map (·.1)).getD 0
  let c2 := fun (n : Nat) => ((d.canon (Int.ofNat n)).map (·.2)).getD 0
  let two := 2 ^ (d.top + 1)
  match x with
  | .nan _ => (code false 0, fNV)
  | .inf neg => (code neg two, fOF)
  | .fin neg man exp rest =>
    -- the magnitude is man / den units, and something more when `rest`
    let k := exp + Int.ofNat d.top
    let num := man * pow2 k
    let den := pow2 (-k)
    if num > two * den ∨ (num = two * den ∧ rest) then (code neg two, fOF ||| fNX)
    else
      let lo := (d.mags.filter fun n => n * den ≤ num).getLast?.getD 0
      if lo * den = num ∧ !rest then (code neg lo, 0)
      else
        let hi := (d.mags.find? fun n => n * den > num).getD two
        let rem := num - lo * den
        let gap := (hi - lo) * den
        let up :=
          if r.mode = 0 then
            decide (2 * rem > gap) || (decide (2 * rem = gap) && (rest || decide (c2 hi > c2 lo)))
          else roundsUp r neg false rem gap rest
        let n := if up then hi else lo
        (code neg n, if n = 0 then fNX ||| fUF else fNX)

/-! ## The FMT codes (R90) -/

/-- The value of the low bits of x in format code f: 0 to 13 of R90, 14 FP32. Integers are exact. -/
def decodeCode (f x : Nat) : Num :=
  let int := fun (n : Nat) => let v := sgn n x; Num.fin (decide (v < 0)) v.natAbs 0 false
  match f with
  | 0 => int 3
  | 1 => int 4
  | 2 => int 8
  | 3 => decodeFmt e2m1 x
  | 4 => decodeFmt e3m2 x
  | 5 => decodeFmt e2m3 x
  | 6 => decodeFmt e4m3 x
  | 7 => decodeFmt e5m2 x
  | 8 => let v := dpt6.val x; .fin (decide (v < 0)) v.natAbs (-Int.ofNat dpt6.top) false
  | 9 => let v := dpt8.val x; .fin (decide (v < 0)) v.natAbs (-Int.ofNat dpt8.top) false
  | 10 => decodeE8m0 x
  | 11 => decodeFmt ue4m3 x
  | 12 => decodeFmt bf16 x
  | 13 => decodeFmt fp16 x
  | _ => decodeFmt fp32 x

/-- A value rounded to an integer (round_int of R97), with whether it was inexact; none for a NaN or an infinity. -/
def roundInt (r : Rnd) (x : Num) : Option (Int × Bool) :=
  match x with
  | .fin neg man exp rest =>
    let (n, nx) := roundAt r neg man exp 0 rest
    some (if neg then -Int.ofNat n else Int.ofNat n, nx)
  | _ => none

/-- A conversion into a signed or unsigned integer of n bits: rounded, then clamped (R97). -/
def roundToInt (signed : Bool) (n : Nat) (r : Rnd) (x : Num) : Nat × Flags :=
  let lo : Int := if signed then -Int.ofNat (2 ^ (n - 1)) else 0
  let hi : Int := if signed then Int.ofNat (2 ^ (n - 1)) - 1 else Int.ofNat (2 ^ n) - 1
  let enc := fun (v : Int) => (BitVec.ofInt n v).toNat
  match x with
  | .nan _ => (0, fNV)
  | .inf neg => (enc (if neg then lo else hi), fNV)
  | .fin .. =>
    match roundInt r x with
    | some (v, nx) => (enc (max lo (min hi v)), (if v < lo ∨ hi < v then fNV else 0) ||| (if nx then fNX else 0))
    | none => (0, fNV)

/-- round_fmt or the integer conversion into a format code 0 to 13, 14 FP32 (R93 to R97). -/
def roundCode (f : Nat) (r : Rnd) (sat : Bool) (x : Num) : Nat × Flags :=
  match f with
  | 0 => roundToInt true 3 r x
  | 1 => roundToInt true 4 r x
  | 2 => roundToInt true 8 r x
  | 3 => roundFmt e2m1 r sat x
  | 4 => roundFmt e3m2 r sat x
  | 5 => roundFmt e2m3 r sat x
  | 6 => roundFmt e4m3 r sat x
  | 7 => roundFmt e5m2 r sat x
  | 8 => roundDpt dpt6 r x
  | 9 => roundDpt dpt8 r x
  | 10 => roundE8m0 r x
  | 11 => roundFmt ue4m3 r sat x
  | 12 => roundFmt bf16 r sat x
  | 13 => roundFmt fp16 r sat x
  | _ => roundFmt fp32 r sat x

/-- The width of a format code, 14 FP32. -/
def codeWidth (f : Nat) : Nat := if f < 14 then fmtWidth f else 32

/-! ## Exact arithmetic -/

/-- A signalling NaN operand sets NV (R88). -/
def sigFlag (x : Num) : Flags :=
  match x with
  | .nan true => fNV
  | _ => 0

def Num.isNan : Num → Bool
  | .nan _ => true
  | _ => false

def Num.isNeg : Num → Bool
  | .inf n => n
  | .fin n _ _ _ => n
  | .nan _ => false

def Num.isZero : Num → Bool
  | .fin _ m _ r => m == 0 && !r
  | _ => false

def Num.neg : Num → Num
  | .nan s => .nan s
  | .inf n => .inf (!n)
  | .fin n m e r => .fin (!n) m e r

/-- A signed dyadic as an integer in units of 2^q. -/
def Num.units (x : Num) (q : Int) : Int :=
  match x with
  | .fin n m e _ => let v := Int.ofNat (m * pow2 (e - q)); if n then -v else v
  | _ => 0

/-- The exponent of the last place of a dyadic. -/
def Num.lsb : Num → Int
  | .fin _ _ e _ => e
  | _ => 0

/-- The exact product, and NV for infinity times zero. A NaN operand gives a NaN. -/
def exactMul (a b : Num) : Num × Flags :=
  let fl := sigFlag a ||| sigFlag b
  match a, b with
  | .nan _, _ => (.nan false, fl)
  | _, .nan _ => (.nan false, fl)
  | .inf s, y => if y.isZero then (.nan false, fNV) else (.inf (s != y.isNeg), 0)
  | x, .inf s => if x.isZero then (.nan false, fNV) else (.inf (s != x.isNeg), 0)
  | .fin s m e _, .fin t n f _ => (.fin (s != t) (m * n) (e + f) false, 0)

/-- The exact sum: NV for infinities of opposite sign; a zero sum of unlike signs is -0 under RDN and +0 otherwise. -/
def exactAdd (r : Rnd) (a b : Num) : Num × Flags :=
  let fl := sigFlag a ||| sigFlag b
  match a, b with
  | .nan _, _ => (.nan false, fl)
  | _, .nan _ => (.nan false, fl)
  | .inf s, .inf t => if s = t then (.inf s, 0) else (.nan false, fNV)
  | .inf s, _ => (.inf s, 0)
  | _, .inf t => (.inf t, 0)
  | x, y =>
    let q := min x.lsb y.lsb
    let v := x.units q + y.units q
    if v = 0 then (.fin (if x.isNeg = y.isNeg then x.isNeg else r.mode == 2) 0 0 false, 0)
    else (.fin (decide (v < 0)) v.natAbs q false, 0)

/-- The exact a x b + c. -/
def exactFma (r : Rnd) (a b c : Num) : Num × Flags :=
  let (p, f1) := exactMul a b
  let (s, f2) := exactAdd r p c
  (s, f1 ||| f2)

/-- The rounded result with the flags of the exact step. -/
def finish (f : Fmt) (r : Rnd) (sat : Bool) (x : Num × Flags) : Nat × Flags :=
  let (v, fl) := roundFmt f r sat x.1
  (v, x.2 ||| fl)

/-- The order of two values that are no NaN: -0 and +0 are equal. -/
def numCmp (a b : Num) : Ordering :=
  match a, b with
  | .inf s, .inf t => if s = t then .eq else if s then .lt else .gt
  | .inf s, _ => if s then .lt else .gt
  | _, .inf t => if t then .gt else .lt
  | x, y => let q := min x.lsb y.lsb; compare (x.units q) (y.units q)

/-! ## Quotient and root -/

/-- The integer square root, one bit of the result per step from 2^k down. -/
def isqrtStep (n : Nat) : Nat → Nat → Nat
  | 0, r => r
  | k + 1, r => let t := r + 2 ^ k; isqrtStep n k (if t * t ≤ n then t else r)

def isqrt (n : Nat) : Nat := isqrtStep n (n.log2 / 2 + 1) 0

/-- 1/x of a non-zero finite value. -/
def recip (neg : Bool) (man : Nat) (exp : Int) : Num :=
  let k := man.log2 + 70
  .fin neg (2 ^ k / man) (-exp - Int.ofNat k) (2 ^ k % man != 0)

/-- The root of a positive finite value. -/
def root (man : Nat) (exp : Int) : Num :=
  let odd := exp % 2 != 0
  let m := (if odd then 2 * man else man) * 2 ^ 80
  let s := isqrt m
  .fin false s ((exp - (if odd then 1 else 0)) / 2 - 40) (s * s != m)

/-- 1/root of a positive finite value. -/
def recipRoot (man : Nat) (exp : Int) : Num :=
  let odd := exp % 2 != 0
  let m := if odd then 2 * man else man
  let k := m.log2 + 80
  let s := isqrt (2 ^ (2 * k) / m)
  .fin false s (-((exp - (if odd then 1 else 0)) / 2) - Int.ofNat k) (s * s * m != 2 ^ (2 * k))

/-! ## Special functions (R102): values in fixed point with 640 fraction bits -/

/-- Fraction bits of the fixed point. -/
def fx : Nat := 640
/-- The error bound of a computed value, in its last place. -/
def fxErr : Nat := 2 ^ 30
/-- floor(ln 2 x 2^640) and floor(pi x 2^640). -/
def fxLn2 : Nat := 0xb17217f7d1cf79abc9e3b39803f2f6af40f343267298b62d8a0d175b8baafa2be7b876206debac98559552fb4afa1b10ed2eae35c138214427573b291169b8253e96ca16224ae8c51acbda11317c387e
def fxPi : Nat := 0x3243f6a8885a308d313198a2e03707344a4093822299f31d0082efa98ec4e6c89452821e638d01377be5466cf34e90c6cc0ac29b7c97c50dd3f84d5b5b54709179216d5d98979fb1bd1310ba698dfb5ac

/-- Sum of x^k / k! from a term on. -/
def expSeries (x : Nat) : Nat → Nat → Nat → Nat
  | 0, _, _ => 0
  | n + 1, k, term => term + expSeries x n (k + 1) (term * x / 2 ^ fx / (k + 1))

/-- e^x for 0 ≤ x < 1 in fixed point. -/
def fxExp (x : Nat) : Nat := expSeries x 130 0 (2 ^ fx)

/-- Alternating sum of x^(2k+1) / (2k+1)! from a term on. -/
def sinSeries (x2 : Nat) : Nat → Nat → Nat → Int
  | 0, _, _ => 0
  | n + 1, k, term => Int.ofNat term - sinSeries x2 n (k + 2) (term * x2 / 2 ^ fx / ((k + 1) * (k + 2)))

/-- sin x for 0 ≤ x < 2 in fixed point. -/
def fxSin (x : Nat) : Nat := (sinSeries (x * x / 2 ^ fx) 90 1 x).toNat

/-- Sum of z^(2k+1) / (2k+1) from a power on. -/
def atanhSeries (z2 : Nat) : Nat → Nat → Nat → Nat
  | 0, _, _ => 0
  | n + 1, k, p => p / k + atanhSeries z2 n (k + 2) (p * z2 / 2 ^ fx)

/-- ln m for 1 ≤ m < 2 in fixed point. -/
def fxLn (m : Nat) : Nat :=
  let z := (m - 2 ^ fx) * 2 ^ fx / (m + 2 ^ fx)
  2 * atanhSeries (z * z / 2 ^ fx) 210 1 z

/-- A magnitude known within `fxErr` last places, from below, with a rest (R102; log 43). -/
def fromBelow (neg : Bool) (v : Nat) (exp : Int) : Num := .fin neg (v - fxErr) exp true

/-- The dyadic man x 2^exp in fixed point; exact for every FP32 value. -/
def toFx (man : Nat) (exp : Int) : Nat := man * pow2 (exp + Int.ofNat fx)

/-- 2^x for a finite x that is no integer, from below. -/
def exp2Of (neg : Bool) (man : Nat) (exp : Int) : Num :=
  let big := toFx man exp
  -- |x| is below 2^128; beyond 2^10 the result overflows or underflows every format alike
  let n : Int := if neg then -Int.ofNat (big / 2 ^ fx) - 1 else Int.ofNat (big / 2 ^ fx)
  let f := if neg then 2 ^ fx - big % 2 ^ fx else big % 2 ^ fx
  let n := max (-2000) (min 2000 n)
  fromBelow false (fxExp (f * fxLn2 / 2 ^ fx)) (n - Int.ofNat fx)

/-- log2 x for a positive finite x that is no power of two, from below. -/
def log2Of (man : Nat) (exp : Int) : Num :=
  let l := man.log2
  let m := man * 2 ^ (fx - l)
  let e : Int := exp + Int.ofNat l
  let v : Int := e * Int.ofNat (2 ^ fx) + Int.ofNat (fxLn m * 2 ^ fx / fxLn2)
  fromBelow (decide (v < 0)) v.natAbs (-Int.ofNat fx)

/-- sin(pi x) for a magnitude in half turns given in fixed point modulo 2, away from multiples of one half, from below. -/
def sinPiOf (neg : Bool) (t : Nat) : Num :=
  let one := 2 ^ fx
  let t := t % (2 * one)
  let flip := decide (t ≥ one)
  let f := t % one
  let f := if 2 * f > one then one - f else f
  fromBelow (neg != flip) (fxSin (f * fxPi / one)) (-Int.ofNat fx)

/-- tanh x for a finite non-zero x, from below. -/
def tanhOf (neg : Bool) (man : Nat) (exp : Int) : Num :=
  if exp + Int.ofNat man.log2 ≥ 7 then
    .fin neg (2 ^ 300 - 1) (-300) true
  else
    let y := 2 * toFx man exp
    let n := y / fxLn2
    let e := fxExp (y - n * fxLn2) * 2 ^ n
    let one := 2 ^ fx
    fromBelow neg (one - 2 * one * one / (e + one)) (-Int.ofNat fx)

/-- The special functions, by name. -/
inductive Sfu where
  | rcp | rsq | sqrt | exp2 | log2 | sin | cos | tanh
deriving DecidableEq, Repr

/-- A special function of an FP32 operand under R102, with its flags. -/
def sfu (f : Sfu) (r : Rnd) (a : Nat) : Nat × Flags :=
  let nan : Nat × Flags := (0x7FC00000, fNV)
  let zero := fun (neg : Bool) => (signBit fp32 neg, (0 : Flags))
  let one := fun (neg : Bool) => (signBit fp32 neg + 0x3F800000, (0 : Flags))
  let infty := fun (neg : Bool) (fl : Flags) => (signBit fp32 neg + 0x7F800000, fl)
  match decodeFmt fp32 a with
  | .nan s => (0x7FC00000, if s then fNV else 0)
  | .inf neg =>
    match f with
    | .rcp => zero neg
    | .rsq => if neg then nan else zero false
    | .sqrt => if neg then nan else infty false 0
    | .exp2 => if neg then zero false else infty false 0
    | .log2 => if neg then nan else infty false 0
    | .sin => nan
    | .cos => nan
    | .tanh => one neg
  | .fin neg man exp _ =>
    if man = 0 then
      match f with
      | .rcp => infty neg fDZ
      | .rsq => infty neg fDZ
      | .sqrt => zero neg
      | .exp2 => one false
      | .log2 => infty true fDZ
      | .sin => zero neg
      | .cos => one false
      | .tanh => zero neg
    else
      match f with
      | .rcp => (roundFmt fp32 r false (recip neg man exp))
      | .rsq => if neg then nan else (roundFmt fp32 r false (recipRoot man exp))
      | .sqrt => if neg then nan else (roundFmt fp32 r false (root man exp))
      | .exp2 =>
        if toFx man exp % 2 ^ fx = 0 then
          let n : Int := Int.ofNat (toFx man exp / 2 ^ fx)
          let n := max (-2000) (min 2000 (if neg then -n else n))
          (roundFmt fp32 r false (.fin false 1 n false))
        else roundFmt fp32 r false (exp2Of neg man exp)
      | .log2 =>
        if neg then nan
        else if man = 2 ^ man.log2 then
          let n : Int := exp + Int.ofNat man.log2
          (roundFmt fp32 r false (.fin (decide (n < 0)) n.natAbs 0 false))
        else roundFmt fp32 r false (log2Of man exp)
      | .sin =>
        let t := toFx man exp % (2 * 2 ^ fx)
        if t % 2 ^ fx = 0 then zero neg
        else if t % 2 ^ fx = 2 ^ (fx - 1) then one (neg != decide (t ≥ 2 ^ fx))
        else roundFmt fp32 r false (sinPiOf neg t)
      | .cos =>
        let t := (toFx man exp + 2 ^ (fx - 1)) % (2 * 2 ^ fx)
        if t % 2 ^ fx = 0 then zero false
        else if t % 2 ^ fx = 2 ^ (fx - 1) then one (decide (t ≥ 2 ^ fx))
        else roundFmt fp32 r false (sinPiOf false t)
      | .tanh => roundFmt fp32 r false (tanhOf neg man exp)

/-! ## The warp generator (R100) -/

/-- One round. -/
def philoxRound (k0 k1 : W32) (s : W32 × W32 × W32 × W32) : W32 × W32 × W32 × W32 :=
  let m0 := 0xD2511F53 * s.1.toNat
  let m1 := 0xCD9E8D57 * s.2.2.1.toNat
  let hi := fun (m : Nat) => BitVec.ofNat 32 (m / 2 ^ 32)
  let lo := fun (m : Nat) => BitVec.ofNat 32 m
  (hi m1 ^^^ s.2.1 ^^^ k0, lo m1, hi m0 ^^^ s.2.2.2 ^^^ k1, lo m0)

/-- n rounds; the key is bumped between rounds. -/
def philox : Nat → W32 → W32 → W32 × W32 × W32 × W32 → W32 × W32 × W32 × W32
  | 0, _, _, s => s
  | n + 1, k0, k1, s => philox n (k0 + 0x9E3779B9) (k1 + 0xBB67AE85) (philoxRound k0 k1 s)

/-- block(t, k) of a key and a counter. -/
def genBlock (lo hi ctr : W32) (t k : Nat) : W32 × W32 × W32 × W32 :=
  philox 10 lo hi (ctr, BitVec.ofNat 32 t, BitVec.ofNat 32 k, 0)

/-- Word i of a block. -/
def genWord (b : W32 × W32 × W32 × W32) (i : Nat) : W32 :=
  match i with
  | 0 => b.1 | 1 => b.2.1 | 2 => b.2.2.1 | _ => b.2.2.2

/-- draw16(t, j). -/
def draw16 (lo hi ctr : W32) (t j : Nat) : Nat :=
  let h := j % 8
  let w := (genWord (genBlock lo hi ctr t (j / 8)) (h / 2)).toNat
  if h % 2 = 0 then w % 65536 else w / 65536

/-- draw32(t). -/
def draw32 (lo hi ctr : W32) (t : Nat) : W32 := (genBlock lo hi ctr t 0).1

end Sys2Proof.Machine
end

