-- ==== Sys2Proof/Decode.lean ====
section
/-!
DEFINITION. Sys2Proof/Decode.lean: the decoder and the encoder of the words of R56 to R68, from the same tables.
`decode` is total on any bytes and names its refusals. A word is read into the operand structure of its format,
and it is an instruction when `wellFormed` holds of it (R71).
-/

namespace Sys2Proof

/-- Why bytes are no instruction. -/
inductive Reject where
  /-- Fewer bytes than the instruction has. -/
  | truncated
  /-- A 32-bit word that R57 to R68 define as no instruction (R71). -/
  | notAnInstruction (word : Nat)
deriving DecidableEq, Repr

/-- A number as an element below a bound. -/
def toFin (n v : Nat) : Option (Fin n) := if h : v < n then some ⟨v, h⟩ else none

/-- A 7-bit operand code with its last-read bit (R57). -/
def toOpd (code : Nat) (last : Bool) : Option Opd :=
  if h : code < 96 then some (.v ⟨code, h⟩ last)
  else if last then none else (toFin 32 (code - 96)).map .s

/-- A 7-bit operand code (R57). -/
def toSrc (code : Nat) : Option Src :=
  if h : code < 96 then some (.v ⟨code, h⟩) else (toFin 32 (code - 96)).map .s

/-- A predicate source field: 0 to 47, or 63 (R58). -/
def toPSrc (code : Nat) : Option PSrc :=
  if h : code < 48 then some (.p ⟨code, h⟩) else if code = 63 then some .pt else none

/-- The SCOPE codes (R60). -/
def toScope (code : Nat) : Option Scope :=
  match code with
  | 0 => some .warp | 1 => some .core | 2 => some .cluster | 3 => some .chip | 4 => some .fabric | _ => none

/-- The AOP codes (R68). -/
def toAtomOp (code : Nat) : Option AtomOp :=
  match code with
  | 0 => some .add | 1 => some .imin | 2 => some .imax | 3 => some .umin | 4 => some .umax | 5 => some .and
  | 6 => some .or | 7 => some .xor | 8 => some .exch | 9 => some .cas | 10 => some .incw | 11 => some .decw
  | 12 => some .fadd | _ => none

/-- The value when the required fields are zero. -/
def need {α : Type} (c : Bool) (x : Option α) : Option α := if c then x else none

/-- FN, bits [8:7]. -/
def fnOf (w : Nat) : Nat := fld w 7 2

section Formats
variable (w : Nat)

def decV (k : VOps → Instr) : Option Instr := do
  some (k ⟨← toFin 96 (fld w 9 7), ← toOpd (fld w 16 7) (bit w 30), ← toOpd (fld w 23 7) (bit w 31)⟩)
def decU (k : UnOps → Instr) : Option Instr :=
  need (fld w 23 7 == 0 && !bit w 31) do some (k ⟨← toFin 96 (fld w 9 7), ← toOpd (fld w 16 7) (bit w 30)⟩)
def decVt (k : LutOps → Instr) : Option Instr := do
  some (k ⟨← toFin 32 (fld w 7 5), ← toFin 32 (fld w 12 5), ← toFin 32 (fld w 17 5), bit w 30, bit w 31, ← toFin 256 (fld w 22 8)⟩)
def decCvt (k : CvtOps → Instr) : Option Instr :=
  need (fld w 29 1 == 0 && fld w 27 1 == 0 && !bit w 31) do
    some (k ⟨← toFin 96 (fld w 9 7), ← toOpd (fld w 16 7) (bit w 30), bit w 28, ← toFin 16 (fld w 23 4)⟩)
def decVp (k : CmpOps → Instr) : Option Instr := do
  some (k ⟨← toFin 48 (fld w 7 6), ← toOpd (fld w 16 7) (bit w 30), ← toOpd (fld w 23 7) (bit w 31), ← toFin 8 (fld w 13 3)⟩)
def decVsel (k : SelOps → Instr) : Option Instr := do
  some (k ⟨← toFin 96 (fld w 9 7), ← toPSrc (fld w 16 6), ← toFin 32 (fld w 22 5), ← toFin 32 (fld w 27 5), bit w 7, bit w 8⟩)
def decPl (k : PlopOps → Instr) : Option Instr :=
  need (fld w 29 3 == 0) do
    some (k ⟨← toFin 48 (fld w 7 6), ← toPSrc (fld w 13 6), ← toPSrc (fld w 19 6), ← toFin 16 (fld w 25 4)⟩)
def decP2v (k : VReg → PSrc → Instr) : Option Instr :=
  need (fld w 29 3 == 0 && fld w 16 7 == 0) do some (k (← toFin 96 (fld w 9 7)) (← toPSrc (fld w 23 6)))
def decV2p (k : PReg → Src → Instr) : Option Instr :=
  need (fld w 29 3 == 0 && fld w 9 7 == 0) do some (k (← toFin 48 (fld w 23 6)) (← toSrc (fld w 16 7)))
def decElect (k : PReg → Instr) : Option Instr :=
  need (fld w 29 3 == 0 && fld w 9 14 == 0) do some (k (← toFin 48 (fld w 23 6)))
def decPbal (k : VReg → PSrc → Src → Instr) : Option Instr :=
  need (fld w 29 3 == 0) do some (k (← toFin 96 (fld w 9 7)) (← toPSrc (fld w 23 6)) (← toSrc (fld w 16 7)))
def decMovsr (k : VReg → Fin 43 → Instr) : Option Instr :=
  need (fld w 30 2 == 0 && fld w 16 7 == 0) do some (k (← toFin 96 (fld w 9 7)) (← toFin 43 (fld w 23 7)))
def decMovsw (k : Fin 43 → Opd → Instr) : Option Instr :=
  need (!bit w 31 && fld w 9 7 == 0) do some (k (← toFin 43 (fld w 23 7)) (← toOpd (fld w 16 7) (bit w 30)))
def decVi (k : ImmOps → Instr) : Option Instr := do some (k ⟨← toFin 96 (fld w 9 7), ← toFin 65536 (fld w 16 16)⟩)
def decRed (k : RedOps → Instr) : Option Instr :=
  need (!bit w 31) do some (k ⟨← toFin 96 (fld w 9 7), ← toOpd (fld w 16 7) (bit w 30), ← toFin 11 (fld w 23 7)⟩)
def decRand (k : VReg → Instr) : Option Instr := need (fld w 16 16 == 0) do some (k (← toFin 96 (fld w 9 7)))
def decRseed (k : Opd → Opd → Instr) : Option Instr :=
  need (fld w 9 7 == 0) do some (k (← toOpd (fld w 16 7) (bit w 30)) (← toOpd (fld w 23 7) (bit w 31)))
def decRskip (k : Opd → Instr) : Option Instr :=
  need (fld w 9 7 == 0 && fld w 23 7 == 0 && !bit w 31) do some (k (← toOpd (fld w 16 7) (bit w 30)))
def decVn (k : PackOps → Instr) : Option Instr := do
  some (k ⟨← toFin 96 (fld w 9 7), ← toSrc (fld w 16 7), ← toFin 14 (fld w 23 4), ← toFin 32 (fld w 27 5)⟩)
def decVa (k : PairOps → Instr) : Option Instr := do
  some (k ⟨← toFin 48 (fld w 9 6), ← toFin 48 (fld w 15 6), ← toSrc (fld w 21 7), ← toFin 10 (fld w 28 4)⟩)
def decVs (k : ShOps → Instr) : Option Instr :=
  need (!bit w 31 && fld w 28 2 == 0) do some (k ⟨← toFin 96 (fld w 9 7), ← toOpd (fld w 16 7) (bit w 30), ← toFin 32 (fld w 23 5)⟩)
def decVf (k : FunOps → Instr) : Option Instr := do
  some (k ⟨← toFin 96 (fld w 8 7), ← toFin 64 (fld w 15 6), ← toFin 64 (fld w 21 6), ← toFin 32 (fld w 27 5)⟩)
def decLd (k : LdOps → Instr) : Option Instr := do
  some (k ⟨← toFin 96 (fld w 9 7), ← toFin 32 (fld w 16 5), ← toSrc (fld w 21 7), ← toFin 12 (fld w 28 4), bit w 7, bit w 8⟩)
def decSt (k : StOps → Instr) : Option Instr := do
  some (k ⟨← toSrc (fld w 9 7), ← toFin 32 (fld w 16 5), ← toSrc (fld w 21 7), ← toFin 10 (fld w 28 4), bit w 7, bit w 8⟩)
def decPref (k : PrefOps → Instr) : Option Instr :=
  need (fld w 9 7 == 0) do some (k ⟨← toFin 32 (fld w 16 5), ← toSrc (fld w 21 7), ← toFin 10 (fld w 28 4)⟩)
def decLda (k : LdaOps → Instr) : Option Instr := do
  some (k ⟨← toFin 96 (fld w 9 7), ← toFin 32 (fld w 16 5), ← toSrc (fld w 21 7), ← toScope (fld w 28 3), bit w 31, bit w 7⟩)
def decStr (k : StrOps → Instr) : Option Instr :=
  need (!bit w 31) do
    some (k ⟨← toSrc (fld w 9 7), ← toFin 32 (fld w 16 5), ← toSrc (fld w 21 7), ← toScope (fld w 28 3), bit w 7⟩)
def toSize (code : Nat) : Option AtomSize :=
  match code with
  | 0 => some .w32 | 1 => some .w64 | 2 => some .bf | _ => none
def decAtom (k : AtomOps → Instr) : Option Instr := do
  some (k ⟨← toFin 96 (fld w 9 7), ← toFin 32 (fld w 16 5), ← toFin 32 (fld w 21 5), ← toAtomOp (fld w 26 4),
    ← toSize (fld w 7 2), ← toFin 4 (fld w 30 2)⟩)
/-- SD, SA and IMM11 of format E as numbers. -/
def eSd : Nat := fld w 11 5
def eSa : Nat := fld w 16 5
def eImm : Nat := fld w 21 11
def decFence (k : Scope → FenceKind → Instr) : Option Instr :=
  need (eSd w == 0 && eSa w == 0 && fld w 26 6 == 0) do
    let f ← (match fld w 24 2 with | 0 => some FenceKind.acqRel | 1 => some .acquire | 2 => some .release | _ => none)
    some (k (← toScope (fld w 21 3)) f)
def decGrp (k : Fin 256 → Instr) : Option Instr :=
  need (eSd w == 0 && eSa w == 0) do some (k (← toFin 256 (eImm w)))
def decE0 (k : Instr) : Option Instr := need (eSd w == 0 && eSa w == 0 && eImm w == 0) (some k)
def decEsa (k : SReg → Instr) : Option Instr := need (eSd w == 0 && eImm w == 0) do some (k (← toFin 32 (eSa w)))
def decEsd (k : SReg → Instr) : Option Instr := need (eSa w == 0 && eImm w == 0) do some (k (← toFin 32 (eSd w)))
def decEsdsa (k : SReg → SReg → Instr) : Option Instr :=
  need (eImm w == 0) do some (k (← toFin 32 (eSd w)) (← toFin 32 (eSa w)))
def decTagrd (k : SReg → Fin 64 → Instr) : Option Instr := need (eSa w == 0) do some (k (← toFin 32 (eSd w)) (← toFin 64 (eImm w)))
def decJpop (k : SReg → Fin 8 → Instr) : Option Instr := need (eSa w == 0) do some (k (← toFin 32 (eSd w)) (← toFin 8 (eImm w)))
def decEsaimm (k : SReg → Fin 2048 → Instr) : Option Instr :=
  need (eSd w == 0) do some (k (← toFin 32 (eSa w)) (← toFin 2048 (eImm w)))
def decFpoll (k : SReg → SReg → PReg → Instr) : Option Instr := do
  some (k (← toFin 32 (eSd w)) (← toFin 32 (eSa w)) (← toFin 48 (eImm w)))
def decQrcv (k : SReg → Fin 4 → Instr) : Option Instr := need (eSa w == 0) do some (k (← toFin 32 (eSd w)) (← toFin 4 (eImm w)))
def decQpoll (k : SReg → Fin 4 → PReg → Instr) : Option Instr :=
  need (eSa w == 0) do some (k (← toFin 32 (eSd w)) (← toFin 4 (fld w 21 2)) (← toFin 48 (fld w 23 9)))
def decRacq (k : SReg → Fin 4 → Fin 512 → Instr) : Option Instr :=
  need (eSa w == 0) do some (k (← toFin 32 (eSd w)) (← toFin 4 (fld w 21 2)) (← toFin 512 (fld w 23 9)))
def decRrel (k : Fin 4 → Fin 512 → Instr) : Option Instr :=
  need (eSa w == 0 && eSd w == 0) do some (k (← toFin 4 (fld w 21 2)) (← toFin 512 (fld w 23 9)))
def decRqry (k : SReg → Fin 4 → Instr) : Option Instr := need (eSa w == 0) do some (k (← toFin 32 (eSd w)) (← toFin 4 (eImm w)))
def decEimm (k : Fin 2048 → Instr) : Option Instr := need (eSa w == 0 && eSd w == 0) do some (k (← toFin 2048 (eImm w)))
def decSys (k : SReg → SReg → Fin 2048 → Instr) : Option Instr := do
  some (k (← toFin 32 (eSd w)) (← toFin 32 (eSa w)) (← toFin 2048 (eImm w)))
def decTlbi (k : SReg → Fin 3 → Instr) : Option Instr := need (eSd w == 0) do some (k (← toFin 32 (eSa w)) (← toFin 3 (eImm w)))
def decSreg (k : SOps → Instr) : Option Instr :=
  need (fld w 26 6 == 0) do some (k ⟨← toFin 32 (fld w 11 5), ← toFin 32 (fld w 16 5), ← toFin 32 (fld w 21 5)⟩)
def decSimm (k : SImmOps → Instr) : Option Instr :=
  need (bit w 31) do some (k ⟨← toFin 32 (fld w 11 5), ← toFin 32 (fld w 16 5), ← toFin 1024 (fld w 21 10)⟩)
def decS16 (k : SReg → Fin 65536 → Instr) : Option Instr :=
  need (fld w 14 2 == 0) do some (k (← toFin 32 (fld w 9 5)) (← toFin 65536 (fld w 16 16)))
def decSp (k : ScmpOps → Instr) : Option Instr :=
  need (fld w 26 6 == 0) do some (k ⟨← toFin 48 (fld w 7 6), ← toFin 32 (fld w 16 5), ← toFin 32 (fld w 21 5), ← toFin 8 (fld w 13 3)⟩)
def decSa (k : SaOps → Instr) : Option Instr :=
  need (fld w 28 4 == 0) do some (k ⟨← toFin 32 (fld w 9 5), ← toFin 32 (fld w 14 5), ← toFin 32 (fld w 19 5), ← toFin 10 (fld w 24 4)⟩)
def decRdlane (k : SReg → VReg → Fin 32 → Instr) : Option Instr :=
  need (fld w 26 6 == 0) do some (k (← toFin 32 (fld w 9 5)) (← toFin 96 (fld w 14 7)) (← toFin 32 (fld w 21 5)))
def decRdfirst (k : SReg → VReg → Instr) : Option Instr :=
  need (fld w 21 11 == 0) do some (k (← toFin 32 (fld w 9 5)) (← toFin 96 (fld w 14 7)))
def decMxs (k : ScaccOps → Instr) : Option Instr := do
  some (k ⟨← toFin 4 (fld w 9 2), ← toFin 8 (fld w 11 3), ← toSrc (fld w 14 7), ← toFin 96 (fld w 21 7), ← toFin 16 (fld w 28 4)⟩)
def decAccclr (k : Fin 4 → Fin 4 → Instr) : Option Instr :=
  need (fld w 11 19 == 0) do some (k (← toFin 4 (fld w 9 2)) (← toFin 4 (fld w 30 2)))
def decAcx (k : TileOps → Instr) : Option Instr :=
  need (fld w 28 4 == 0 && fld w 11 3 == 0) do some (k ⟨← toFin 96 (fld w 14 7), ← toFin 4 (fld w 9 2), ← toFin 128 (fld w 21 7)⟩)
def decPlnrd (k : PlaneOps → Instr) : Option Instr :=
  need (fld w 28 4 == 0 && fld w 9 2 == 0) do some (k ⟨← toFin 96 (fld w 14 7), ← toFin 8 (fld w 11 3), ← toFin 128 (fld w 21 7)⟩)
/-- BRP, or BRA for P = 63 with NEG = 0 (R65). -/
def decBrp (k : PReg → Bool → Fin 65536 → Instr) (kb : Fin 65536 → Instr) : Option Instr := do
  let off ← toFin 65536 (fld w 16 16)
  if fld w 9 6 = 63 then need (!bit w 15) (some (kb off)) else some (k (← toFin 48 (fld w 9 6)) (bit w 15) off)
def decCall (k : Fin 65536 → Instr) : Option Instr :=
  need (fld w 9 7 == 63) do some (k (← toFin 65536 (fld w 16 16)))
def decBx (k : Src → Instr) : Option Instr := need (fld w 16 16 == 0) do some (k (← toSrc (fld w 9 7)))
def decBx0 (k : Instr) : Option Instr := need (fld w 9 23 == 0) (some k)
def decPfx (k : Prefix → Instr) : Option Instr :=
  need (fld w 29 3 == 0) do
    let m ← (match fld w 7 2 with | 0 => some Merge.none | 1 => some .keep | 2 => some .zero | _ => none)
    some (k ⟨bit w 28, bit w 27, bit w 26, ← toOpd (fld w 18 7) (bit w 25), ← toFin 7 (fld w 15 3), ← toPSrc (fld w 9 6), m⟩)
def decC (k : COps → Instr) : Option Instr := do
  some (k ⟨← toFin 32 (fld w 5 5), ← toFin 32 (fld w 10 5), bit w 15⟩)

end Formats

/-- The code of an operand. -/
def Opd.code : Opd → Nat
  | .v n _ => n.val
  | .s n => 96 + n.val
/-- Its last-read bit. -/
def Opd.last : Opd → Bool
  | .v _ l => l
  | .s _ => false
def Src.code : Src → Nat
  | .v n => n.val
  | .s n => 96 + n.val
def PSrc.code : PSrc → Nat
  | .p n => n.val
  | .pt => 63
def Scope.code : Scope → Nat
  | .warp => 0 | .core => 1 | .cluster => 2 | .chip => 3 | .fabric => 4
def FenceKind.code : FenceKind → Nat
  | .acqRel => 0 | .acquire => 1 | .release => 2
def AtomSize.code : AtomSize → Nat
  | .w32 => 0 | .w64 => 1 | .bf => 2
def AtomOp.code : AtomOp → Nat
  | .add => 0 | .imin => 1 | .imax => 2 | .umin => 3 | .umax => 4 | .and => 5 | .or => 6 | .xor => 7 | .exch => 8
  | .cas => 9 | .incw => 10 | .decw => 11 | .fadd => 12
def Merge.code : Merge → Nat
  | .none => 0 | .keep => 1 | .zero => 2

/-- Bit 0, MAJ in [6:1] and FN (or the low two bits of SUB) from bit 7 up. -/
def base (maj fn : Nat) : Nat := 1 + maj * 2 ^ 1 + fn * 2 ^ 7

section Encoders

def encV (maj fn : Nat) (o : VOps) : Nat :=
  base maj fn + o.d.val * 2 ^ 9 + o.a.code * 2 ^ 16 + o.b.code * 2 ^ 23 + b1 o.a.last * 2 ^ 30 + b1 o.b.last * 2 ^ 31
def encU (maj fn : Nat) (o : UnOps) : Nat := base maj fn + o.d.val * 2 ^ 9 + o.a.code * 2 ^ 16 + b1 o.a.last * 2 ^ 30
def encVt (maj : Nat) (o : LutOps) : Nat :=
  base maj 0 + o.d.val * 2 ^ 7 + o.a.val * 2 ^ 12 + o.b.val * 2 ^ 17 + o.tbl.val * 2 ^ 22 + b1 o.la * 2 ^ 30 + b1 o.lb * 2 ^ 31
def encCvt (maj fn : Nat) (o : CvtOps) : Nat :=
  base maj fn + o.d.val * 2 ^ 9 + o.a.code * 2 ^ 16 + o.fmt.val * 2 ^ 23 + b1 o.toF32 * 2 ^ 28 + b1 o.a.last * 2 ^ 30
def encVp (maj : Nat) (o : CmpOps) : Nat :=
  base maj 0 + o.p.val * 2 ^ 7 + o.cond.val * 2 ^ 13 + o.a.code * 2 ^ 16 + o.b.code * 2 ^ 23 + b1 o.a.last * 2 ^ 30 + b1 o.b.last * 2 ^ 31
def encVsel (maj : Nat) (o : SelOps) : Nat :=
  base maj 0 + b1 o.la * 2 ^ 7 + b1 o.lb * 2 ^ 8 + o.d.val * 2 ^ 9 + o.p.code * 2 ^ 16 + o.a.val * 2 ^ 22 + o.b.val * 2 ^ 27
def encPl (maj : Nat) (o : PlopOps) : Nat :=
  base maj 0 + o.pd.val * 2 ^ 7 + o.pa.code * 2 ^ 13 + o.pb.code * 2 ^ 19 + o.tbl.val * 2 ^ 25
def encP2v (maj fn : Nat) (d : VReg) (p : PSrc) : Nat := base maj fn + d.val * 2 ^ 9 + p.code * 2 ^ 23
def encV2p (maj fn : Nat) (p : PReg) (a : Src) : Nat := base maj fn + a.code * 2 ^ 16 + p.val * 2 ^ 23
def encElect (maj fn : Nat) (p : PReg) : Nat := base maj fn + p.val * 2 ^ 23
def encPbal (maj fn : Nat) (d : VReg) (p : PSrc) (a : Src) : Nat := base maj fn + d.val * 2 ^ 9 + a.code * 2 ^ 16 + p.code * 2 ^ 23
def encMovsr (maj fn : Nat) (d : VReg) (n : Fin 43) : Nat := base maj fn + d.val * 2 ^ 9 + n.val * 2 ^ 23
def encMovsw (maj fn : Nat) (n : Fin 43) (a : Opd) : Nat := base maj fn + a.code * 2 ^ 16 + n.val * 2 ^ 23 + b1 a.last * 2 ^ 30
def encVi (maj fn : Nat) (o : ImmOps) : Nat := base maj fn + o.d.val * 2 ^ 9 + o.imm.val * 2 ^ 16
def encRed (maj fn : Nat) (o : RedOps) : Nat :=
  base maj fn + o.d.val * 2 ^ 9 + o.a.code * 2 ^ 16 + o.op.val * 2 ^ 23 + b1 o.a.last * 2 ^ 30
def encRand (maj fn : Nat) (d : VReg) : Nat := base maj fn + d.val * 2 ^ 9
def encRseed (maj fn : Nat) (a b : Opd) : Nat :=
  base maj fn + a.code * 2 ^ 16 + b.code * 2 ^ 23 + b1 a.last * 2 ^ 30 + b1 b.last * 2 ^ 31
def encRskip (maj fn : Nat) (a : Opd) : Nat := base maj fn + a.code * 2 ^ 16 + b1 a.last * 2 ^ 30
def encVn (maj fn : Nat) (o : PackOps) : Nat :=
  base maj fn + o.d.val * 2 ^ 9 + o.a.code * 2 ^ 16 + o.fmt.val * 2 ^ 23 + o.idx.val * 2 ^ 27
def encVa (maj fn : Nat) (o : PairOps) : Nat :=
  base maj fn + o.d.val * 2 ^ 9 + o.a.val * 2 ^ 15 + o.b.code * 2 ^ 21 + o.wc.val * 2 ^ 28
def encVs (maj fn : Nat) (o : ShOps) : Nat :=
  base maj fn + o.d.val * 2 ^ 9 + o.a.code * 2 ^ 16 + o.sh.val * 2 ^ 23 + b1 o.a.last * 2 ^ 30
def encVf (maj fn : Nat) (o : FunOps) : Nat :=
  base maj fn + o.d.val * 2 ^ 8 + o.a.val * 2 ^ 15 + o.b.val * 2 ^ 21 + o.sh.val * 2 ^ 27
def encLd (maj : Nat) (o : LdOps) : Nat :=
  base maj 0 + b1 o.nt * 2 ^ 7 + b1 o.lu * 2 ^ 8 + o.d.val * 2 ^ 9 + o.sb.val * 2 ^ 16 + o.x.code * 2 ^ 21 + o.wc.val * 2 ^ 28
def encSt (maj : Nat) (o : StOps) : Nat :=
  base maj 0 + b1 o.nt * 2 ^ 7 + b1 o.lu * 2 ^ 8 + o.d.code * 2 ^ 9 + o.sb.val * 2 ^ 16 + o.x.code * 2 ^ 21 + o.wc.val * 2 ^ 28
def encPref (maj fn : Nat) (o : PrefOps) : Nat := base maj fn + o.sb.val * 2 ^ 16 + o.x.code * 2 ^ 21 + o.wc.val * 2 ^ 28
def encLda (maj fn : Nat) (o : LdaOps) : Nat :=
  base maj 0 + b1 o.w64 * 2 ^ 7 + fn * 2 ^ 8 + o.d.val * 2 ^ 9 + o.sb.val * 2 ^ 16 + o.x.code * 2 ^ 21 + o.scope.code * 2 ^ 28 + b1 o.rem * 2 ^ 31
def encStr (maj fn : Nat) (o : StrOps) : Nat :=
  base maj 0 + b1 o.w64 * 2 ^ 7 + fn * 2 ^ 8 + o.d.code * 2 ^ 9 + o.sb.val * 2 ^ 16 + o.x.code * 2 ^ 21 + o.scope.code * 2 ^ 28
def encAtom (maj : Nat) (o : AtomOps) : Nat :=
  base maj o.size.code + o.d.val * 2 ^ 9 + o.sb.val * 2 ^ 16 + o.xv.val * 2 ^ 21 + o.op.code * 2 ^ 26 + o.scope.val * 2 ^ 30
/-- Format E from its fields. -/
def encE (maj sub sd sa imm : Nat) : Nat := base maj sub + sd * 2 ^ 11 + sa * 2 ^ 16 + imm * 2 ^ 21
def encSreg (maj sub : Nat) (o : SOps) : Nat := base maj sub + o.sd.val * 2 ^ 11 + o.sa.val * 2 ^ 16 + o.sb.val * 2 ^ 21
def encSimm (maj sub : Nat) (o : SImmOps) : Nat :=
  base maj sub + o.sd.val * 2 ^ 11 + o.sa.val * 2 ^ 16 + o.imm.val * 2 ^ 21 + 2 ^ 31
def encS16 (maj fn : Nat) (sd : SReg) (imm : Fin 65536) : Nat := base maj fn + sd.val * 2 ^ 9 + imm.val * 2 ^ 16
def encSp (maj : Nat) (o : ScmpOps) : Nat :=
  base maj 0 + o.p.val * 2 ^ 7 + o.cond.val * 2 ^ 13 + o.sa.val * 2 ^ 16 + o.sb.val * 2 ^ 21
def encSa (maj fn : Nat) (o : SaOps) : Nat :=
  base maj fn + o.sd.val * 2 ^ 9 + o.sa.val * 2 ^ 14 + o.sb.val * 2 ^ 19 + o.wc.val * 2 ^ 24
def encRdlane (maj fn : Nat) (sd : SReg) (a : VReg) (lane : Nat) : Nat :=
  base maj fn + sd.val * 2 ^ 9 + a.val * 2 ^ 14 + lane * 2 ^ 21
def encMxs (maj fn : Nat) (o : ScaccOps) : Nat :=
  base maj fn + o.ac.val * 2 ^ 9 + o.pl.val * 2 ^ 11 + o.va.code * 2 ^ 14 + o.vb.val * 2 ^ 21 + o.imm.val * 2 ^ 28
def encAccclr (maj fn : Nat) (ac band : Fin 4) : Nat := base maj fn + ac.val * 2 ^ 9 + band.val * 2 ^ 30
def encAcx (maj fn : Nat) (o : TileOps) : Nat := base maj fn + o.ac.val * 2 ^ 9 + o.d.val * 2 ^ 14 + o.row.val * 2 ^ 21
def encPlnrd (maj fn : Nat) (o : PlaneOps) : Nat := base maj fn + o.pl.val * 2 ^ 11 + o.d.val * 2 ^ 14 + o.row.val * 2 ^ 21
def encBr (maj fn p : Nat) (neg : Bool) (off : Fin 65536) : Nat :=
  base maj fn + p * 2 ^ 9 + b1 neg * 2 ^ 15 + off.val * 2 ^ 16
def encBx (maj fn : Nat) (a : Src) : Nat := base maj fn + a.code * 2 ^ 9
def encPfx (o : Prefix) : Nat :=
  base 63 o.merge.code + o.mask.code * 2 ^ 9 + o.rnd.val * 2 ^ 15 + o.c.code * 2 ^ 18 + b1 o.c.last * 2 ^ 25 + b1 o.negm * 2 ^ 26
    + b1 o.sat * 2 ^ 27 + b1 o.w * 2 ^ 28
def encC (op : Nat) (o : COps) : Nat := op * 2 + o.d.val * 2 ^ 5 + o.b.val * 2 ^ 10 + b1 o.lb * 2 ^ 15

end Encoders

/-- The opcode map of R63 to R66: the operand structure of a 32-bit word. -/
def decode32Raw (w : Nat) : Option Instr :=
  match fld w 1 6 with
  | 0 =>
    match fnOf w with
    | 0 => decV w .iadd
    | 1 => decV w .isub
    | 2 => decV w .imul
    | 3 => decV w .imulh
    | _ => none
  | 1 =>
    match fnOf w with
    | 0 => decV w .imin
    | 1 => decV w .imax
    | 2 => decV w .umin
    | 3 => decV w .umax
    | _ => none
  | 2 =>
    match fnOf w with
    | 0 => decV w .and
    | 1 => decV w .or
    | 2 => decV w .xor
    | 3 => decV w .andn
    | _ => none
  | 3 =>
    match fnOf w with
    | 0 => decV w .shl
    | 1 => decV w .shr
    | 2 => decV w .sar
    | 3 => decV w .rot
    | _ => none
  | 4 =>
    match fnOf w with
    | 0 => decV w .bfx
    | 1 => decV w .bfxs
    | 2 => decV w .bfi
    | _ => none
  | 5 =>
    match fnOf w with
    | 0 => decU w .popc
    | 1 => decU w .clz
    | 2 => decU w .ctz
    | 3 => decU w .brev
    | _ => none
  | 6 =>
    match fnOf w with
    | 0 => decV w .imad
    | 1 => decV w .umulh
    | 2 => decV w .idiv
    | 3 => decV w .udiv
    | _ => none
  | 7 => decVt w .lut3
  | 8 =>
    match fnOf w with
    | 0 => decV w .fadd
    | 1 => decV w .fsub
    | 2 => decV w .fmul
    | 3 => decV w .ffma
    | _ => none
  | 9 =>
    match fnOf w with
    | 0 => decV w .fmin
    | 1 => decV w .fmax
    | 2 => decV w .fminn
    | 3 => decV w .fmaxn
    | _ => none
  | 10 =>
    match fnOf w with
    | 0 => decU w .frcp
    | 1 => decU w .frsq
    | 2 => decU w .fsqrt
    | 3 => decU w .fexp2
    | _ => none
  | 11 =>
    match fnOf w with
    | 0 => decU w .flog2
    | 1 => decU w .fsin
    | 2 => decU w .fcos
    | 3 => decU w .ftanh
    | _ => none
  | 12 =>
    match fnOf w with
    | 0 => decV w .badd2
    | 1 => decV w .bmul2
    | 2 => decV w .bfma2
    | 3 => decV w .bmax2
    | _ => none
  | 13 =>
    match fnOf w with
    | 0 => decV w .hadd2
    | 1 => decV w .hmul2
    | 2 => decV w .hfma2
    | 3 => decV w .hmax2
    | _ => none
  | 14 =>
    match fnOf w with
    | 0 => decCvt w .fcvt
    | 1 => decCvt w .fcvtSat
    | _ => none
  | 15 =>
    match fnOf w with
    | 0 => decU w .frnd
    | 1 => decU w .ffrac
    | 2 => decU w .fclass
    | 3 => decV w .fldexp
    | _ => none
  | 16 => decVp w .icmp
  | 17 => decVp w .fcmp
  | 18 => decVsel w .sel
  | 19 => decPl w .plop
  | 20 =>
    match fnOf w with
    | 0 => decP2v w .p2v
    | 1 => decV2p w .v2p
    | 2 => decElect w .elect
    | 3 => decPbal w .pbal
    | _ => none
  | 21 =>
    match fnOf w with
    | 0 => decU w .mov
    | 1 => decU w .mov64
    | 2 => decMovsr w .movsr
    | 3 => decMovsw w .movsw
    | _ => none
  | 22 =>
    match fnOf w with
    | 0 => decVi w .movil
    | 1 => decVi w .movih
    | 2 => decVi w .movis
    | 3 => decVi w .movif
    | _ => none
  | 23 =>
    match fnOf w with
    | 0 => decV w .shflIdx
    | 1 => decV w .shflUp
    | 2 => decV w .shflDn
    | 3 => decV w .shflXor
    | _ => none
  | 24 =>
    match fnOf w with
    | 0 => decV w .xpush
    | _ => none
  | 25 =>
    match fnOf w with
    | 0 => decU w .voteAll
    | 1 => decU w .voteAny
    | 2 => decU w .voteBal
    | 3 => decV w .voteEq
    | _ => none
  | 26 =>
    match fnOf w with
    | 0 => decRed w .redux
    | 1 => decRed w .scan
    | 2 => decRed w .scanX
    | _ => none
  | 27 =>
    match fnOf w with
    | 0 => decRand w .rand
    | 1 => decRand w .randf
    | 2 => decRseed w .rseed
    | 3 => decRskip w .rskip
    | _ => none
  | 28 =>
    match fnOf w with
    | 0 => decVn w .npack
    | 1 => decVn w .nunpk
    | 2 => decVn w .next
    | 3 => decVn w .nins
    | _ => none
  | 29 =>
    match fnOf w with
    | 0 => decVa w .aidx
    | 1 => decVa w .aidxu
    | 2 => decVa w .algn
    | 3 => decVa w .adif
    | _ => none
  | 30 =>
    match fnOf w with
    | 0 => decVa w .b2a
    | 1 => decVa w .a2b
    | 2 => decVa w .aadd
    | 3 => decVa w .asub
    | _ => none
  | 32 => decLd w .ld
  | 33 => decLd w .ldv
  | 34 => decSt w .st
  | 35 => decSt w .stv
  | 36 => if bit w 8 then decLda w .ldc else decLda w .lda
  | 37 => if bit w 8 then decStr w .stc else decStr w .str
  | 38 => decAtom w .atom
  | 39 => decAtom w .atomn
  | 40 =>
    match fld w 7 4 with
    | 0 => decFence w .fence
    | 1 => decGrp w .bara
    | 2 => decGrp w .barw
    | 3 => decGrp w .bar
    | 4 => decGrp w .phadv
    | 5 => decE0 w .nop
    | _ => none
  | 41 =>
    match fnOf w with
    | 0 => decPref w .prefL1
    | 1 => decPref w .prefL2
    | 2 => decPref w .cinv
    | _ => none
  | 42 =>
    match fld w 7 4 with
    | 0 => decEsa w .tagwa
    | 1 => decEsdsa w .tagwy
    | 2 => decEsdsa w .tagff
    | 3 => decEsa w .tagclr
    | 4 => decTagrd w .tagrd
    | _ => none
  | 43 =>
    match fld w 7 4 with
    | 0 => decJpop w .jpop
    | 1 => decE0 w .jdone
    | 2 => decEsa w .jyield
    | 3 => decEsdsa w .fspawn
    | 4 => decEsaimm w .fref
    | 5 => decEsaimm w .fdrop
    | 6 => decEsa w .fwait
    | 7 => decFpoll w .fpoll
    | 8 => decE0 w .fcommit
    | 9 => decEsaimm w .evsig
    | _ => none
  | 44 =>
    match fld w 7 4 with
    | 0 => decEsdsa w .qsnd
    | 1 => decQrcv w .qrcv
    | 2 => decQpoll w .qpoll
    | _ => none
  | 45 =>
    match fld w 7 4 with
    | 0 => decRacq w .racq
    | 1 => decRrel w .rrel
    | 2 => decRqry w .rqry
    | _ => none
  | 46 =>
    match fld w 7 4 with
    | 0 => decEimm w .enter
    | 1 => decEimm w .leave
    | 2 => decEsd w .conerd
    | 3 => decEimm w .bkpt
    | 4 => decEimm w .trap
    | 5 => decEsa w .tmset
    | 6 => decE0 w .tret
    | _ => none
  | 47 =>
    match fld w 7 4 with
    | 0 => decSys w .sysr
    | 1 => decSys w .sysw
    | 2 => decTlbi w .tlbi
    | 3 => decE0 w .halt
    | 4 => decE0 w .kret
    | _ => none
  | 48 =>
    match fld w 7 4 with
    | 0 => if bit w 31 then decSimm w .saddImm else decSreg w .sadd
    | 1 => if bit w 31 then decSimm w .ssubImm else decSreg w .ssub
    | 2 => if bit w 31 then decSimm w .smulImm else decSreg w .smul
    | 3 => if bit w 31 then decSimm w .smulhImm else decSreg w .smulh
    | 4 => if bit w 31 then decSimm w .sandImm else decSreg w .sand
    | 5 => if bit w 31 then decSimm w .sorImm else decSreg w .sor
    | 6 => if bit w 31 then decSimm w .sxorImm else decSreg w .sxor
    | 7 => if bit w 31 then decSimm w .sshlImm else decSreg w .sshl
    | 8 => if bit w 31 then decSimm w .sshrImm else decSreg w .sshr
    | 9 => if bit w 31 then decSimm w .ssarImm else decSreg w .ssar
    | 10 => if bit w 31 then decSimm w .sminImm else decSreg w .smin
    | 11 => if bit w 31 then decSimm w .smaxImm else decSreg w .smax
    | 12 => if bit w 31 then decSimm w .sminuImm else decSreg w .sminu
    | 13 => if bit w 31 then decSimm w .smaxuImm else decSreg w .smaxu
    | 14 => if bit w 31 then decSimm w .sdivuImm else decSreg w .sdivu
    | 15 => need (fld w 16 5 == 0) (if bit w 31 then decSimm w .smovImm else decSreg w .smov)
    | _ => none
  | 49 =>
    match fnOf w with
    | 0 => decS16 w .smoviZ
    | 1 => decS16 w .smoviH1
    | 2 => decS16 w .smoviH2
    | 3 => decS16 w .smoviH3
    | _ => none
  | 50 => decSp w .scmp
  | 51 =>
    match fnOf w with
    | 0 => decSa w .saidx
    | 1 => decSa w .salgn
    | 2 => decSa w .sb2a
    | 3 => decSa w .sa2b
    | _ => none
  | 52 =>
    match fnOf w with
    | 0 => decRdlane w .rdlane
    | 1 => decRdfirst w .rdfirst
    | _ => none
  | 53 =>
    match fnOf w with
    | 0 => decMxs w .scacc
    | 1 => decMxs w .scaccUe4m3
    | 2 => decAccclr w .accclr
    | _ => none
  | 54 =>
    match fnOf w with
    | 0 => decAcx w .accrd
    | 1 => decAcx w .accwr
    | 2 => decPlnrd w .plnrd
    | _ => none
  | 55 =>
    match fnOf w with
    | 0 => decBrp w .brp .bra
    | 1 => decCall w .call
    | _ => none
  | 56 =>
    match fnOf w with
    | 0 => decBx w .brx
    | 1 => decBx w .callx
    | 2 => decBx0 w .ret
    | 3 => decBx0 w .exit
    | _ => none
  | 57 =>
    match fnOf w with
    | 0 => decVs w .shlImm
    | 1 => decVs w .shrImm
    | 2 => decVs w .sarImm
    | 3 => decVs w .rotImm
    | _ => none
  | 58 => if bit w 7 then decVf w .fshr else decVf w .fshl
  | 63 => decPfx w .pfx
  | _ => none

/-- A 32-bit word with bit 0 set: the instruction it encodes, if any (R71). -/
def decode32 (w : Nat) : Option Instr := (decode32Raw w).filter wellFormed

/-- A 16-bit word with bit 0 clear: every one is an instruction (R56). -/
def decode16 (w : Nat) : Option Instr :=
  match fld w 1 4 with
  | 0 => decC w .iaddC
  | 1 => decC w .isubC
  | 2 => decC w .imulC
  | 3 => decC w .andC
  | 4 => decC w .orC
  | 5 => decC w .xorC
  | 6 => decC w .shlC
  | 7 => decC w .shrC
  | 8 => decC w .iminC
  | 9 => decC w .imaxC
  | 10 => decC w .faddC
  | 11 => decC w .fsubC
  | 12 => decC w .fmulC
  | 13 => decC w .fminC
  | 14 => decC w .fmaxC
  | 15 => decC w .movC
  | _ => none

/-- The number of bytes, low byte first (R47). -/
def bytesVal : List Byte → Nat
  | [] => 0
  | b :: bs => b.toNat + 256 * bytesVal bs

/-- The instruction at the head of a list of bytes, in the order of rising addresses, and its length in bytes (R47). -/
def decode (bs : List Byte) : Except Reject (Instr × Nat) :=
  match bs with
  | b0 :: b1 :: rest =>
    if b0.toNat % 2 = 0 then
      match decode16 (bytesVal [b0, b1]) with
      | some i => .ok (i, 2)
      | none => .error (.notAnInstruction (bytesVal [b0, b1]))
    else
      match rest with
      | b2 :: b3 :: _ =>
        match decode32 (bytesVal [b0, b1, b2, b3]) with
        | some i => .ok (i, 4)
        | none => .error (.notAnInstruction (bytesVal [b0, b1, b2, b3]))
      | _ => .error .truncated
  | _ => .error .truncated

/-- The width in bits and the word of an instruction; a step of the part has none. -/
def encodeWord (i : Instr) : Option (Nat × Nat) :=
  match i with
  | .iadd o => some (32, encV 0 0 o)
  | .isub o => some (32, encV 0 1 o)
  | .imul o => some (32, encV 0 2 o)
  | .imulh o => some (32, encV 0 3 o)
  | .imin o => some (32, encV 1 0 o)
  | .imax o => some (32, encV 1 1 o)
  | .umin o => some (32, encV 1 2 o)
  | .umax o => some (32, encV 1 3 o)
  | .and o => some (32, encV 2 0 o)
  | .or o => some (32, encV 2 1 o)
  | .xor o => some (32, encV 2 2 o)
  | .andn o => some (32, encV 2 3 o)
  | .shl o => some (32, encV 3 0 o)
  | .shr o => some (32, encV 3 1 o)
  | .sar o => some (32, encV 3 2 o)
  | .rot o => some (32, encV 3 3 o)
  | .bfx o => some (32, encV 4 0 o)
  | .bfxs o => some (32, encV 4 1 o)
  | .bfi o => some (32, encV 4 2 o)
  | .popc o => some (32, encU 5 0 o)
  | .clz o => some (32, encU 5 1 o)
  | .ctz o => some (32, encU 5 2 o)
  | .brev o => some (32, encU 5 3 o)
  | .imad o => some (32, encV 6 0 o)
  | .umulh o => some (32, encV 6 1 o)
  | .idiv o => some (32, encV 6 2 o)
  | .udiv o => some (32, encV 6 3 o)
  | .lut3 o => some (32, encVt 7 o)
  | .fadd o => some (32, encV 8 0 o)
  | .fsub o => some (32, encV 8 1 o)
  | .fmul o => some (32, encV 8 2 o)
  | .ffma o => some (32, encV 8 3 o)
  | .fmin o => some (32, encV 9 0 o)
  | .fmax o => some (32, encV 9 1 o)
  | .fminn o => some (32, encV 9 2 o)
  | .fmaxn o => some (32, encV 9 3 o)
  | .frcp o => some (32, encU 10 0 o)
  | .frsq o => some (32, encU 10 1 o)
  | .fsqrt o => some (32, encU 10 2 o)
  | .fexp2 o => some (32, encU 10 3 o)
  | .flog2 o => some (32, encU 11 0 o)
  | .fsin o => some (32, encU 11 1 o)
  | .fcos o => some (32, encU 11 2 o)
  | .ftanh o => some (32, encU 11 3 o)
  | .badd2 o => some (32, encV 12 0 o)
  | .bmul2 o => some (32, encV 12 1 o)
  | .bfma2 o => some (32, encV 12 2 o)
  | .bmax2 o => some (32, encV 12 3 o)
  | .hadd2 o => some (32, encV 13 0 o)
  | .hmul2 o => some (32, encV 13 1 o)
  | .hfma2 o => some (32, encV 13 2 o)
  | .hmax2 o => some (32, encV 13 3 o)
  | .fcvt o => some (32, encCvt 14 0 o)
  | .fcvtSat o => some (32, encCvt 14 1 o)
  | .frnd o => some (32, encU 15 0 o)
  | .ffrac o => some (32, encU 15 1 o)
  | .fclass o => some (32, encU 15 2 o)
  | .fldexp o => some (32, encV 15 3 o)
  | .icmp o => some (32, encVp 16 o)
  | .fcmp o => some (32, encVp 17 o)
  | .sel o => some (32, encVsel 18 o)
  | .plop o => some (32, encPl 19 o)
  | .p2v d p => some (32, encP2v 20 0 d p)
  | .v2p p a => some (32, encV2p 20 1 p a)
  | .elect p => some (32, encElect 20 2 p)
  | .pbal d p a => some (32, encPbal 20 3 d p a)
  | .mov o => some (32, encU 21 0 o)
  | .mov64 o => some (32, encU 21 1 o)
  | .movsr d n => some (32, encMovsr 21 2 d n)
  | .movsw n a => some (32, encMovsw 21 3 n a)
  | .movil o => some (32, encVi 22 0 o)
  | .movih o => some (32, encVi 22 1 o)
  | .movis o => some (32, encVi 22 2 o)
  | .movif o => some (32, encVi 22 3 o)
  | .shflIdx o => some (32, encV 23 0 o)
  | .shflUp o => some (32, encV 23 1 o)
  | .shflDn o => some (32, encV 23 2 o)
  | .shflXor o => some (32, encV 23 3 o)
  | .xpush o => some (32, encV 24 0 o)
  | .voteAll o => some (32, encU 25 0 o)
  | .voteAny o => some (32, encU 25 1 o)
  | .voteBal o => some (32, encU 25 2 o)
  | .voteEq o => some (32, encV 25 3 o)
  | .redux o => some (32, encRed 26 0 o)
  | .scan o => some (32, encRed 26 1 o)
  | .scanX o => some (32, encRed 26 2 o)
  | .rand d => some (32, encRand 27 0 d)
  | .randf d => some (32, encRand 27 1 d)
  | .rseed a b => some (32, encRseed 27 2 a b)
  | .rskip a => some (32, encRskip 27 3 a)
  | .npack o => some (32, encVn 28 0 o)
  | .nunpk o => some (32, encVn 28 1 o)
  | .next o => some (32, encVn 28 2 o)
  | .nins o => some (32, encVn 28 3 o)
  | .aidx o => some (32, encVa 29 0 o)
  | .aidxu o => some (32, encVa 29 1 o)
  | .algn o => some (32, encVa 29 2 o)
  | .adif o => some (32, encVa 29 3 o)
  | .b2a o => some (32, encVa 30 0 o)
  | .a2b o => some (32, encVa 30 1 o)
  | .aadd o => some (32, encVa 30 2 o)
  | .asub o => some (32, encVa 30 3 o)
  | .ld o => some (32, encLd 32 o)
  | .ldv o => some (32, encLd 33 o)
  | .st o => some (32, encSt 34 o)
  | .stv o => some (32, encSt 35 o)
  | .lda o => some (32, encLda 36 0 o)
  | .ldc o => some (32, encLda 36 1 o)
  | .str o => some (32, encStr 37 0 o)
  | .stc o => some (32, encStr 37 1 o)
  | .atom o => some (32, encAtom 38 o)
  | .atomn o => some (32, encAtom 39 o)
  | .fence scope kind => some (32, encE 40 0 0 0 (scope.code + kind.code * 8))
  | .bara g => some (32, encE 40 1 0 0 (g.val))
  | .barw g => some (32, encE 40 2 0 0 (g.val))
  | .bar g => some (32, encE 40 3 0 0 (g.val))
  | .phadv g => some (32, encE 40 4 0 0 (g.val))
  | .nop => some (32, encE 40 5 0 0 0)
  | .prefL1 o => some (32, encPref 41 0 o)
  | .prefL2 o => some (32, encPref 41 1 o)
  | .cinv o => some (32, encPref 41 2 o)
  | .tagwa sa => some (32, encE 42 0 0 (sa.val) 0)
  | .tagwy sd sa => some (32, encE 42 1 (sd.val) (sa.val) 0)
  | .tagff sd sa => some (32, encE 42 2 (sd.val) (sa.val) 0)
  | .tagclr sa => some (32, encE 42 3 0 (sa.val) 0)
  | .tagrd sd tag => some (32, encE 42 4 (sd.val) 0 (tag.val))
  | .jpop sd mb => some (32, encE 43 0 (sd.val) 0 (mb.val))
  | .jdone => some (32, encE 43 1 0 0 0)
  | .jyield sa => some (32, encE 43 2 0 (sa.val) 0)
  | .fspawn sd sa => some (32, encE 43 3 (sd.val) (sa.val) 0)
  | .fref sa n => some (32, encE 43 4 0 (sa.val) (n.val))
  | .fdrop sa n => some (32, encE 43 5 0 (sa.val) (n.val))
  | .fwait sa => some (32, encE 43 6 0 (sa.val) 0)
  | .fpoll sd sa p => some (32, encE 43 7 (sd.val) (sa.val) (p.val))
  | .fcommit => some (32, encE 43 8 0 0 0)
  | .evsig sa n => some (32, encE 43 9 0 (sa.val) (n.val))
  | .qsnd sd sa => some (32, encE 44 0 (sd.val) (sa.val) 0)
  | .qrcv sd q => some (32, encE 44 1 (sd.val) 0 (q.val))
  | .qpoll sd q p => some (32, encE 44 2 (sd.val) 0 (q.val + p.val * 4))
  | .racq sd kind k => some (32, encE 45 0 (sd.val) 0 (kind.val + k.val * 4))
  | .rrel kind k => some (32, encE 45 1 0 0 (kind.val + k.val * 4))
  | .rqry sd kind => some (32, encE 45 2 (sd.val) 0 (kind.val))
  | .enter n => some (32, encE 46 0 0 0 (n.val))
  | .leave n => some (32, encE 46 1 0 0 (n.val))
  | .conerd sd => some (32, encE 46 2 (sd.val) 0 0)
  | .bkpt n => some (32, encE 46 3 0 0 (n.val))
  | .trap n => some (32, encE 46 4 0 0 (n.val))
  | .tmset sa => some (32, encE 46 5 0 (sa.val) 0)
  | .tret => some (32, encE 46 6 0 0 0)
  | .sysr sd sa n => some (32, encE 47 0 (sd.val) (sa.val) (n.val))
  | .sysw sd sa n => some (32, encE 47 1 (sd.val) (sa.val) (n.val))
  | .tlbi sa kind => some (32, encE 47 2 0 (sa.val) (kind.val))
  | .halt => some (32, encE 47 3 0 0 0)
  | .kret => some (32, encE 47 4 0 0 0)
  | .sadd o => some (32, encSreg 48 0 o)
  | .saddImm o => some (32, encSimm 48 0 o)
  | .ssub o => some (32, encSreg 48 1 o)
  | .ssubImm o => some (32, encSimm 48 1 o)
  | .smul o => some (32, encSreg 48 2 o)
  | .smulImm o => some (32, encSimm 48 2 o)
  | .smulh o => some (32, encSreg 48 3 o)
  | .smulhImm o => some (32, encSimm 48 3 o)
  | .sand o => some (32, encSreg 48 4 o)
  | .sandImm o => some (32, encSimm 48 4 o)
  | .sor o => some (32, encSreg 48 5 o)
  | .sorImm o => some (32, encSimm 48 5 o)
  | .sxor o => some (32, encSreg 48 6 o)
  | .sxorImm o => some (32, encSimm 48 6 o)
  | .sshl o => some (32, encSreg 48 7 o)
  | .sshlImm o => some (32, encSimm 48 7 o)
  | .sshr o => some (32, encSreg 48 8 o)
  | .sshrImm o => some (32, encSimm 48 8 o)
  | .ssar o => some (32, encSreg 48 9 o)
  | .ssarImm o => some (32, encSimm 48 9 o)
  | .smin o => some (32, encSreg 48 10 o)
  | .sminImm o => some (32, encSimm 48 10 o)
  | .smax o => some (32, encSreg 48 11 o)
  | .smaxImm o => some (32, encSimm 48 11 o)
  | .sminu o => some (32, encSreg 48 12 o)
  | .sminuImm o => some (32, encSimm 48 12 o)
  | .smaxu o => some (32, encSreg 48 13 o)
  | .smaxuImm o => some (32, encSimm 48 13 o)
  | .sdivu o => some (32, encSreg 48 14 o)
  | .sdivuImm o => some (32, encSimm 48 14 o)
  | .smov o => some (32, encSreg 48 15 o)
  | .smovImm o => some (32, encSimm 48 15 o)
  | .smoviZ sd imm => some (32, encS16 49 0 sd imm)
  | .smoviH1 sd imm => some (32, encS16 49 1 sd imm)
  | .smoviH2 sd imm => some (32, encS16 49 2 sd imm)
  | .smoviH3 sd imm => some (32, encS16 49 3 sd imm)
  | .scmp o => some (32, encSp 50 o)
  | .saidx o => some (32, encSa 51 0 o)
  | .salgn o => some (32, encSa 51 1 o)
  | .sb2a o => some (32, encSa 51 2 o)
  | .sa2b o => some (32, encSa 51 3 o)
  | .rdlane sd a lane => some (32, encRdlane 52 0 sd a lane.val)
  | .rdfirst sd a => some (32, encRdlane 52 1 sd a 0)
  | .scacc o => some (32, encMxs 53 0 o)
  | .scaccUe4m3 o => some (32, encMxs 53 1 o)
  | .accclr ac band => some (32, encAccclr 53 2 ac band)
  | .accrd o => some (32, encAcx 54 0 o)
  | .accwr o => some (32, encAcx 54 1 o)
  | .plnrd o => some (32, encPlnrd 54 2 o)
  | .brp p neg off => some (32, encBr 55 0 p.val neg off)
  | .bra off => some (32, encBr 55 0 63 false off)
  | .call off => some (32, encBr 55 1 63 false off)
  | .brx a => some (32, encBx 56 0 a)
  | .callx a => some (32, encBx 56 1 a)
  | .ret => some (32, base 56 2)
  | .exit => some (32, base 56 3)
  | .shlImm o => some (32, encVs 57 0 o)
  | .shrImm o => some (32, encVs 57 1 o)
  | .sarImm o => some (32, encVs 57 2 o)
  | .rotImm o => some (32, encVs 57 3 o)
  | .fshl o => some (32, encVf 58 0 o)
  | .fshr o => some (32, encVf 58 1 o)
  | .pfx o => some (32, encPfx o)
  | .iaddC o => some (16, encC 0 o)
  | .isubC o => some (16, encC 1 o)
  | .imulC o => some (16, encC 2 o)
  | .andC o => some (16, encC 3 o)
  | .orC o => some (16, encC 4 o)
  | .xorC o => some (16, encC 5 o)
  | .shlC o => some (16, encC 6 o)
  | .shrC o => some (16, encC 7 o)
  | .iminC o => some (16, encC 8 o)
  | .imaxC o => some (16, encC 9 o)
  | .faddC o => some (16, encC 10 o)
  | .fsubC o => some (16, encC 11 o)
  | .fmulC o => some (16, encC 12 o)
  | .fminC o => some (16, encC 13 o)
  | .fmaxC o => some (16, encC 14 o)
  | .movC o => some (16, encC 15 o)
  | .issueOpportunity _ _ => none
  | .ageEscape _ => none
  | .userTimerExpiry _ => none
  | .icacheLineFill _ _ => none
  | .loadReply _ => none
  | .storeAtHome _ => none
  | .atomicAtHome _ => none
  | .uncorrectableRead _ _ => none
  | .pageWalkComplete _ => none
  | .faultBufferEntry _ => none
  | .faultReplay _ _ => none
  | .deferredFaultDelivery _ => none
  | .racqGrant _ => none
  | .rrelFree _ => none
  | .jobPop _ _ => none
  | .barrierComplete _ => none
  | .phaseAdvance _ => none
  | .phaseValueArrival _ _ _ => none
  | .queueMessageArrival _ => none
  | .queueNack _ => none
  | .queueBackoffResend _ => none
  | .queueAck _ => none
  | .scaccPerform _ => none
  | .goAccept _ _ => none
  | .engineCommandComplete _ => none
  | .copy _ => none
  | .fill _ => none
  | .qfence _ => none
  | .pinl2 _ => none
  | .unpin _ => none
  | .bcol _ => none
  | .accout _ => none
  | .matrixAcc _ => none
  | .matrixPlane _ => none
  | .matrixAccClear _ => none
  | .matrixBlockStep _ => none
  | .gather _ => none
  | .nred _ => none
  | .bcast _ => none
  | .collectiveTimeout _ => none
  | .eventRequestArrival _ => none
  | .mailboxPush _ => none
  | .kilnRemoteRequest _ => none
  | .kilnRemoteAnswer _ => none
  | .tile _ => none
  | .waitev _ => none
  | .sigev _ => none
  | .jump _ => none
  | .loop _ => none
  | .kopFence _ => none
  | .yield _ => none
  | .hostsig _ => none
  | .pin _ => none
  | .kopUnpin _ => none
  | .prefetch _ => none
  | .drop _ => none
  | .endStream _ => none
  | .streamRun _ => none
  | .streamStop _ => none
  | .klnSpcWrite _ _ => none
  | .klnSloopWrite _ _ => none
  | .klnSsaveWrite _ _ => none
  | .klnEvFreeWrite _ _ => none
  | .klnPreempt _ => none
  | .preemptAutomatic _ => none
  | .drainStepAdvance _ => none
  | .drainTimeout _ => none
  | .streamResume _ => none
  | .restoreVerify _ => none
  | .registerWrite _ => none
  | .blkctlContinue _ _ => none
  | .blkctlDiscard _ _ => none
  | .memOwnerWrite _ _ => none
  | .klnWake _ => none
  | .tlbiComplete _ => none
  | .dbgStop _ _ => none
  | .traceSample _ => none
  | .coneTick => none
  | .coneEpochAlert => none
  | .conePhysStop => none
  | .conePhysWrite _ => none
  | .hbmSlotServe _ => none
  | .hbmRefresh _ => none
  | .ualinkPacketReceive _ => none
  | .ualinkCrcError _ _ => none
  | .linkTraining _ _ => none
  | .linkDown _ => none
  | .bar2Access _ => none
  | .hoh2dReleased _ => none
  | .hoh2dGiveRequest _ => none
  | .msixUnmask _ _ => none
  | .functionLevelReset _ => none
  | .flrCommandTimeout _ => none
  | .partitionEnable _ _ => none
  | .secSvnWrite _ => none
  | .capFrame _ => none
  | .capExpiry _ => none
  | .partitionDutyWindow _ => none
  | .thermalLimit _ => none
  | .bringUp _ => none
  | .spdmRequest _ => none
  | .encodingNotAnInstruction => none
  | .badkop _ => none
  | .operatorWordFetchFault _ => none
  | .engineSourceReply _ => none

/-- The low `n` bytes of a number, low byte first (R47). -/
def toBytes : Nat → Nat → List Byte
  | 0, _ => []
  | n + 1, w => BitVec.ofNat 8 w :: toBytes n (w / 256)

/-- The bytes of an instruction in the order of rising addresses. -/
def encode (i : Instr) : List Byte :=
  match encodeWord i with
  | some (n, w) => toBytes (n / 8) w
  | none => []

/-- What the decoder reads from an instruction whose bits are `w`, laid out as the N9 stores it (R47): low halfword
first, and zero above `nbits`. -/
def decodeTableWord (nbits w : Nat) : Option Instr :=
  match decode (toBytes 4 (w % 2 ^ nbits)) with
  | .ok (i, _) => some i
  | .error _ => none

end Sys2Proof
end

