-- ==== Sys2Proof/Machine/Crypto.lean ====
section
/-!
DEFINITION. Sys2Proof/Machine/Crypto.lean: the algorithms that R277 to R280 name: AES-256 in XTS mode, SHA3-512 and KMAC-256,
over numbers and bytes. The spec gives their names alone; they are as their public standards define them (log 7).
-/

namespace Sys2Proof.Machine
open Sys2Proof

/-- Bytes of a number, low byte first. -/
def leBytes : Nat → Nat → List Nat
  | 0, _ => []
  | n + 1, x => x % 256 :: leBytes n (x / 256)

/-- Bytes, low byte first, as a number. -/
def leNat : List Nat → Nat
  | [] => 0
  | b :: r => b + 256 * leNat r

/-- An entry of a list of numbers; 0 past its end. -/
def nth (l : List Nat) (i : Nat) : Nat := (l[i]?).getD 0

/-! ## AES-256 -/

/-- The substitution box, entry 0 in the lowest byte. -/
def sboxWord : Nat :=
  0x16bb54b00f2d99416842e6bf0d89a18cdf2855cee9871e9b948ed9691198f8e1 * 2 ^ 1792 +
  0x9e1dc186b95735610ef6034866b53e708a8bbd4b1f74dde8c6b4a61c2e2578ba * 2 ^ 1536 +
  0x08ae7a65eaf4566ca94ed58d6d37c8e779e4959162acd3c25c2406490a3a32e0 * 2 ^ 1280 +
  0xdb0b5ede14b8ee4688902a22dc4f816073195d643d7ea7c41744975fec130ccd * 2 ^ 1024 +
  0xd2f3ff1021dab6bcf5389d928f40a351a89f3c507f02f94585334d43fbaaefd0 * 2 ^ 768 +
  0xcf584c4a39becb6a5bb1fc20ed00d153842fe329b3d63b52a05a6e1b1a2c8309 * 2 ^ 512 +
  0x75b227ebe28012079a059618c323c7041531d871f1e5a534ccf73f362693fdb7 * 2 ^ 256 +
  0xc072a49cafa2d4adf04759fa7dc982ca76abd7fe2b670130c56f6bf27b777c63 * 2 ^ 0

/-- Its inverse. -/
def unboxWord : Nat :=
  0x7d0c2155631469e126d677ba7e042b17619953833cbbebc8b0f52aae4d3be0a0 * 2 ^ 1792 +
  0xef9cc9939f7ae52d0d4ab519a97f51605fec8027591012b131c7078833a8dd1f * 2 ^ 1536 +
  0xf45acd78fec0db9a2079d2c64b3e56fc1bbe18aa0e62b76f89c5291d711af147 * 2 ^ 1280 +
  0x6edf751ce837f9e28535ade72274ac9673e6b4f0cecff297eadc674f4111913a * 2 ^ 1024 +
  0x6b8a130103bdafc1020f3fca8f1e2cd00645b3b80558e4f70ad3bc8c00abd890 * 2 ^ 768 +
  0x849d8da75746155edab9edfd5048706c92b6655dcc5ca4d41698688664f6f872 * 2 ^ 512 +
  0x25d18b6d49a25b76b224d92866a12e084ec3fa420b954cee3d23c2a632947b54 * 2 ^ 256 +
  0xcbe9dec444438e3487ff2f9b8239e37cfbd7f3819ea340bf38a53630d56a0952 * 2 ^ 0

def subByte (b : Nat) : Nat := sboxWord / 2 ^ (8 * b) % 256
def unsubByte (b : Nat) : Nat := unboxWord / 2 ^ (8 * b) % 256

/-- A byte times x in the field of AES. -/
def xtime (b : Nat) : Nat := if b < 128 then 2 * b else (2 * b) ^^^ 0x11B

/-- A product in that field, by a factor below 16. -/
def gmul (k b : Nat) : Nat :=
  let b2 := xtime b
  let b4 := xtime b2
  let b8 := xtime b4
  (if k % 2 = 1 then b else 0) ^^^ (if k / 2 % 2 = 1 then b2 else 0) ^^^ (if k / 4 % 2 = 1 then b4 else 0)
    ^^^ (if k / 8 % 2 = 1 then b8 else 0)

/-- Two blocks of bytes added. -/
def xorBytes (a b : List Nat) : List Nat := List.zipWith (· ^^^ ·) a b

/-- The rows of a block turned, by a step of columns for each row. -/
def turnRows (step : Nat) (b : List Nat) : List Nat :=
  (List.range 16).map fun i => nth b (i % 4 + 4 * ((i / 4 + step * (i % 4)) % 4))

/-- Each column of a block multiplied by a circulant matrix, given by its first row. -/
def mixColumns (k : List Nat) (b : List Nat) : List Nat :=
  (List.range 16).map fun i =>
    (List.range 4).foldl (fun n j => n ^^^ gmul (nth k ((j + 4 - i % 4) % 4)) (nth b (i / 4 * 4 + j))) 0

/-- The words of the key schedule of AES-256 from the eight words before them, newest first; `i` is the number of the next. -/
def keyWords : Nat → Nat → Nat → List (List Nat) → List (List Nat)
  | 0, _, _, ws => ws
  | n + 1, i, rcon, ws =>
    let last := (ws[0]?).getD []
    let t := if i % 8 = 0 then
        xorBytes ((last.drop 1 ++ last.take 1).map subByte) [rcon, 0, 0, 0]
      else if i % 8 = 4 then last.map subByte
      else last
    keyWords n (i + 1) (if i % 8 = 0 then xtime rcon else rcon) (xorBytes ((ws[7]?).getD []) t :: ws)

/-- The fifteen round keys of a key of 32 bytes. -/
def roundKeys (key : List Nat) : List (List Nat) :=
  let first := ((List.range 8).map fun i => (key.drop (4 * i)).take 4).reverse
  let ws := (keyWords 52 8 1 first).reverse
  (List.range 15).map fun r => ((ws.drop (4 * r)).take 4).flatten

/-- The rounds of encryption that remain. -/
def encRounds : List (List Nat) → List Nat → List Nat
  | [], b => b
  | [k], b => xorBytes (turnRows 1 (b.map subByte)) k
  | k :: r, b => encRounds r (xorBytes (mixColumns [2, 3, 1, 1] (turnRows 1 (b.map subByte))) k)

/-- A block of 16 bytes under a key of 32. -/
def aesEncrypt (key b : List Nat) : List Nat :=
  match roundKeys key with
  | [] => b
  | k :: r => encRounds r (xorBytes b k)

/-- The rounds of decryption that remain: the last round key has gone. -/
def decRounds : List (List Nat) → List Nat → List Nat
  | [], b => b
  | [k], b => xorBytes ((turnRows 3 b).map unsubByte) k
  | k :: r, b => decRounds r (mixColumns [14, 11, 13, 9] (xorBytes ((turnRows 3 b).map unsubByte) k))

def aesDecrypt (key b : List Nat) : List Nat :=
  match (roundKeys key).reverse with
  | [] => b
  | k :: r => decRounds r (xorBytes b k)

/-! ## XTS -/

/-- The next tweak of a data unit. -/
def nextTweak (t : Nat) : Nat := if t < 2 ^ 127 then 2 * t else (2 * t % 2 ^ 128) ^^^ 0x87

/-- The blocks of 16 bytes of a data unit, each between two additions of its tweak. -/
def xtsBlocks (f : List Nat → List Nat) : Nat → Nat → Nat → Nat
  | 0, _, _ => 0
  | n + 1, t, x =>
    (leNat (f (leBytes 16 (x % 2 ^ 128 ^^^ t))) ^^^ t) + 2 ^ 128 * xtsBlocks f n (nextTweak t) (x / 2 ^ 128)

/-- The first tweak of a unit: its number, encrypted under the second key. -/
def firstTweak (key tweak : Nat) : Nat := leNat (aesEncrypt (leBytes 32 (key / 2 ^ 256)) (leBytes 16 tweak))

/-- A unit of 512 bits encrypted under a pair of keys, the data key in the low 256 bits (R277). -/
@[irreducible] def xtsEncrypt (key tweak x : Nat) : Nat := xtsBlocks (aesEncrypt (leBytes 32 key)) 4 (firstTweak key tweak) x

@[irreducible] def xtsDecrypt (key tweak x : Nat) : Nat := xtsBlocks (aesDecrypt (leBytes 32 key)) 4 (firstTweak key tweak) x

/-! ## Keccak -/

/-- A word of 64 bits turned left. -/
def rotl (x k : Nat) : Nat := (x * 2 ^ k % 2 ^ 64) + x / 2 ^ (64 - k)

def rotations : List Nat := [0, 1, 62, 28, 27, 36, 44, 6, 55, 20, 3, 10, 43, 25, 39, 41, 45, 15, 21, 8, 18, 2, 61, 56, 14]

def roundConstants : List Nat :=
  [0x1, 0x8082, 0x800000000000808a, 0x8000000080008000, 0x808b, 0x80000001, 0x8000000080008081, 0x8000000000008009]
  ++ [0x8a, 0x88, 0x80008009, 0x8000000a, 0x8000808b, 0x800000000000008b, 0x8000000000008089, 0x8000000000008003]
  ++ [0x8000000000008002, 0x8000000000000080, 0x800a, 0x800000008000000a, 0x8000000080008081, 0x8000000000008080, 0x80000001, 0x8000000080008008]

/-- One round of Keccak-f[1600] on 25 lanes, lane x + 5y at its place. -/
def keccakRound (a : List Nat) (rc : Nat) : List Nat :=
  let c := (List.range 5).map fun x => (List.range 5).foldl (fun n y => n ^^^ nth a (x + 5 * y)) 0
  let d := (List.range 5).map fun x => nth c ((x + 4) % 5) ^^^ rotl (nth c ((x + 1) % 5)) 1
  let a := (List.range 25).map fun i => rotl (nth a i ^^^ nth d (i % 5)) (nth rotations i)
  let b := (List.range 25).map fun i => nth a ((i % 5 + 3 * (i / 5)) % 5 + 5 * (i % 5))
  (List.range 25).map fun i =>
    let x := i % 5
    let y := 5 * (i / 5)
    nth b i ^^^ ((2 ^ 64 - 1 - nth b ((x + 1) % 5 + y)) &&& nth b ((x + 2) % 5 + y)) ^^^ (if i = 0 then rc else 0)

def keccak (a : List Nat) : List Nat := roundConstants.foldl keccakRound a

/-- Lanes of 8 bytes. -/
def lanesOf (l : List Nat) : Nat → List Nat
  | 0 => []
  | n + 1 => leNat (l.take 8) :: lanesOf (l.drop 8) n

/-- The blocks of a padded message absorbed, `rate` bytes each. -/
def absorb (rate : Nat) : Nat → List Nat → List Nat → List Nat
  | 0, _, a => a
  | n + 1, msg, a => absorb rate n (msg.drop rate) (keccak (xorBytes a (lanesOf (msg.take rate) 25)))

/-- A message with its suffix and padding, filled up to whole blocks. -/
def padTo (rate suffix : Nat) (msg : List Nat) : List Nat :=
  let n := rate - msg.length % rate
  if n = 1 then msg ++ [suffix + 128] else msg ++ [suffix] ++ List.replicate (n - 2) 0 ++ [128]

/-- The first bytes that a sponge of a rate gives for a message; no more than one block is drawn. -/
def sponge (rate suffix out : Nat) (msg : List Nat) : List Nat :=
  let p := padTo rate suffix msg
  ((absorb rate (p.length / rate) p (List.replicate 25 0)).flatMap (leBytes 8)).take out

/-- SHA3-512, 64 bytes. -/
def sha3 (msg : List Nat) : List Nat := sponge 72 0x06 64 msg

/-- The SHA3-512 digest of bytes, its first byte lowest (R279). -/
@[irreducible] def digest (l : List Byte) : BitVec 512 := BitVec.ofNat 512 (leNat (sha3 (l.map BitVec.toNat)))

/-! ## KMAC-256 -/

/-- The bytes of a number, high byte first, as few as hold it. -/
def beShort : Nat → Nat → List Nat
  | 0, _ => []
  | n + 1, x => if x < 256 then [x] else beShort n (x / 256) ++ [x % 256]

def leftEncode (x : Nat) : List Nat := (beShort 8 x).length :: beShort 8 x
def rightEncode (x : Nat) : List Nat := beShort 8 x ++ [(beShort 8 x).length]
def encodeString (l : List Nat) : List Nat := leftEncode (8 * l.length) ++ l

/-- Bytes behind their block length, filled up to whole blocks. -/
def bytePad (l : List Nat) (w : Nat) : List Nat :=
  let z := leftEncode w ++ l
  z ++ List.replicate ((w - z.length % w) % w) 0

/-- KMAC-256 of a message under a key, with a customisation string, `out` bytes. -/
def kmacBytes (key msg custom : List Nat) (out : Nat) : List Nat :=
  sponge 136 0x04 out (bytePad (encodeString [0x4B, 0x4D, 0x41, 0x43] ++ encodeString custom) 136
    ++ bytePad (encodeString key) 136 ++ msg ++ rightEncode (8 * out))

/-- A 256-bit tag, its first byte lowest, under a 256-bit key, its low byte first, with no customisation string. -/
@[irreducible] def kmac (key : BitVec 256) (msg : List Byte) : BitVec 256 :=
  BitVec.ofNat 256 (leNat (kmacBytes (leBytes 32 key.toNat) (msg.map BitVec.toNat) [] 32))

end Sys2Proof.Machine
end

