-- ==== Sys2Proof/Machine/Home.lean ====
section
/-!
DEFINITION. Sys2Proof/Machine/Home.lean: what stands at the home of an access: lines and sectors (R127), the contents of L2 (R14,
R127 to R129), memory under the keys of partitions (R277), reading and writing at a home (R120, R121), and the device's own
records (R243, R255, R263).
-/

namespace Sys2Proof.Machine
open Sys2Proof

/-! ## Lines, sectors and units -/

/-- The line of a physical address: its number over all spaces. -/
def lineOf (p : PAddr) : Nat := p.key / 128
/-- The sector of a physical address. -/
def sectorOf (p : PAddr) : Nat := p.key / 32

/-- The slice that holds a line (R128): n is the line number within its class. -/
def l2Slice (cls a : Nat) : Nat :=
  let n := a / 1024
  let g := (List.range 9).foldl (fun g k => g ^^^ fld n (5 * k) 5) 0
  32 * ((n + cls) % 3) + g

/-- The sectors that a piece touches. -/
def sectorsOf (p : Piece) : List Nat :=
  (List.range ((p.pa.bit % 256 + p.width + 255) / 256)).map fun k => sectorOf p.pa + k

/-- The aligned 512-bit units that a piece touches (R277). -/
def unitsOf (p : Piece) : List Nat :=
  (List.range ((p.pa.bit % 512 + p.width + 511) / 512)).map fun k => p.pa.key / 64 + k

/-! ## L2 contents (R128) -/

/-- The bits of a line that the slice holds. -/
def l2Bits (c : Chip) (line : Nat) : Nat := ((sget c.l2 line).map BitVec.toNat).getD 0

/-- A window of a line is held whole. -/
def l2Has (c : Chip) (line off n : Nat) : Bool := fld (l2Bits c line) off n == 2 ^ n - 1

/-- The slice of a line, by its number over all spaces. -/
def sliceOfLine (line : Nat) : Nat := l2Slice (line / 2 ^ 43) (line % 2 ^ 43 * 1024)

/-- The lines of a slice: 32 MiB (R14). -/
def sliceLines : Nat := 262144

/-- A list without its last member that may go. -/
def dropLast (keep : Nat → Bool) (l : List Nat) : List Nat × Option Nat :=
  match l.reverse.find? fun n => !keep n with
  | some n => (l.filter (· != n), some n)
  | none => (l, none)

/-- A line takes its place in its slice; a full slice gives up the line that is first for eviction and not pinned (R14, R129;
log 12). -/
def l2Claim (c : Chip) (line : Nat) : Chip :=
  let s := sliceOfLine line
  let age := (sget c.l2Age s).getD []
  if age.contains line then c
  else if age.length < sliceLines then { c with l2Age := sput c.l2Age s (line :: age) }
  else
    match dropLast c.pinned.contains age with
    | (rest, some old) => { c with l2 := sdel c.l2 old, l2Age := sput c.l2Age s (line :: rest) }
    | (_, none) => { c with l2Age := sput c.l2Age s (line :: age) }

/-- A window of a line becomes valid. -/
def l2Fill (c : Chip) (line off n : Nat) : Chip :=
  let c := l2Claim c line
  { c with l2 := sput c.l2 line (BitVec.ofNat 1024 (l2Bits c line ||| (2 ^ n - 1) * 2 ^ off)) }

/-- A line is first for eviction in its slice (R127). -/
def l2Last (c : Chip) (line : Nat) : Chip :=
  let s := sliceOfLine line
  let age := (sget c.l2Age s).getD []
  if age.contains line then { c with l2Age := sput c.l2Age s (age.filter (· != line) ++ [line]) } else c

/-! ## Keys (R277) -/

/-- The key under which a partition's ENC pages are written, and no key for other pages (R277). -/
def keyOf (c : Chip) (enc : Bool) (part : Nat) : Option Nat := if enc then sget c.keys part else none

/-- SRAM holds plaintext (R277). -/
def Space.isSram (s : Space) : Bool :=
  match s with
  | .spad _ | .bsram _ => true
  | _ => false

/-- The bits of a 512-bit unit that L2 holds. -/
def unitHeld (c : Chip) (u : Nat) : Nat := fld (l2Bits c (u / 2)) (u % 2 * 512) 512

/-- The key under which an access sees a unit: L2 holds plaintext, as the access that brought the unit's first bits into it saw
it; the memory controller takes the access's own key (R277). -/
def viewKey (c : Chip) (l2 enc : Bool) (part u : Nat) : Option Nat :=
  if l2 && unitHeld c u != 0 then (sget c.l2View u).getD (keyOf c enc part) else keyOf c enc part

/-- The key under which a 128-bit block of a unit was last written. XTS enciphers each block by itself. -/
def writtenUnder (c : Chip) (u j : Nat) : Option Nat := (sget c.blockKeys (4 * u + j)).getD (sget c.keyed u)

/-- Every block of a unit was last written under a key. -/
def unitUnder (c : Chip) (u : Nat) (key : Option Nat) : Bool := (List.range 4).all fun j => writtenUnder c u j == key

/-- A piece's units were last written under the key with which an access sees them. -/
def sameKey (c : Chip) (l2 enc : Bool) (part : Nat) (p : Piece) : Bool :=
  p.pa.space.isSram || (unitsOf p).all fun u => unitUnder c u (viewKey c l2 enc part u)

/-- A unit as memory holds it: each block enciphered under the key with which it was written (R277). -/
def storedUnit (m : Memory) (c : Chip) (u : Nat) : Nat :=
  let x := peekBytes m c 64 (u * 64)
  (List.range 4).foldl (fun n j =>
    let y := match writtenUnder c u j with
      | some k => xtsEncrypt (Config.saggarKey k).toNat (u % 2 ^ 44) x
      | none => x
    n + fld y (128 * j) 128 * 2 ^ (128 * j)) 0

/-- A unit as it is seen under a key, where it was written under another: memory holds it encrypted (R277). -/
def seenUnit (m : Memory) (c : Chip) (key : Option Nat) (u : Nat) : Nat :=
  if unitUnder c u key then peekBytes m c 64 (u * 64)
  else
    match key with
    | some k => xtsDecrypt (Config.saggarKey k).toNat (u % 2 ^ 44) (storedUnit m c u)
    | none => storedUnit m c u

/-- A piece's bits at its home, through L2 or not (R277). -/
def homeRead (m : Memory) (c : Chip) (l2 enc : Bool) (part : Nat) (p : Piece) : Nat :=
  if sameKey c l2 enc part p then readBits m c p.pa p.width
  else
    fld ((unitsOf p).foldr (fun u n => seenUnit m c (viewKey c l2 enc part u) u + 2 ^ 512 * n) 0) (p.pa.bit % 512) p.width

/-- What a write of SRAM replaces is kept for the reads of the array's schedule (R158, R195). -/
def noteSram (m : Memory) (c : Chip) (p : Piece) : Chip :=
  if p.pa.space.isSram then
    { c with sramPast := (c.cycle, p.pa, p.width, readBits m c p.pa p.width) :: c.sramPast.filter fun e => decide (c.cycle ≤ e.1 + 20) }
  else c

/-- A piece written at its home under a bit mask (R120, R121). A unit held under another key is written whole, as the access
sees it (R277). -/
def homeWrite (m : Memory) (c : Chip) (l2 enc : Bool) (part : Nat) (p : Piece) (v : Nat) : Chip :=
  let c := noteSram m c p
  let c := (if p.pa.space.isSram then [] else unitsOf p).foldl (fun c u =>
    let key := viewKey c l2 enc part u
    if unitUnder c u key then c
    else
      let c := { c with wlog := c.wlog ++ byteWrites 64 (u * 64) (2 ^ 512 - 1) (seenUnit m c key u) }
      { c with
        keyed := match key with
          | some k => sput c.keyed u k
          | none => sdel c.keyed u,
        blockKeys := (List.range 4).foldl (fun l j => sdel l (4 * u + j)) c.blockKeys }) c
  writeBits c p.pa p.width v

/-- An access through L2 brings units into it as it sees them (R277). -/
def noteView (c : Chip) (enc : Bool) (part : Nat) (us : List Nat) : Chip :=
  us.foldl (fun c u => if unitHeld c u = 0 then { c with l2View := sput c.l2View u (keyOf c enc part) } else c) c

/-! ## Physical addresses of the device's own accesses -/

/-- A physical HBM bit address. -/
def hbmAt (a : Nat) : PAddr := ⟨.hbm, a⟩

/-- A block of a unit has been written under a key. -/
def putBlockKey (c : Chip) (u j : Nat) (key : Option Nat) : Chip :=
  if writtenUnder c u j = key then c else { c with blockKeys := sput c.blockKeys (4 * u + j) key }

/-- A write of records performed by the device itself, as class HBM with HOME = 00 and no ENC (R243): through its slice of L2, where
its bits are valid (R128), under no key of a partition where L2 holds nothing of the unit (R277); it clears the poison of the
sectors that it covers whole (R254). Records start at multiples of 128 bits. -/
def hbmWrite (c : Chip) (a n v : Nat) : Chip :=
  let p : Piece := { t := 0, pos := 0, pa := hbmAt a, width := n }
  let c := noteView c false 0 (unitsOf p)
  let c := (List.range ((n + 127) / 128)).foldl (fun c i =>
    let b := a / 128 + i
    putBlockKey c (b / 4) (b % 4) (viewKey c true false 0 (b / 4))) c
  let c := (List.range ((a % 1024 + n + 1023) / 1024)).foldl (fun c i =>
    let lo := max a ((a / 1024 + i) * 1024)
    let hi := min (a + n) ((a / 1024 + i + 1) * 1024)
    l2Fill c (lineOf (hbmAt lo)) (lo % 1024) (hi - lo)) (writeBits c (hbmAt a) n v)
  { c with poison := sfilter (fun s _ => !(decide (a ≤ 256 * s) && decide (256 * s + 256 ≤ a + n))) c.poison }

end Sys2Proof.Machine
end

