-- ==== Sys2Proof/Machine/Ops.lean ====
section
/-!
DEFINITION. Sys2Proof/Machine/Ops.lean: the named operations over the state that every meaning uses: warps, cores and
registers, device registers and the group table, the agenda and the release queue, stamps, log and trace records,
clause headers and the frontier, and the taking of an exception and the return from it (R240 to R246).
-/

namespace Sys2Proof.Machine
open Sys2Proof

/-! ## Warps and cores -/

/-- The warp at a residency slot of the chip, if one is resident. -/
def warp? (c : Chip) (w : Nat) : Option Warp := sget c.warps w

/-- The warp at a residency slot; a blank one where none is resident. -/
def warpAt (c : Chip) (w : Nat) : Warp := (sget c.warps w).getD Warp.blank

/-- The chip with a resident warp changed; no change where none is resident. -/
def modWarp (c : Chip) (w : Nat) (f : Warp → Warp) : Chip :=
  match sget c.warps w with
  | some x => { c with warps := sput c.warps w (f x) }
  | none => c

/-- A core. -/
def coreAt (c : Chip) (k : Nat) : Core := (sget c.cores k).getD Core.blank

/-- The chip with a core changed. -/
def modCore (c : Chip) (k : Nat) (f : Core → Core) : Chip := { c with cores := sput c.cores k (f (coreAt c k)) }

/-- The core of a residency slot of the chip (R11, R20). -/
def coreOf (w : Nat) : Nat := w / 128
/-- WARP: 4 x slice + residency slot (R20). -/
def slotOf (w : Nat) : Nat := w % 128
/-- SLICE (R20). -/
def sliceOf (w : Nat) : Nat := w % 128 / 4

/-- A slice of a core. -/
def sliceAt (c : Chip) (core k : Nat) : Slice := (sget (coreAt c core).slices k).getD {}

def modSlice (c : Chip) (core k : Nat) (f : Slice → Slice) : Chip :=
  modCore c core fun x => { x with slices := sput x.slices k (f ((sget x.slices k).getD {})) }

/-- The resident warps of a core, by residency slot of the chip. -/
def warpsOfCore (c : Chip) (k : Nat) : List Nat := (c.warps.filter fun e => coreOf e.1 == k).map (·.1)

/-- The warps of worker block g on a core. -/
def warpsOfBlock (c : Chip) (core : Nat) (g : Fin 256) : List Nat :=
  (c.warps.filter fun e => coreOf e.1 == core && decide (e.2.block = some g)).map (·.1)

/-! ## Registers -/

/-- Bit t of a mask of threads. -/
def lane (x : BitVec 32) (t : Fin 32) : Bool := x.getLsbD t.val

/-- Thread t's value of vn; an unmapped register reads 0 (R34). -/
def vread (w : Warp) (n : Nat) (t : Fin 32) : W32 :=
  match sget w.v n with
  | some r => r[t.val]
  | none => 0

/-- vn written in the threads of a mask; a first write maps it, and the other threads of a new register read 0 (R34). -/
def vwrite (w : Warp) (n : Nat) (mask : BitVec 32) (f : Fin 32 → W32) : Warp :=
  { w with v := sput w.v n (Vector.ofFn fun t => if lane mask t then f t else vread w n t) }

/-- The mapping of vn freed (R34). -/
def vfree (w : Warp) (n : Nat) : Warp := { w with v := sdel w.v n }

/-- A scalar register; s0 reads as zero (R5). -/
def sread (w : Warp) (n : SReg) : W64 := if n.val = 0 then 0 else w.s[n.val]

/-- A scalar register written; a write to s0 is discarded (R5, R66). -/
def swrite (w : Warp) (n : SReg) (x : W64) : Warp := if n.val = 0 then w else { w with s := w.s.set n.val x }

/-- Thread t's predicate; pt is true (R5). -/
def pread (w : Warp) (p : PSrc) (t : Fin 32) : Bool :=
  match p with
  | .p n => lane w.p[n.val] t
  | .pt => true

/-- A mask of threads from a test. -/
def maskOf (f : Fin 32 → Bool) : BitVec 32 :=
  (List.finRange 32).foldl (fun acc t => if f t then acc ||| BitVec.ofNat 32 (2 ^ t.val) else acc) 0

/-- pn written in the threads of a mask. -/
def pwrite (w : Warp) (n : PReg) (mask : BitVec 32) (f : Fin 32 → Bool) : Warp :=
  { w with p := w.p.set n.val ((w.p[n.val] &&& ~~~mask) ||| (maskOf f &&& mask)) }

/-- The number of threads in a mask. -/
def popCount (x : BitVec 32) : Nat := (List.range 32).foldl (fun n i => if x.getLsbD i then n + 1 else n) 0

/-- The lowest-numbered thread of a mask. -/
def lowest (x : BitVec 32) : Option (Fin 32) := (List.finRange 32).find? fun t => lane x t

/-! ## Device registers (R271) -/

/-- Register numbers: byte offset in BAR0 divided by 8 (R271, R401). -/
def rPreempt : Nat := 0
def rPrewait : Nat := 1
def rDrainTmo : Nat := 2
def rWake : Nat := 3
def rKlnErr : Nat := 4
def rCoTimeout : Nat := 5
def rBackoff : Nat := 6
def rRoute : Nat := 7
def rConePhys : Nat := 8
def rLogBase : Nat := 9
def rLogHead : Nat := 10
def rCeCnt : Nat := 11
def rFatal : Nat := 12
def rFence (k : Nat) : Nat := 13 + k
def rPtRoot (p : Nat) : Nat := 16 + p
def rPevr (p : Nat) : Nat := 32 + p
def rMcast : Nat := 48
def rSerial : Nat := 49
def rThrCause : Nat := 50
def rSite (r : Nat) : Nat := 52 + r
def rSvn : Nat := 64
def rCapKey (q : Nat) : Nat := 68 + q
def rPtn (p k : Nat) : Nat := 128 + 16 * p + k
def rPinOvf (s : Nat) : Nat := 512 + s
def rLinkLat (q : Nat) : Nat := 640 + q
def rNcRoute (n : Nat) : Nat := 1024 + n
def rStream (n k : Nat) : Nat := 2048 + 8 * n + k
def rGrp (g q : Nat) : Nat := 8192 + 4 * g + q
def rTpl (t q : Nat) : Nat := 16384 + 4 * t + q
def rWgrp (w : Nat) : Nat := 32768 + w
def rEv (i q : Nat) : Nat := 131072 + 2 * i + q
def rCore (core k : Nat) : Nat := 262144 + 8192 * core + k
def rKvec (core : Nat) : Nat := rCore core 0
def rFrBase (core : Nat) : Nat := rCore core 1
def rBlkCtl (core : Nat) : Nat := rCore core 2
def rCeErr (core : Nat) : Nat := rCore core 3
def rMxErr (core : Nat) : Nat := rCore core 4
def rSpPool (core : Nat) : Nat := rCore core 5
def rOwner (core : Nat) : Nat := rCore core 6
def rTrBase (core : Nat) : Nat := rCore core 32
def rTrSize (core : Nat) : Nat := rCore core 33
def rTrHead (core : Nat) : Nat := rCore core 34
def rTrTail (core : Nat) : Nat := rCore core 35
def rTrCtl (core : Nat) : Nat := rCore core 36
def rSmpl (core : Nat) : Nat := rCore core 37
def rDbgStop (core : Nat) : Nat := rCore core 38
def rPmc (core i : Nat) : Nat := rCore core (64 + i)
def rPmSel (core i : Nat) : Nat := rCore core (80 + i)
def rWpa (core i : Nat) : Nat := rCore core (96 + i)
def rWpl (core i : Nat) : Nat := rCore core (104 + i)
def rKepc (w : Nat) : Nat := rCore (coreOf w) (512 + 4 * slotOf w)
def rKhdr (w : Nat) : Nat := rCore (coreOf w) (513 + 4 * slotOf w)
def rKprio (w : Nat) : Nat := rCore (coreOf w) (514 + 4 * slotOf w)
def rElig (core k n : Nat) : Nat := rCore core (1536 + 8 * k + n)
def rStall (core k r : Nat) : Nat := rCore core (2048 + 16 * k + r)

/-- The value of a register at bring-up (R271); registers to which the table gives none read 0 (log 1). -/
def regReset (n : Nat) : W64 :=
  if n = 1 then 16384
  else if n = 2 then 65536
  else if n = 5 then 1048576
  else if n = 6 then 0x10000040
  else if n = 7 then 0xD93B48
  else if n = 49 then Config.serial
  else if n = 64 then Config.svnMinimum.setWidth 64
  else if 128 ≤ n ∧ n < 384 ∧ n % 16 = 6 then 65536
  else 0

/-- A register held in the table of device registers. -/
def dev (c : Chip) (n : Nat) : W64 := (sget c.dev n).getD (regReset n)

/-- A register written in that table. -/
def setDev (c : Chip) (n : Nat) (x : W64) : Chip := { c with dev := sput c.dev n x }

/-- Bits of a register. -/
def devFld (c : Chip) (n lo k : Nat) : Nat := fld (dev c n).toNat lo k

/-- A 256-bit record of four qwords. -/
def wide4 (c : Chip) (n : Nat) : Nat :=
  (dev c n).toNat + (dev c (n + 1)).toNat * 2 ^ 64 + (dev c (n + 2)).toNat * 2 ^ 128 + (dev c (n + 3)).toNat * 2 ^ 192

/-- Bits of the group entry of group g (R40). -/
def grpFld (c : Chip) (g lo n : Nat) : Nat := fld (wide4 c (rGrp g 0)) lo n

/-- The group entry with bits replaced. -/
def setGrpFld (c : Chip) (g lo n v : Nat) : Chip :=
  let x := wide4 c (rGrp g 0)
  let y := x - fld x lo n * 2 ^ lo + v % 2 ^ n * 2 ^ lo
  (List.range 4).foldl (fun c q => setDev c (rGrp g q) (BitVec.ofNat 64 (fld y (64 * q) 64))) c

/-- Fields of a group entry (R40). -/
def gValid (c : Chip) (g : Nat) : Bool := grpFld c g 0 1 == 1
def gWorker (c : Chip) (g : Nat) : Bool := grpFld c g 1 1 == 1
def gPart (c : Chip) (g : Nat) : Nat := grpFld c g 2 4
def gMembers (c : Chip) (g : Nat) : Nat := grpFld c g 6 15
def gArrived (c : Chip) (g : Nat) : Nat := grpFld c g 21 15
def gGen (c : Chip) (g : Nat) : Bool := grpFld c g 36 1 == 1
/-- Fields marked "worker blocks only" read zero when WB = 0 (R40). -/
def gBlockFld (c : Chip) (g lo n : Nat) : Nat := if gWorker c g then grpFld c g lo n else 0
def gTemplate (c : Chip) (g : Nat) : Nat := gBlockFld c g 37 12
def gMbox (c : Chip) (g : Nat) : Nat := gBlockFld c g 49 3
def gFloor (c : Chip) (g : Nat) : Nat := gBlockFld c g 52 7
def gPrivK (c : Chip) (g : Nat) : Nat := gBlockFld c g 64 16
def gCslots (c : Chip) (g : Nat) : Nat := gBlockFld c g 80 8
def gNnb (c : Chip) (g : Nat) : Nat := min 4 (grpFld c g 128 3)
def gNb (c : Chip) (g k : Nat) : Nat := grpFld c g (96 + 8 * k) 8

/-- The groups of which a warp is a member (R41, R271). -/
def memberships (c : Chip) (w : Nat) : List Nat :=
  (List.range 4).filterMap fun k =>
    if bit (dev c (rWgrp w)).toNat (32 + k) then some (fld (dev c (rWgrp w)).toNat (8 * k) 8) else none

/-- g is a valid entry that has the warp as a member (R41). -/
def isMember (c : Chip) (w g : Nat) : Bool := gValid c g && (memberships c w).contains g

/-- Fields of a template record (R210). -/
def tplFld (c : Chip) (t lo n : Nat) : Nat := fld (wide4 c (rTpl t 0)) lo n
def tplEntry (c : Chip) (t : Nat) : W64 := BitVec.ofNat 64 (tplFld c t 0 64)
def tplRecl (c : Chip) (t : Nat) : W64 := BitVec.ofNat 64 (tplFld c t 64 64)
def tplOutSz (c : Chip) (t : Nat) : Nat := tplFld c t 128 40
def tplValid (c : Chip) (t : Nat) : Bool := tplFld c t 168 1 == 1
def tplFabric (c : Chip) (t : Nat) : Bool := tplFld c t 169 1 == 1
def tplDrt (c : Chip) (t : Nat) : Bool := tplFld c t 170 1 == 1

/-- A 48-bit count that sticks at its top (R266, R271). -/
def bumpStick (c : Chip) (n k : Nat) : Chip :=
  setDev c n (BitVec.ofNat 64 (min (2 ^ 48 - 1) ((dev c n).toNat + k)))

/-- Performance counters that count event `ev` on a core, by k; an increment past 2^48 - 1 wraps and sets OVF
(R256, R267). -/
def pmEvent (c : Chip) (core ev k : Nat) : Chip :=
  (List.range 16).foldl (fun c i =>
    let sel := (dev c (rPmSel core i)).toNat
    if bit sel 13 && fld sel 0 12 == ev then
      let x := (dev c (rPmc core i)).toNat + k
      let was := dev c (rPmc core i)
      let c := setDev c (rPmc core i) (BitVec.ofNat 64 (x % 2 ^ 48))
      if x < 2 ^ 48 then c
      else setDev { c with pmcWas := sput c.pmcWas (rPmc core i) (c.cycle, was) } (rPmSel core i) (dev c (rPmSel core i) ||| 0x4000)
    else c) c

/-! ## Agenda, tokens and releases -/

/-- An agenda with an event put after every event of its cycle or an earlier one. -/
def insertAt (t : Nat) (e : Ev) : List (Nat × Ev) → List (Nat × Ev)
  | [] => [(t, e)]
  | (u, d) :: r => if t < u then (t, e) :: (u, d) :: r else (u, d) :: insertAt t e r

/-- An event scheduled at a cycle. -/
def schedule (c : Chip) (t : Nat) (e : Ev) : Chip := { c with agenda := insertAt t e c.agenda }

/-- An event scheduled a number of cycles from now. -/
def after (c : Chip) (n : Nat) (e : Ev) : Chip := schedule c (c.cycle + n) e

/-- The events of the agenda that fail a test taken away. -/
def unschedule (c : Chip) (f : Ev → Bool) : Chip := { c with agenda := c.agenda.filter fun e => !f e.2 }

/-- A fresh number. -/
def freshId (c : Chip) : Nat × Chip := (c.fresh, { c with fresh := c.fresh + 1 })

/-- An event held until the tokens in `deps` have gone: it happens `add` cycles after the later of the present cycle
and the cycle in which the last of them goes (R151). -/
def release (c : Chip) (deps : List Nat) (add : Nat) (e : Ev) : Chip :=
  if deps.isEmpty then after c add e
  else { c with rel := c.rel ++ [{ deps := deps, base := c.cycle, add := add, ev := e }] }

/-- An event held until the tokens in `deps` have gone, no earlier than a cycle. -/
def releaseAt (c : Chip) (deps : List Nat) (t : Nat) (e : Ev) : Chip :=
  if deps.isEmpty then schedule c t e else { c with rel := c.rel ++ [{ deps := deps, base := t, add := 0, ev := e }] }

/-- What an acquiring FENCE holds a warp for has come about: its loads hit nothing that L1 was filled with before (R150,
R151). -/
def endHold (c : Chip) (w : Nat) : Chip :=
  modWarp c w fun x =>
    if x.fenced && x.hold.isEmpty then { x with fenced := false, stale := (coreAt c (coreOf w)).l1.map (·.1) } else x

/-- A token gone: a store, atomic or window store has reached its R54 event, or a load has returned. -/
def doneToken (c : Chip) (w tok : Nat) : Chip :=
  let c := endHold (modWarp c w fun x => { x with stores := x.stores.filter (· != tok), hold := x.hold.filter (· != tok) }) w
  let rs := c.rel.map fun r => { r with deps := r.deps.filter (· != tok) }
  let c := { c with rel := rs.filter fun r => !r.deps.isEmpty }
  (rs.filter fun r => r.deps.isEmpty).foldl (fun c r => schedule c (max r.base c.cycle + r.add) r.ev) c

/-- A completion flag raised by one (R53). -/
def flagUp (c : Chip) (w : Nat) (f : Option (Fin 12)) : Chip :=
  match f with
  | some i => modWarp c w fun x => { x with flags := x.flags.set i.val (x.flags[i.val] + 1) }
  | none => c

/-- A completion flag lowered by one (R54). -/
def flagDown (c : Chip) (w : Nat) (f : Option (Fin 12)) : Chip :=
  match f with
  | some i => modWarp c w fun x =>
      { x with flags := x.flags.set i.val (if x.flags[i.val] = 0 then 0 else x.flags[i.val] - 1) }
  | none => c

/-! ## Cone stamps (R257) -/

/-- The chip takes a stamp. -/
def takeStamp (c : Chip) : W64 × Chip :=
  let phys := c.conePhys.toNat * 2 ^ 16
  let next := if c.lastStamp = BitVec.allOnes 64 then c.lastStamp.toNat else c.lastStamp.toNat + 1
  let s := BitVec.ofNat 64 (max phys next)
  (s, { c with lastStamp := s })

/-- The stamp unit merges a stamp it has received (R258). -/
def mergeStamp (c : Chip) (s : W64) : Chip := { c with lastStamp := if c.lastStamp.toNat < s.toNat then s else c.lastStamp }

/-! ## Interrupts, logs and traces -/

/-- Vector v of function f raised, or held pending while it is masked (R272); in recovery only vector 0 of PF0 works (R279). -/
def msix (c : Chip) (f v : Nat) : Chip :=
  let m := (sget c.msixMask f).getD 0
  if c.recovery && (f != 0 || v != 0) then c
  else if m.getLsbD v then
    { c with msixPend := sput c.msixPend f (((sget c.msixPend f).getD 0) ||| BitVec.ofNat 64 (2 ^ v)) }
  else { c with raised := c.raised ++ [64 * f + v] }

/-- A stamp taken in this cycle for a use, in the order of a residency slot of the chip (R257). -/
def stampFor (c : Chip) (slot : Nat) (u : StampUse) : Chip := { c with stamps := c.stamps ++ [(slot, u)] }

/-- The place of a chip's own stamps behind those of its cores. -/
def ownStamp : Nat := 24576

/-- A record in the error log ring (R255): it takes a stamp, and raises vector 3 of the partition that owns it. -/
def logRecord (c : Chip) (addr : Nat) (unit num kind out : Nat) (part : Nat) : Chip :=
  let head := (dev c rLogHead).toNat
  let slot := head % 256
  let at_ := (dev c rLogBase).toNat + 256 * slot
  let c := hbmWrite c at_ 256 (addr * 2 ^ 128 + unit * 2 ^ 56 + num * 2 ^ 40 + kind * 2 ^ 32 + out)
  let c := stampFor c (if unit = 4 then 128 * num else ownStamp) (.log at_)
  let next := (slot + 1) % 256
  let wrapped := bit head 8 || c.logWrapped
  let c := setDev c rLogHead (BitVec.ofNat 64 (next + (if wrapped then 256 else 0)))
  let c := { c with logWrapped := c.logWrapped || next == 0 }
  msix c part 3

/-- One event counted in an ERRLOG register with its cause, with its ring record of KIND 4 (R271). -/
def errLog (c : Chip) (reg cause unit num part : Nat) : Chip :=
  let n := fld (dev c reg).toNat 0 32
  let c := setDev c reg (BitVec.ofNat 64 (cause * 2 ^ 32 + min (2 ^ 32 - 1) (n + 1)))
  logRecord c 0 unit num 4 3 part

/-- An event logged in ERR_LOG alone, for the partition that causes it (R255, R272). -/
def logOnly (c : Chip) (unit num part : Nat) : Chip := logRecord c 0 unit num 4 3 part

/-- A logged event of a unit that R255's UNIT does not name (the host's accesses, the stamp unit): UNIT and NUM of its record
are free values (log 4). -/
def logFree (c : Chip) (part : Nat) : Chip :=
  let (u, c) := drawFree c
  let (n, c) := drawFree c
  logRecord c 0 (u % 256) (n % 65536) 4 3 part

/-- Region ids from the top; what the stack does not hold reads as zero (R243). -/
def regionId (w : Warp) (k : Nat) : Nat := ((w.regions.drop k).head?.map BitVec.toNat).getD 0

/-- A trace record of a core (R263): kinds 3 and 4 always, the others under DBG_TRCTL. `warp` supplies the region
fields. -/
def trace (c : Chip) (core : Nat) (src kind payload : Nat) (warp : Option Nat) : Chip :=
  if kind == 3 || kind == 4 || bit (dev c (rTrCtl core)).toNat kind then
    let x := warp.elim Warp.blank fun w => warpAt c w
    let seq := (coreAt c core).traceSeq
    let c := modCore c core fun k => { k with traceSeq := k.traceSeq + 1 }
    let size := fld (dev c (rTrSize core)).toNat 0 16
    let head := fld (dev c (rTrHead core)).toNat 0 16
    let lost := fld (dev c (rTrHead core)).toNat 16 32
    let next := if head + 1 < size then head + 1 else 0
    let slot := core * 128 + warp.elim 0 slotOf
    if size ≤ (coreAt c core).traceHeld then
      setDev (stampFor c slot .lost) (rTrHead core) (BitVec.ofNat 64 (head + (lost + 1) % 2 ^ 32 * 2 ^ 16))
    else
      let v := payload * 2 ^ 96 + kind * 2 ^ 88 + src * 2 ^ 85 + core * 2 ^ 77
        + (warp.elim 0 slotOf) * 2 ^ 70 + x.rgnDepth.toNat * 2 ^ 62 + regionId x 2 * 2 ^ 51 + regionId x 1 * 2 ^ 40
        + regionId x 0 * 2 ^ 29 + seq.toNat
      let at_ := (dev c (rTrBase core)).toNat + 256 * head
      let c := stampFor (hbmWrite c at_ 256 v) slot (.record at_)
      let c := modCore c core fun k => { k with traceHeld := k.traceHeld + 1 }
      setDev c (rTrHead core) (BitVec.ofNat 64 (next + lost * 2 ^ 16))
  else c

/-! ## Clause headers (R48 to R50) -/

/-- The header's fields and the end of the body, or none where the header breaks R50. -/
structure Header where
  rp : Bool
  setA : Option (Fin 12)
  setB : Option (Fin 12)
  wait : Nat
  stop : W64
  prio : BitVec 12
deriving DecidableEq, Repr

/-- A flag field: 0 to 11, or 15 for none (R49). -/
def flagFld (n : Nat) : Option (Option (Fin 12)) :=
  if h : n < 12 then some (some ⟨n, h⟩) else if n = 15 then some none else none

/-- The 64 bits of a header at bit address h read under R49 and R50. -/
def readHeader (h : W64) (x : Nat) : Option Header :=
  if bit x 0 && fld x 27 5 == 0 && fld x 44 20 == 0 then do
    let a ← flagFld (fld x 18 4)
    let b ← flagFld (fld x 22 4)
    some { rp := bit x 26, setA := a, setB := b, wait := fld x 6 12,
           stop := h + 64 + BitVec.ofNat 64 (16 * (fld x 1 5 + 1)), prio := BitVec.ofNat 12 (fld x 32 12) }
  else none

/-- The clause header after a body that ends at e: the smallest multiple of 64 not less than e (R48). -/
def nextHeader (e : W64) : W64 := BitVec.ofNat 64 ((e.toNat + 63) / 64 * 64)

/-! ## Taking an exception (R240 to R246) -/

/-- What a fault or trap reports (R243). -/
structure Report where
  code : BitVec 6
  sub : BitVec 6 := 0
  addr : W64 := 0
  tmask : BitVec 32 := 0
  pc : W64 := 0
  nlater : Nat := 0
  skid : Bool := false
  /-- The stamp of a fault detected before, and the bits of RECLAIM then. -/
  seen : Option (W64 × Bool × Bool) := none
deriving DecidableEq, Repr

/-- Where a warp resumes: an instruction, its clause header, and the entry's priority and threads (R241). -/
structure Resume where
  pc : W64
  hdr : W64
  prio : BitVec 12
  mask : BitVec 32
deriving DecidableEq, Repr

/-- The fault record of warp w written at ERR_FRBASE + 512 x WARP; a record at or above 2^42 is logged instead (R243). -/
def faultRecord (c : Chip) (w : Nat) (r : Report) (at_ : Resume) (km : Bool) : Chip :=
  let x := warpAt c w
  let (rcl, drn) : Bool × Bool := match r.seen with
    | some (_, a, b) => (a, b)
    | none => (x.rcl, x.drn)
  let stamp : W64 := match r.seen with
    | some (t, _, _) => t
    | none => 0
  let base := fld (dev c (rFrBase (coreOf w))).toNat 0 42 + 512 * slotOf w
  let v := r.code.toNat + r.sub.toNat * 2 ^ 6 + b1 km * 2 ^ 12 + b1 r.skid * 2 ^ 13 + b1 rcl * 2 ^ 14
    + b1 drn * 2 ^ 15 + slotOf w * 2 ^ 16 + x.rgnDepth.toNat * 2 ^ 23 + regionId x 0 * 2 ^ 31 + regionId x 1 * 2 ^ 42
    + regionId x 2 * 2 ^ 53 + r.pc.toNat * 2 ^ 64 + r.addr.toNat * 2 ^ 128 + stamp.toNat * 2 ^ 192
    + r.tmask.toNat * 2 ^ 256 + at_.mask.toNat * 2 ^ 288 + at_.prio.toNat * 2 ^ 320 + min 63 r.nlater * 2 ^ 332
  if base + 512 ≤ 2 ^ 42 then
    let c := hbmWrite c base 512 v
    if r.seen.isSome then c else stampFor c w (.record base)
  else logOnly c 4 (coreOf w) x.part.toNat

/-- A fault in kernel mode: KM in the record, the warp stops, ERR_FATAL[0] and the management vector of PF0, and the
core takes no further push (R246). -/
def kernelFault (c : Chip) (w : Nat) (r : Report) (at_ : Resume) : Chip :=
  let c := faultRecord c w r at_ true
  let c := modWarp c w fun x => { x with wait := .stopped }
  let c := setDev c rFatal (dev c rFatal ||| 1)
  let c := modCore c (coreOf w) fun k => { k with noPush := true }
  msix c 0 0

/-- A wake event of a core: each warp suspended in HALT, but for the one that causes it, resumes 4 cycles later (R339). -/
def wakeHalted (c : Chip) (core w : Nat) : Chip :=
  c.warps.foldl (fun c (u, x) =>
    let waking := c.agenda.any fun e => match e.2 with
      | .wake v _ => v == u
      | _ => false
    if coreOf u == core && u != w && decide (x.wait = .halt) && !waking then schedule c (c.cycle + 4) (.wake u 0) else c) c

/-- A kernel trap: the resume point saved, the record written, MODE 1 and the entry at ERR_KVEC; every other entry is
frozen (R241). A fault that an instruction of worker mode has left may be taken in kernel mode too: `late` (log 40). -/
def kernelTrap (c : Chip) (w : Nat) (r : Report) (at_ : Resume) (late : Bool := false) : Chip :=
  let kvec := dev c (rKvec (coreOf w))
  if ((warpAt c w).kernel && !late) || kvec.toNat % 64 != 0 then kernelFault c w r at_
  else
    let c := setDev c (rKepc w) at_.pc
    let c := setDev c (rKhdr w) at_.hdr
    let c := setDev c (rKprio w) (BitVec.ofNat 64 (at_.mask.toNat * 2 ^ 32 + at_.prio.toNat))
    let c := wakeHalted (faultRecord c w r at_ false) (coreOf w) w
    modWarp c w fun x =>
      { x with
        kernel := true, body := none, wait := .none,
        frontier := { pc := kvec, hdr := kvec, prio := 4095, mask := at_.mask, kernel := true } :: x.frontier }

/-- A warp that a halt broadcast of this cycle stops from the next cycle on (R244). -/
def haltSoon (c : Chip) (w : Nat) : Chip := stampFor (schedule c (c.cycle + 1) (.halted w c.cycle)) w (.halt w)

/-- The halt broadcast of a fault of worker block g on a core: every other warp of the block in worker mode stops from
the next cycle on (R244). -/
def haltBroadcast (c : Chip) (w : Nat) (hw : Bool) : Chip :=
  match (warpAt c w).block with
  | none => c
  | some g =>
    let key := coreOf w * 256 + g.val
    let c := { c with halts := sput c.halts key (hw || (sget c.halts key).getD false) }
    (warpsOfBlock c (coreOf w) g).foldl
      (fun c u => if u = w then c else haltSoon c u) c

/-- A fault delivered to the Wheel: a kernel trap that halts the worker block, or a kernel-mode fault (R240). -/
def takeFault (c : Chip) (w : Nat) (r : Report) (at_ : Resume) (hw : Bool := false) : Chip :=
  if (warpAt c w).kernel then kernelFault c w r at_
  else haltBroadcast (kernelTrap c w r at_) w hw

/-- Where the warp of the current issue resumes when its instruction has no effect: that instruction (R248). -/
def resumeHere (c : Chip) : Resume :=
  match (warpAt c c.cur.w).body with
  | some b => { pc := c.cur.faultPc, hdr := b.hdr, prio := b.prio, mask := b.mask }
  | none => { pc := c.cur.faultPc, hdr := c.cur.faultPc, prio := 0, mask := 0 }

/-- The issue ends without going on in the body. -/
def endIssue (c : Chip) : Chip := { c with phase := .idle }

/-- A precise fault of the instruction at issue: the instruction has no effect, NLATER is 0 and the resume point is the
instruction (R248). -/
def raise (c : Chip) (code : BitVec 6) (tmask : BitVec 32) (addr : W64 := 0) (sub : BitVec 6 := 0) (hw : Bool := false) : Chip :=
  endIssue (takeFault c c.cur.w { code := code, sub := sub, addr := addr, tmask := tmask, pc := c.cur.faultPc } (resumeHere c) hw)

/-- The codes of R70. -/
def cILL : BitVec 6 := 0x01
def cPRIV : BitVec 6 := 0x02
def cMISAL : BitVec 6 := 0x03
def cPAGE : BitVec 6 := 0x04
def cPROT : BitVec 6 := 0x05
def cPOISON : BitVec 6 := 0x06
def cPEERGONE : BitVec 6 := 0x07
def cEWIN : BitVec 6 := 0x08
def cRFULL : BitVec 6 := 0x09
def cCLX : BitVec 6 := 0x0A
def cJSTATE : BitVec 6 := 0x0B
def cQDEST : BitVec 6 := 0x0C
def cCOILF : BitVec 6 := 0x0D
def cTIMER : BitVec 6 := 0x10
def cTRAPI : BitVec 6 := 0x11
def cBKPT : BitVec 6 := 0x12
def cWATCH : BitVec 6 := 0x13
def cHALTED : BitVec 6 := 0x14
def cCANON : BitVec 6 := 0x15

/-- The threads of the running entry of the issuing warp. -/
def entryMask (c : Chip) : BitVec 32 := ((warpAt c c.cur.w).body.map Body.mask).getD 0

/-- An encoding or field rule broken: ILL in the threads of the entry (R71). -/
def raiseIll (c : Chip) : Chip := raise c cILL (entryMask c)

/-- MODE returns to 0 when no thread remains in a kernel-mode entry (R242). -/
def leaveKernel (x : Warp) : Warp :=
  if x.kernel && !(x.frontier.any (·.kernel)) && !((x.body.map Body.kernel).getD false) then { x with kernel := false } else x

end Sys2Proof.Machine
end

