-- ==== Sys2Proof/Machine/Xlate.lean ====
section
/-!
DEFINITION. Sys2Proof/Machine/Xlate.lean: translation (R107 to R113, R138), the homes of R121 and R128, the rows of
R430, and the latency figures of R132, R135 to R137.
-/

namespace Sys2Proof.Machine
open Sys2Proof

/-! ## Where things stand (R11, R135) -/

/-- The cluster of a core. -/
def clusterOf (core : Nat) : Nat := core / 4
/-- Column and row of a cluster's router. -/
def colOf (cluster : Nat) : Nat := cluster / 6
def rowOf (cluster : Nat) : Nat := cluster % 6
/-- The half of a cluster. -/
def halfOf (cluster : Nat) : Nat := if colOf cluster < 4 then 0 else 1
/-- The router of an L2 slice, as its cluster (R11). -/
def sliceCluster (s : Nat) : Nat := s / 2

/-- One leg between two routers (R135). -/
def leg (a b : Nat) : Nat :=
  let dx := colOf a != colOf b
  let dy := rowOf a != rowOf b
  b1 dx + b1 dy + (if dx && dy then 3 else 0)

/-- The bridge term of one leg (R227). -/
def bridge (a b : Nat) : Nat := if halfOf a = halfOf b then 0 else 4

/-- Request and reply legs with the half crossing of R136. -/
def trip (a b : Nat) : Nat := 2 * leg a b + 2 * bridge a b

/-! ## Page-table entries (R110, R112) -/

def pteValid (e : Nat) : Bool := bit e 0
def pteW (e : Nat) : Bool := bit e 1
def pteX (e : Nat) : Bool := bit e 2
def pteK (e : Nat) : Bool := bit e 3
def pteHome (e : Nat) : Nat := fld e 4 2
def pteOwn (e : Nat) : Bool := bit e 6
def pteEnc (e : Nat) : Bool := bit e 7
def pteGone (e : Nat) : Bool := bit e 8
def pteSize (e : Nat) : Nat := fld e 9 3
def pteFrame (e : Nat) : Nat := fld e 12 40
def pteHcore (e : Nat) : Nat := fld e 52 8
def pteClass (e : Nat) : Nat := fld e 60 3

/-- The bits of a leaf of SIZE 1 to 3 (R108). -/
def leafBits (size : Nat) : Nat :=
  match size with
  | 1 => 19 | 2 => 24 | 3 => 33 | _ => 0

/-- A physical range of class HBM or LPDDR lies inside the partition's share, counted in GiB (R273). -/
def inShare (c : Chip) (part cls a : Nat) : Bool :=
  let m := (dev c (rPtn part 2)).toNat
  let lo := if cls = 0 then fld m 10 10 else fld m 36 12
  let n := if cls = 0 then fld m 20 10 else fld m 48 12
  decide (lo * 2 ^ 33 ≤ a) && decide (a < (lo + n) * 2 ^ 33)

/-- The fields of a leaf agree under R112, and it lies in the share (R273). `a` is the page base. -/
def leafOk (c : Chip) (part e a bits : Nat) : Bool :=
  let home := pteHome e
  let top := a + 2 ^ bits
  match pteClass e with
  | 0 => decide (home ≠ 2) && decide (top ≤ 2 ^ 42) && inShare c part 0 a
  | 1 => decide (home ≠ 2) && decide (top ≤ 2 ^ 44) && inShare c part 1 a
  | 2 => (home == 0 || home == 3) && !pteEnc e
  | 3 => (home == 0 || home == 3) && !pteEnc e && !pteOwn e
  | 4 => home == 2 && !pteEnc e && !pteOwn e && decide (pteHcore e ≤ 191)
  | 5 => home == 2 && !pteEnc e && !pteOwn e && decide (pteHcore e ≤ 191)
  | _ => false

/-- What a walk ends in: a leaf with its size in bits, a PAGE fault, replayable or final (R111), or a poisoned sector of a table
(R254). -/
inductive WalkEnd where
  | leaf (pte bits : Nat)
  | fault (replayable : Bool)
  | poison
deriving DecidableEq, Repr

/-- The levels of R109: lowest index bit, index bits, and the leaf SIZE allowed (0 for none). -/
def levels : List (Nat × Nat × Nat) := [(46, 14, 0), (33, 13, 3), (24, 9, 2), (19, 5, 1)]

/-- The root table of a partition (R109). -/
def rootTable (c : Chip) (part : Nat) : PAddr := ⟨.hbm, fld (dev c (rPtRoot part)).toNat 0 52⟩

/-- The entry of a table at a level for a virtual address (R109). -/
def entryAt (va lo n : Nat) (base : PAddr) : PAddr := ⟨base.space, base.bit + fld va lo n * 64⟩

/-- What an entry of a table says: the table of the next level, or how the walk ends. -/
inductive TableStep where
  | next (base : PAddr)
  | done (r : WalkEnd)
deriving DecidableEq, Repr

/-- An entry read at a level with leaf SIZE `ok`, above others or not (R110, R111). R110 has a pointer ignore its other bits and
R111 makes bit 63 = 1 a PAGE fault: the model takes R111 for every entry (log 39). -/
def tableStep (c : Chip) (part e ok : Nat) (last : Bool) : TableStep :=
  if !pteValid e then .done (.fault true)
  else if bit e 63 || decide (3 < pteSize e) then .done (.fault false)
  else if pteSize e = 0 then
    let cls := pteClass e
    let a := pteFrame e * 4096
    if (cls = 0 ∨ cls = 1) ∧ !last ∧ inShare c part cls a then .next ⟨if cls = 0 then .hbm else .lpddr, a⟩
    else .done (.fault false)
  else if pteSize e ≠ ok then .done (.fault false)
  else
    let bits := leafBits (pteSize e)
    let a := pteFrame e * 4096 / 2 ^ bits * 2 ^ bits
    if leafOk c part e a bits then .done (.leaf e bits) else .done (.fault false)

/-- An entry of a table as a walk reads it: through L2, under no key (R138, R277). -/
def tableBits (m : Memory) (c : Chip) (part : Nat) (p : PAddr) : Nat :=
  homeRead m c true false part { t := 0, pos := 0, pa := p, width := 64 }

/-- The walk from a table's base through the levels that remain (R109 to R111, R254). -/
def walkFrom (m : Memory) (c : Chip) (part va : Nat) : List (Nat × Nat × Nat) → PAddr → WalkEnd
  | [], _ => .fault false
  | (lo, n, ok) :: rest, base =>
    let at_ := entryAt va lo n base
    if (sget c.poison (sectorOf at_)).isSome then .poison
    else
      match tableStep c part (tableBits m c part at_) ok rest.isEmpty with
      | .next base => walkFrom m c part va rest base
      | .done r => r

/-- The entries that a walk reads, the first first. -/
def walkPath (m : Memory) (c : Chip) (part va : Nat) : List (Nat × Nat × Nat) → PAddr → List PAddr
  | [], _ => []
  | (lo, n, ok) :: rest, base =>
    let at_ := entryAt va lo n base
    match tableStep c part (tableBits m c part at_) ok rest.isEmpty with
    | .next base => at_ :: walkPath m c part va rest base
    | .done _ => [at_]

/-- The walk of a partition's tables for a virtual address (R109). -/
def walk (m : Memory) (c : Chip) (part va : Nat) : WalkEnd := walkFrom m c part va levels (rootTable c part)

/-! ## Translation -/

/-- Why an access is made, for the permissions of R113. -/
inductive Access where
  | fetch | load | store
deriving DecidableEq, Repr

/-- A translated bit: its physical address and what its page says of it. -/
structure Xlat where
  pa : PAddr
  cls : Nat
  home : Nat
  hcore : Nat
  enc : Bool
  own : Bool
deriving DecidableEq, Repr

/-- A translation, or the fault it takes (R140). -/
inductive XRes where
  | ok (x : Xlat)
  | fault (code : BitVec 6) (replayable : Bool)
deriving DecidableEq, Repr

/-- The TLB entry of a core, or of its cluster, that translates an address for a partition (R138); true when it is the
core's own. -/
def tlbFind (c : Chip) (core part va : Nat) : Option (TlbEntry × Bool) :=
  let hit := fun (e : TlbEntry) => e.part == part && decide (e.base ≤ va) && decide (va < e.base + e.size)
  match (coreAt c core).tlb.find? hit with
  | some e => some (e, true)
  | none => (((sget c.ctlb (clusterOf core)).getD []).find? hit).map fun e => (e, false)

/-- The space of a class. -/
def spaceOf (cls hcore : Nat) : Space :=
  match cls with
  | 0 => .hbm
  | 1 => .lpddr
  | 2 => .host
  | 3 => .remote
  | 4 => .bsram hcore
  | _ => .spad hcore

/-- A remote chip is a member of the chip group with a valid route (R112, R238). -/
def routed (c : Chip) (chip : Nat) : Bool := decide (chip < 1024) && bit (dev c (rNcRoute chip)).toNat 4

/-- The checks of R112, R113, R115 and R162 on a valid leaf that covers an address. -/
def leafAccess (c : Chip) (kernel : Bool) (acc : Access) (e bits va : Nat) : XRes :=
  let a := pteFrame e * 4096 / 2 ^ bits * 2 ^ bits + va % 2 ^ bits
  let cls := pteClass e
  if pteOwn e then .fault cPAGE true
  else if cls = 3 ∧ !routed c (fld a 42 10) then .fault cPAGE false
  else if cls = 4 ∧ 2 ^ 26 ≤ a then .fault cPAGE false
  else if cls = 5 ∧ 2 ^ 25 ≤ a then .fault cPAGE false
  else if pteK e && !kernel then .fault cPROT false
  else if acc = .fetch ∧ !pteX e then .fault cPROT false
  else if acc = .store ∧ !pteW e then .fault cPROT false
  else if pteGone e then .fault cPEERGONE false
  else .ok { pa := ⟨spaceOf cls (pteHcore e), a⟩, cls := cls, home := pteHome e, hcore := pteHcore e, enc := pteEnc e,
             own := pteOwn e }

/-- The engine window of R116. -/
def inWindow (va : Nat) : Bool := decide (0x0FF0000000000000 ≤ va) && decide (va < 0x0FF0000000001000)

/-- Translation of one bit address (R107 to R113): CANON, the engine window, the TLBs, else a walk. -/
def translate (m : Memory) (c : Chip) (core part : Nat) (kernel : Bool) (acc : Access) (va : Nat) : XRes :=
  if 2 ^ 60 ≤ va then .fault cCANON false
  else if inWindow va then .fault cEWIN false
  else
    match tlbFind c core part va with
    | some (e, _) =>
      leafAccess c kernel acc e.pte.toNat (leafBits (pteSize e.pte.toNat)) va
    | none =>
      match walk m c part va with
      | .leaf e bits => leafAccess c kernel acc e bits va
      | .fault r => .fault cPAGE r
      | .poison => .fault cPOISON false

/-! ## Homes (R121, R128) -/

/-- The home of a translated bit. -/
def homeOf (x : Xlat) : Home :=
  match x.home with
  | 2 => .sram x.hcore
  | 3 => .mem
  | _ => .l2 (l2Slice x.cls x.pa.bit)

/-! ## HBM (R430) and its routes (R132, R133) -/

def hbmStack (a : Nat) : Nat := fld a 10 3 ^^^ fld a 27 3
/-- The number of an address's bank over the package. -/
def hbmBank (a : Nat) : Nat := hbmStack a * 2048 + fld a 13 6 * 32 + fld a 22 5
def hbmRow (a : Nat) : Nat := fld a 27 15

/-- The half on which a stack stands (R12). -/
def stackHalf (s : Nat) : Nat := if s < 4 then 0 else 1

/-- The ring of R12 in its listed direction. -/
def ring : List Nat := [0, 1, 4, 5, 7, 6, 3, 2]

/-- Hops of the ring leg the shorter way round (R132). -/
def ringHops (a b : Nat) : Nat :=
  let i := ring.idxOf a
  let j := ring.idxOf b
  let d := (j + 8 - i) % 8
  min d (8 - d)

/-- The route cost of a miss from a slice to a stack (R132, R133). -/
def routeCost (c : Chip) (slice stack : Nat) : Nat :=
  let half := halfOf (sliceCluster slice)
  if half = stackHalf stack then 0
  else
    let r := (dev c rRoute).toNat
    let ent := fld r (1 + 3 * stack) 3
    if bit r 0 && stackHalf ent == half then 6 * ringHops ent stack else 8

/-- A figure of a unit with a clock of its own, stated at 2.5 GHz, in cycles of the compute clock (R16). R16 does not say how it is
rounded to whole cycles: rounding up is the model's choice (log 39). -/
def ownClock (c : Chip) (n : Nat) : Nat := if c.period = 400 then n else (n * 400 + c.period - 1) / c.period

/-- The C5 figure at 2.5 GHz of an access that finds a bank in a row state (R136, R430). -/
def rowFigure (c : Chip) (a : Nat) : Nat :=
  match sget c.rows (hbmBank a) with
  | some r => if r = hbmRow a then 380 else 500
  | none => 440

/-- The bank an access begins in is in its refresh window at a wall-clock time in ps (R430). -/
def refreshing (a wall : Nat) : Bool :=
  let b := fld a 22 5
  let t := wall % 3900000
  decide (120000 * b ≤ t) && decide (t < 120000 * b + 64000)

/-- The cycles of the column access that a slot which starts at cycle t serves: its row's figure, or that of a closed row and
the refresh that it meets (R131, R136, R430). -/
def hbmFigure (c : Chip) (a t : Nat) : Nat :=
  ownClock c (if refreshing a (c.wall + (t - c.cycle) * c.period) then 440 + 160 else rowFigure c a)

/-- A bank with the row of an access open, or closed under LU (R131, R430). -/
def leaveRow (c : Chip) (a : Nat) (lu : Bool) : Chip :=
  { c with rows := if lu then sdel c.rows (hbmBank a) else sput c.rows (hbmBank a) (hbmRow a) }

/-- A partition's first slot that starts at or after a cycle, if it holds one (R275). -/
def slotAt (c : Chip) (part t : Nat) : Option Nat :=
  let q := (dev c (rPtn part 3)).toNat
  let first := (t + 7) / 8
  ((List.range 64).find? fun i => bit q ((first + i) % 64)).map fun i => (first + i) * 8

/-! ## Class figures (R135 to R137) -/

/-- C4 from a core to a slice. -/
def figC4 (core slice : Nat) : Nat := 30 + trip (clusterOf core) (sliceCluster slice)

/-- C0 to C3 with the 16 cycles of B-SRAM, for F rows (R125, R126, R136). -/
def figSram (core hcore f : Nat) (bsram : Bool) : Nat :=
  (if core = hcore then 14 + 4 * (f - 1)
   else if clusterOf core = clusterOf hcore then 34
   else 40 + trip (clusterOf core) (clusterOf hcore)) + (if bsram then 16 else 0)

/-- The port of a remote chip (R238), and the RT and OW of its link in cycles (R16, R239). -/
def portOf (c : Chip) (chip : Nat) : Nat := fld (dev c (rNcRoute chip)).toNat 0 4
def linkRt (c : Chip) (chip : Nat) : Nat := ownClock c (fld (dev c (rLinkLat (portOf c chip))).toNat 16 16)
def linkOw (c : Chip) (chip : Nat) : Nat := ownClock c (fld (dev c (rLinkLat (portOf c chip))).toNat 0 16)

/-- The cluster of the edge router of a UALink port (R12). -/
def portCluster (port : Nat) : Nat := if port < 8 then 1 + port / 2 else 42 + 1 + (port - 8) / 2

/-- C7 from a core, by the edge router of the chip's port (R136, R238, R239; log 8). -/
def figC7 (c : Chip) (core : Nat) (p : PAddr) : Nat :=
  let chip := fld p.bit 42 10
  trip (clusterOf core) (portCluster (portOf c chip)) + linkRt c chip + Config.remoteFigure p.bit c.cycle

/-- What a miss in L2, or a HOME = 11 access, adds to the C4 figure in LPDDR and host memory (R136). -/
def missFigure (c : Chip) (p : PAddr) : Nat :=
  match p.space with
  | .lpddr => ownClock c 900
  | .host => Config.hostFigure p.bit c.cycle
  | _ => 0

/-! ## Instruction bytes (R47, R431) -/

/-- The line of the instruction cache that holds an instruction byte, with its translation. -/
def fetchX (m : Memory) (c : Chip) (w : Nat) (va : Nat) : XRes :=
  let x := warpAt c w
  translate m c (coreOf w) x.part.toNat x.kernel .fetch va

/-- `n` bits at a virtual address from the instruction cache, when their line is present. -/
def icRead (m : Memory) (c : Chip) (w : Nat) (va n : Nat) : Option Nat :=
  match fetchX m c w va with
  | .ok x => (sget (coreAt c (coreOf w)).icache (lineOf x.pa)).map fun l => fld l.toNat (x.pa.bit % 1024) n
  | .fault _ _ => none

/-- The priority of the header at a destination, for R30; 0 where its bytes cannot be read. -/
def headerPrio (m : Memory) (c : Chip) (w : Nat) (pc : W64) : BitVec 12 :=
  match fetchX m c w pc.toNat with
  | .ok x =>
    let v := match sget (coreAt c (coreOf w)).icache (lineOf x.pa) with
      | some l => fld l.toNat (x.pa.bit % 1024) 64
      | none => readBits m c x.pa 64
    BitVec.ofNat 12 (fld v 32 12)
  | .fault _ _ => 0

end Sys2Proof.Machine
end

