-- ==== Sys2Proof/Machine/Operands.lean ====
section
/-!
DEFINITION. Sys2Proof/Machine/Operands.lean: every operand form. The value of an operand code for a thread (R57), what
each instruction reads, writes and frees (R22, R24, R25, R34), the occupancies of R21, and what a prefix may carry
(R61, R62).
-/

namespace Sys2Proof.Machine
open Sys2Proof

/-! ## Operand values (R57) -/

/-- The 32-bit operand of a code: a thread's vector register, or the low half of an s register. -/
def opd32 (w : Warp) (o : Opd) (t : Fin 32) : W32 :=
  match o with
  | .v n _ => vread w n.val t
  | .s n => (sread w n).setWidth 32

/-- As `opd32`, for a code with no last-read bit. -/
def src32 (w : Warp) (o : Src) (t : Fin 32) : W32 :=
  match o with
  | .v n => vread w n.val t
  | .s n => (sread w n).setWidth 32

/-- A pair v(n + 1) : v(n) of a thread. -/
def pair64 (w : Warp) (n : Nat) (t : Fin 32) : W64 := vread w (n + 1) t ++ vread w n t

/-- The 64-bit operand of a code: a pair, or all of an s register. -/
def opd64 (w : Warp) (o : Opd) (t : Fin 32) : W64 :=
  match o with
  | .v n _ => pair64 w n.val t
  | .s n => sread w n

def src64 (w : Warp) (o : Src) (t : Fin 32) : W64 :=
  match o with
  | .v n => pair64 w n.val t
  | .s n => sread w n

/-- The element width of a width code (R59). -/
def wcWidth (n : Nat) : Nat :=
  match n with
  | 0 => 1 | 1 => 2 | 2 => 3 | 3 => 4 | 4 => 6 | 5 => 8 | 6 => 16 | 7 => 32 | 8 => 64 | 9 => 128 | 10 => 8 | _ => 16

/-- The registers a load or store of a width code names from its first. -/
def wcRegs (n : Nat) : Nat := if n = 9 then 4 else if n = 8 then 2 else 1

/-! ## What an instruction reads and writes -/

/-- Register codes: vector registers 0 to 95, s registers from 128, predicates from 192, and 300 for the floating-point
flags not yet written (R98). -/
def codeS (n : Nat) : Nat := 128 + n
def codeP (n : Nat) : Nat := 192 + n
def codeFp : Nat := 300
/-- A tile, or a plane from 4 on, of the accumulator file (R197). -/
def codeAcc (u : Nat) : Nat := 400 + u

/-- Sources, sources read without a port (R395) or without a register (R98), destinations, and registers freed. -/
structure Uses where
  src : List Nat := []
  inner : List Nat := []
  dst : List Nat := []
  last : List Nat := []
deriving DecidableEq, Repr

def opdSrc : Opd → List Nat
  | .v n _ => [n.val]
  | .s n => [codeS n.val]

def opdLast : Opd → List Nat
  | .v n true => [n.val]
  | _ => []

def opdSrc64 : Opd → List Nat
  | .v n _ => [n.val, n.val + 1]
  | .s n => [codeS n.val]

def opdLast64 : Opd → List Nat
  | .v n true => [n.val, n.val + 1]
  | _ => []

def srcSrc : Src → List Nat
  | .v n => [n.val]
  | .s n => [codeS n.val]

def srcSrc64 : Src → List Nat
  | .v n => [n.val, n.val + 1]
  | .s n => [codeS n.val]

def psrcSrc : PSrc → List Nat
  | .p n => [codeP n.val]
  | .pt => []

/-- `k` registers from `n`. -/
def regRun (n k : Nat) : List Nat := (List.range k).map (n + ·)

/-- Data registers of a store. -/
def dataSrc (d : Src) (k : Nat) : List Nat :=
  match d with
  | .v n => regRun n.val k
  | .s n => [codeS n.val]

def usesV (o : VOps) : Uses :=
  { src := opdSrc o.a ++ opdSrc o.b, dst := [o.d.val], last := opdLast o.a ++ opdLast o.b }

/-- A fused operation: the old D, or the prefix's C (R62). -/
def usesFused (o : VOps) (p : Option Prefix) : Uses :=
  match p with
  | none => { usesV o with src := o.d.val :: (usesV o).src }
  | some q => { usesV o with src := opdSrc q.c ++ (usesV o).src, last := opdLast q.c ++ (usesV o).last }

/-- The member set of a cross-lane operation: an s code in C (R62). -/
def memberSrc (p : Option Prefix) : List Nat :=
  match p with
  | some q =>
    match q.c with
    | .s n => [codeS n.val]
    | .v _ _ => []
  | none => []

def usesU (o : UnOps) : Uses := { src := opdSrc o.a, dst := [o.d.val], last := opdLast o.a }

def usesC (o : COps) : Uses := { src := [o.d.val, o.b.val], dst := [o.d.val], last := if o.lb then [o.b.val] else [] }

def usesLd (o : LdOps) (x : List Nat) : Uses :=
  { src := codeS o.sb.val :: x, dst := regRun o.d.val (wcRegs o.wc.val) }

def usesSt (o : StOps) (x : List Nat) : Uses :=
  { src := codeS o.sb.val :: (x ++ dataSrc o.d (wcRegs o.wc.val)) }

def usesS (o : SOps) : Uses := { src := [codeS o.sa.val, codeS o.sb.val], dst := [codeS o.sd.val] }
def usesSi (o : SImmOps) : Uses := { src := [codeS o.sa.val], dst := [codeS o.sd.val] }

/-- The registers that an atomic reads as data (R290). -/
def atomRegs (o : AtomOps) : Nat :=
  match o.size with
  | .w32 => if o.op = .cas then 2 else 1
  | .w64 => if o.op = .cas then 4 else 2
  | .bf => 2

def usesAtom (o : AtomOps) (ret : Bool) : Uses :=
  { src := codeS o.sb.val :: o.xv.val :: regRun o.d.val (atomRegs o),
    dst := if ret then regRun o.d.val (if o.size = .w64 then 2 else 1) else [] }

/-- A pair-arithmetic instruction; `wide` when B is 64-bit (R284). -/
def usesPair (o : PairOps) (wide : Bool) : Uses :=
  { src := [2 * o.a.val, 2 * o.a.val + 1] ++ (if wide then srcSrc64 o.b else srcSrc o.b),
    dst := [2 * o.d.val, 2 * o.d.val + 1] }

/-- What an instruction of 32 or 16 bits reads, writes and frees, with its prefix. -/
def usesOf (i : Instr) (p : Option Prefix) : Uses :=
  match i with
  | .iadd o | .isub o | .imul o | .imulh o | .imin o | .imax o | .umin o | .umax o | .and o | .or o | .xor o | .andn o
  | .shl o | .shr o | .sar o | .rot o | .bfx o | .bfxs o | .umulh o | .idiv o | .udiv o | .fadd o | .fsub o | .fmul o
  | .fmin o | .fmax o | .fminn o | .fmaxn o | .badd2 o | .bmul2 o | .bmax2 o | .hadd2 o | .hmul2 o | .hmax2 o
  | .fldexp o => usesV o
  | .bfi o => { usesV o with src := o.d.val :: (usesV o).src }
  | .imad o | .ffma o | .bfma2 o | .hfma2 o => usesFused o p
  | .shflIdx o | .shflUp o | .shflDn o | .shflXor o | .xpush o | .voteEq o =>
    { usesV o with src := (usesV o).src ++ memberSrc p }
  | .voteAll o | .voteAny o | .voteBal o => { usesU o with src := (usesU o).src ++ memberSrc p }
  | .redux o | .scan o | .scanX o => { src := opdSrc o.a ++ memberSrc p, dst := [o.d.val], last := opdLast o.a }
  | .popc o | .clz o | .ctz o | .brev o | .frcp o | .frsq o | .fsqrt o | .fexp2 o | .flog2 o | .fsin o | .fcos o
  | .ftanh o | .frnd o | .ffrac o | .fclass o | .mov o => usesU o
  | .mov64 o => { src := opdSrc64 o.a, dst := [o.d.val, o.d.val + 1], last := opdLast64 o.a }
  | .lut3 o => { src := [o.a.val, o.b.val, o.d.val], dst := [o.d.val],
                 last := (if o.la then [o.a.val] else []) ++ (if o.lb then [o.b.val] else []) }
  | .fcvt o | .fcvtSat o => { src := opdSrc o.a, dst := [o.d.val], last := opdLast o.a }
  | .icmp o | .fcmp o =>
    { src := opdSrc o.a ++ opdSrc o.b, dst := [codeP o.p.val], last := opdLast o.a ++ opdLast o.b }
  | .sel o => { src := psrcSrc o.p ++ [o.a.val, o.b.val], dst := [o.d.val],
                last := (if o.la then [o.a.val] else []) ++ (if o.lb then [o.b.val] else []) }
  | .plop o => { src := psrcSrc o.pa ++ psrcSrc o.pb, dst := [codeP o.pd.val] }
  | .p2v d q => { src := psrcSrc q, dst := [d.val] }
  | .v2p q a => { src := srcSrc a, dst := [codeP q.val] }
  | .elect q => { dst := [codeP q.val] }
  | .pbal d q a => { src := psrcSrc q ++ srcSrc a, dst := [d.val] }
  | .movsr d n => { inner := if n.val = 36 then [codeFp] else [], dst := [d.val] }
  | .movsw _ a => { src := opdSrc a, last := opdLast a }
  | .movil o | .movis o | .movif o => { dst := [o.d.val] }
  | .movih o => { src := [o.d.val], dst := [o.d.val] }
  | .rand d | .randf d => { dst := [d.val] }
  | .rseed a b => { src := opdSrc a ++ opdSrc b, last := opdLast a ++ opdLast b }
  | .rskip a => { src := opdSrc a, last := opdLast a }
  | .npack o => { src := regRun o.a.num (o.idx.val + 1) ++ [o.d.val], dst := [o.d.val] }
  | .nunpk o => { src := srcSrc o.a, dst := regRun o.d.val (o.idx.val + 1) }
  | .next o => { src := srcSrc o.a, dst := [o.d.val] }
  | .nins o => { src := srcSrc o.a ++ [o.d.val], dst := [o.d.val] }
  | .aidx o | .aidxu o | .algn o | .b2a o | .a2b o => usesPair o false
  | .adif o | .aadd o | .asub o => usesPair o true
  | .ld o => usesLd o (srcSrc o.x)
  | .ldv o => usesLd o (srcSrc64 o.x)
  | .st o => usesSt o (srcSrc o.x)
  | .stv o => usesSt o (srcSrc64 o.x)
  | .lda o | .ldc o => { src := codeS o.sb.val :: srcSrc o.x, dst := regRun o.d.val (if o.w64 then 2 else 1) }
  | .str o | .stc o => { src := codeS o.sb.val :: (srcSrc o.x ++ dataSrc o.d (if o.w64 then 2 else 1)) }
  | .atom o => usesAtom o true
  | .atomn o => usesAtom o false
  | .prefL1 o | .prefL2 o | .cinv o => { src := codeS o.sb.val :: srcSrc o.x }
  | .tagwa sa | .tagclr sa | .jyield sa | .fref sa _ | .fdrop sa _ | .fwait sa | .evsig sa _ | .tmset sa | .tlbi sa _ =>
    { src := [codeS sa.val] }
  | .tagwy sd sa | .tagff sd sa | .sysr sd sa _ => { src := [codeS sa.val], dst := [codeS sd.val] }
  | .tagrd sd _ | .qrcv sd _ | .racq sd _ _ | .rqry sd _ | .conerd sd => { dst := [codeS sd.val] }
  | .jpop sd _ => { dst := (regRun sd.val 4).map codeS }
  | .fspawn sd sa => { src := (regRun sa.val 4).map codeS, dst := [codeS sd.val] }
  | .fpoll sd sa q => { src := [codeS sa.val], dst := [codeS sd.val, codeP q.val] }
  | .qsnd sd sa | .sysw sd sa _ => { src := [codeS sd.val, codeS sa.val] }
  | .qpoll sd _ q => { dst := [codeS sd.val, codeP q.val] }
  | .sadd o | .ssub o | .smul o | .smulh o | .sand o | .sor o | .sxor o | .sshl o | .sshr o | .ssar o | .smin o | .smax o
  | .sminu o | .smaxu o | .sdivu o | .smov o => usesS o
  | .saddImm o | .ssubImm o | .smulImm o | .smulhImm o | .sandImm o | .sorImm o | .sxorImm o | .sshlImm o | .sshrImm o
  | .ssarImm o | .sminImm o | .smaxImm o | .sminuImm o | .smaxuImm o | .sdivuImm o | .smovImm o => usesSi o
  | .smoviZ sd _ => { dst := [codeS sd.val] }
  | .smoviH1 sd _ | .smoviH2 sd _ | .smoviH3 sd _ => { inner := [codeS sd.val], dst := [codeS sd.val] }
  | .scmp o => { src := [codeS o.sa.val, codeS o.sb.val], dst := [codeP o.p.val] }
  | .saidx o | .salgn o | .sb2a o | .sa2b o =>
    { src := [codeS o.sa.val, codeS o.sb.val], dst := [codeS o.sd.val] }
  | .rdlane sd a _ | .rdfirst sd a => { src := [a.val], dst := [codeS sd.val] }
  | .scacc o | .scaccUe4m3 o => { src := codeAcc o.ac.val :: codeAcc (4 + o.pl.val) :: (srcSrc o.va ++ regRun o.vb.val 4) }
  | .accrd o => { src := [codeAcc o.ac.val], dst := regRun o.d.val 4 }
  | .accwr o => { src := regRun o.d.val 4 }
  | .plnrd o => { src := [codeAcc (4 + o.pl.val)], dst := regRun o.d.val 4 }
  | .brp q _ _ => { src := [codeP q.val] }
  | .brx a | .callx a => { src := srcSrc64 a }
  | .shlImm o | .shrImm o | .sarImm o | .rotImm o => { src := opdSrc o.a, dst := [o.d.val], last := opdLast o.a }
  | .fshl o | .fshr o => { src := [o.a.val, o.b.val], dst := [o.d.val] }
  | .iaddC o | .isubC o | .imulC o | .andC o | .orC o | .xorC o | .shlC o | .shrC o | .iminC o | .imaxC o | .faddC o
  | .fsubC o | .fmulC o | .fminC o | .fmaxC o => usesC o
  | .movC o => { src := [o.b.val], dst := [o.d.val], last := if o.lb then [o.b.val] else [] }
  | _ => {}

/-- The predicate that a prefix's mask reads. -/
def maskSrc (p : Option Prefix) : List Nat :=
  match p with
  | some q => if q.merge = .none then [] else psrcSrc q.mask
  | none => []

/-- Vector registers among the codes. -/
def vCodes (l : List Nat) : List Nat := l.filter (· < 96)

/-- The bank cost (R22). -/
def bankCost (src : List Nat) : Nat :=
  let v := (vCodes src).eraseDups
  let n := fun (b : Nat) => (v.filter fun r => r % 4 == b).length
  max 1 (max (max (n 0) (n 1)) (max (n 2) (n 3)))

/-- An s register other than s0 is read through a port (R25). -/
def needsSlot (src : List Nat) : Bool := src.any fun r => decide (128 < r) && decide (r < 160)

/-! ## Occupancy (R21) -/

/-- The rows of R21. -/
inductive Occ where
  | lanes | sfu | div | one
deriving DecidableEq, Repr

/-- The largest number of active threads on one lane (R20, R21). -/
def laneMax (act : BitVec 32) : Nat :=
  let n := fun (l : Nat) => ((List.range 8).filter fun k => act.getLsbD (4 * k + l)).length
  max (max (n 0) (n 1)) (max (n 2) (n 3))

/-- The occupancy; an instruction with no active thread has 1 (R53). -/
def occupancy (k : Occ) (c : Nat) (act : BitVec 32) : Nat :=
  if act = 0 then 1
  else
    match k with
    | .lanes => max 1 (c * laneMax act)
    | .sfu => max 1 (c * popCount act)
    | .div => 4 * max 1 (c * laneMax act)
    | .one => 1

/-! ## The prefix (R61, R62) -/

/-- What a prefix may carry besides MASK, NEGM and MERGE. -/
structure Allow where
  rnd : Bool := false
  sat : Bool := false
  c : Bool := false
  members : Bool := false
deriving DecidableEq, Repr

/-- The fields of a prefix suit the instruction. -/
def Allow.ok (k : Allow) (p : Prefix) : Bool :=
  (k.rnd || p.rnd.val == 6) && (k.sat || !p.sat) && (k.members || !p.w)
  && (k.c || decide (p.c = .v 0 false) || (k.members && (match p.c with | .s _ => true | .v _ _ => false)))

/-- The threads of an entry in which a prefix lets the instruction execute (R61). -/
def pfxMask (w : Warp) (p : Option Prefix) (mask : BitVec 32) : BitVec 32 :=
  match p with
  | some q => if q.merge = .none then mask else mask &&& maskOf fun t => pread w q.mask t != q.negm
  | none => mask

/-- The threads of an entry that a prefix zeroes (MERGE 10, R61). -/
def zeroMask (w : Warp) (p : Option Prefix) (mask : BitVec 32) : BitVec 32 :=
  match p with
  | some q => if q.merge = .zero then mask &&& ~~~(pfxMask w p mask) else 0
  | none => 0

end Sys2Proof.Machine
end

