-- ==== Sys2Proof/Machine/Flags.lean ====
section
/-!
DEFINITION. Sys2Proof/Machine/Flags.lean: every flag computation: the effective rounding mode (R94, R99), the sticky
flags of FPSTAT (R98), the generator's counter (R101), and the completion flags (R49, R53 to R55).
-/

namespace Sys2Proof.Machine
open Sys2Proof

/-- The effective rounding mode: the prefix's RND unless it is 110, else FPCTL.DRM (R94). -/
def modeOf (w : Warp) (p : Option Prefix) : Nat :=
  match p with
  | some q => if q.rnd.val = 6 then w.fpctl.toNat % 8 else q.rnd.val
  | none => w.fpctl.toNat % 8

/-- The prefix's SAT. -/
def satOf (p : Option Prefix) : Bool := (p.map Prefix.sat).getD false

/-- The rounding of element j of thread t; SR takes draw16(t, j) (R100). -/
def rndOf (w : Warp) (mode : Nat) (t : Nat) (j : Nat) : Rnd :=
  { mode := mode, u := if mode = 5 then draw16 w.rngLo w.rngHi w.rngCtr t j else 0 }

/-- Flags ORed into FPSTAT (R98). -/
def addFp (w : Warp) (f : Flags) : Warp := { w with fpstat := w.fpstat ||| f.setWidth 32 }

/-- The OR of the flags of the active threads. -/
def orFlags (act : BitVec 32) (f : Fin 32 → Flags) : Flags :=
  (List.finRange 32).foldl (fun acc t => if lane act t then acc ||| f t else acc) 0

/-- The counter after an instruction that draws (R101). -/
def bumpRng (w : Warp) (draws : Bool) : Warp := if draws then { w with rngCtr := w.rngCtr + 1 } else w

/-- Which flag of its clause's header an instruction counts on (R53). -/
inductive Counts where
  | none | setA | setB
deriving DecidableEq, Repr

/-- The instructions that count on SETA and SETB (R53). -/
def countsOf (i : Instr) : Counts :=
  match i with
  | .ld _ | .ldv _ | .lda _ | .ldc _ | .atom _ | .qrcv _ _ | .accrd _ | .plnrd _ => .setA
  | .st _ | .stv _ | .str _ | .stc _ | .atomn _ | .qsnd _ _ | .scacc _ | .scaccUe4m3 _ => .setB
  | _ => .none

/-- The flag an instruction of a body counts on. -/
def flagOf (b : Body) (k : Counts) : Option (Fin 12) :=
  match k with
  | .none => none
  | .setA => b.setA
  | .setB => b.setB

/-- The flags as a mask of busy flags (R55). -/
def busyFlags (w : Warp) : Nat := (List.finRange 12).foldl (fun n i => if w.flags[i.val] = 0 then n else n + 2 ^ i.val) 0

/-- Memory and synchronising instructions, which a fence, an LDA and a pending GO hold back (R155, R330, R356). -/
def isMemSync (i : Instr) : Bool :=
  match i with
  | .ld _ | .ldv _ | .st _ | .stv _ | .lda _ | .ldc _ | .str _ | .stc _ | .atom _ | .atomn _ | .fence _ _ | .bar _ | .bara _
  | .barw _ | .phadv _ | .qsnd _ _ | .qrcv _ _ | .qpoll _ _ _ | .evsig _ _ | .fwait _ | .fpoll _ _ _ | .fspawn _ _ | .jpop _ _
  | .jdone | .jyield _ | .tagwa _ | .tagwy _ _ | .tagff _ _ | .tagrd _ _ => true
  | _ => false

/-- The control-transfer class (R52). -/
def isControl (i : Instr) : Bool :=
  match i with
  | .brp _ _ _ | .bra _ | .call _ | .brx _ | .callx _ | .ret | .exit | .trap _ | .tret | .kret | .halt => true
  | _ => false

end Sys2Proof.Machine
end

