-- ==== Sys2Proof/Machine/Clause.lean ====
section
/-!
DEFINITION. Sys2Proof/Machine/Clause.lean: the frontier (R28 to R31), clause boundaries (R48 to R51), fetching an
instruction's bytes (R47, R431), eligibility and stall reasons (R24 to R27, R55, R266), and the going on of a body or a
transfer of control after an instruction (R30).
-/

namespace Sys2Proof.Machine
open Sys2Proof

/-! ## The frontier (R28, R30, R31) -/

/-- The threads of a warp that have not exited. -/
def liveMask (x : Warp) : BitVec 32 :=
  x.bars.foldl (fun a b => a ||| b.mask) (x.frontier.foldl (fun a e => a ||| e.mask) ((x.body.map Body.mask).getD 0))

/-- An entry put into a frontier: at the place of an existing entry it merges, with the PRIO `p` of the clause there. The spec
does not say which age the merged entry has: it keeps the count of the entry that stood there, and whether that was due
(log 39). -/
def putEntry (e : Entry) (p : BitVec 12) : List Entry → List Entry
  | [] => [e]
  | f :: r =>
    if f.pc = e.pc ∧ f.hdr = e.hdr ∧ f.kernel = e.kernel then
      { f with mask := f.mask ||| e.mask, prio := p, parked := f.parked || e.parked, members := f.members ||| e.members } :: r
    else f :: putEntry e p r

/-- An entry arrives (R30); one with no thread does not. -/
def arrive (m : Memory) (c : Chip) (w : Nat) (e : Entry) : Chip :=
  if e.mask = 0 then c
  else
    let p := headerPrio m c w e.hdr
    modWarp c w fun x => { x with frontier := putEntry e p x.frontier }

/-- Distinct destinations, in the order of their lowest threads. -/
def dests (act : BitVec 32) (f : Fin 32 → W64) : List W64 :=
  ((List.finRange 32).filterMap fun t => if lane act t then some (f t) else none).eraseDups

/-- The threads of a mask that go to a destination. -/
def goers (act : BitVec 32) (f : Fin 32 → W64) (d : W64) : BitVec 32 := act &&& maskOf fun t => f t == d

/-- The running entry leaves the body; the threads of `stay` go to `dest` by thread, with `prio` for a new entry there
(R30). -/
def transfer (m : Memory) (c : Chip) (stay : BitVec 32) (dest : Fin 32 → W64) (prio : Fin 32 → Option (BitVec 12)) : Chip :=
  let w := c.cur.w
  let kernel := ((warpAt c w).body.map Body.kernel).getD false
  let c := modWarp c w fun x => { x with body := none }
  (dests stay dest).foldl (fun c d =>
    let mask := goers stay dest d
    let p := ((lowest mask).bind prio).getD (headerPrio m c w d)
    arrive m c w { pc := d, hdr := d, prio := p, mask := mask, kernel := kernel }) c

/-- The entry goes on behind the instruction at issue, at the next instruction or the next header (R30, R48). -/
def goOn (m : Memory) (c : Chip) : Chip :=
  match (warpAt c c.cur.w).body with
  | none => c
  | some b =>
    if c.cur.next.toNat < b.stop.toNat then
      modWarp c c.cur.w fun x => { x with body := some { b with pc := c.cur.next } }
    else transfer m c b.mask (fun _ => nextHeader b.stop) (fun _ => none)

/-- The issue ends and the entry goes on. -/
def advance (m : Memory) (c : Chip) : Chip := endIssue (goOn m c)

/-- A parked entry's wait is over: every member stands in it, or a member has exited (R250). -/
def unparked (x : Warp) (e : Entry) : Bool :=
  (e.members &&& ~~~e.mask) == 0 || (e.members &&& ~~~(liveMask x)) != 0

/-- An entry that stands parked: it is not selected, and its count has stopped (R250). -/
def stands (x : Warp) (e : Entry) : Bool := e.parked && !unparked x e

/-- An instruction of a warp has issued: its slice is busy for `o` cycles, the other entries of the warp age, and the
counters of R267 count it (R21, R26, R31). One that goes on behind its page walks did so when it issued. -/
def issued (c : Chip) (o : Nat) (act : BitVec 32) : Chip :=
  if c.cur.since.isSome then c else
  let w := c.cur.w
  let c := modSlice c (coreOf w) (sliceOf w) fun k => { k with busy := c.cycle + o }
  let c := modWarp c w fun x =>
    { x with
      issued := x.issued + 1, lastIssue := c.cycle,
      frontier := x.frontier.map fun e => if stands x e || e.kernel != x.kernel then e else { e with age := e.age + 1 } }
  pmEvent (pmEvent c (coreOf w) 1 1) (coreOf w) 2 (popCount act)

/-- The warp issues nothing before a cycle, charged to a stall reason. -/
def holdIssue (c : Chip) (w t why : Nat) : Chip :=
  modWarp c w fun x => if x.nextIssue < t then { x with nextIssue := t, nextWhy := why } else x

/-! ## Fetching (R47, R431) -/

/-- What a fetch of instruction bits finds. -/
inductive Got where
  | word (i : Instr) (size : Nat)
  /-- The line that holds an address is not in the instruction cache. -/
  | miss (x : Xlat) (va : W64)
  | fault (code : BitVec 6) (addr : W64) (replayable : Bool)
deriving DecidableEq, Repr

/-- `n` bits of one line at a virtual address. -/
inductive Bits where
  | val (x : Nat)
  | miss (x : Xlat)
  | fault (code : BitVec 6) (replayable : Bool)
deriving DecidableEq, Repr

def fetchBits (m : Memory) (c : Chip) (w : Nat) (va : W64) (n : Nat) : Bits :=
  match fetchX m c w va.toNat with
  | .fault code r => .fault code r
  | .ok x =>
    match sget (coreAt c (coreOf w)).icache (lineOf x.pa) with
    | some l => if (coreAt c (coreOf w)).icBad.contains (sectorOf x.pa) then .fault cPOISON false
      else .val (fld l.toNat (x.pa.bit % 1024) n)
    | none => if (coreAt c (coreOf w)).icGone.contains (lineOf x.pa) then .fault cPEERGONE false else .miss x

/-- The bytes of halfwords, low byte first. -/
def halfBytes (h : Nat) : List Byte := [BitVec.ofNat 8 h, BitVec.ofNat 8 (h / 256)]

/-- The instruction that bytes decode to; what is no instruction is the step of R71. -/
def decodeOr (bytes : List Byte) : Instr :=
  match decode bytes with
  | .ok (i, _) => i
  | .error _ => .encodingNotAnInstruction

/-- The instruction at a bit address of a body that ends at `stop` (R47, R52). -/
def instrAt (m : Memory) (c : Chip) (w : Nat) (pc stop : W64) : Got :=
  match fetchBits m c w pc 16 with
  | .miss x => .miss x pc
  | .fault code r => .fault code pc r
  | .val h =>
    if h % 2 = 0 then .word (decodeOr (halfBytes h)) 16
    else if stop.toNat < pc.toNat + 32 then .word .encodingNotAnInstruction 16
    else
      match fetchBits m c w (pc + 16) 16 with
      | .miss x => .miss x (pc + 16)
      | .fault code r => .fault code (pc + 16) r
      | .val g => .word (decodeOr (halfBytes h ++ halfBytes g)) 32

/-! ## Selection (R29, R31, R250) -/

/-- The better of two entries: due first, then by count, then by PRIO, then by the lower PC. -/
def better (e f : Entry) : Bool :=
  if e.due != f.due then e.due
  else if e.due && decide (e.age ≠ f.age) then decide (f.age < e.age)
  else if !e.due && decide (e.prio ≠ f.prio) then decide (f.prio.toNat < e.prio.toNat)
  else decide (e.pc.toNat ≤ f.pc.toNat)

/-- The best entry of a list. -/
def best : List Entry → Option Entry
  | [] => none
  | e :: r =>
    match best r with
    | none => some e
    | some f => some (if better e f then e else f)

/-- An entry in the midst of a body, to which a return has led: the body continues (R242). -/
def continues (e : Entry) : Bool := !e.parked && e.pc != e.hdr

/-- The entry a warp runs next: one whose body continues, then of those of its mode that do not stand parked; where all
do, the best of these, whose wait ends in CLX (R29, R241, R242, R250). -/
def select (x : Warp) : Option Entry :=
  let mine := x.frontier.filter fun e => e.kernel == x.kernel
  match best (mine.filter continues), best (mine.filter fun e => !stands x e) with
  | some e, _ => some e
  | none, some e => some e
  | none, none => best mine

/-- The warp stands at a clause boundary: no body runs, and none is to go on before anything else (R242). -/
def atBoundary (x : Warp) : Bool := x.body.isNone && !(select x).any continues

/-- The frontier without an entry. -/
def dropEntry (x : Warp) (e : Entry) : Warp :=
  { x with frontier := x.frontier.filter fun f => !(f.pc == e.pc && f.hdr == e.hdr && f.kernel == e.kernel) }

/-! ## What a warp would do at an issue opportunity -/

/-- The timer of a warp has expired (R45, R240). -/
def timerDue (c : Chip) (x : Warp) : Bool := x.tcmp != 0 && decide (x.tcmp.toNat ≤ c.cycle) && !x.kernel

/-- A set bit of RECLAIM takes the block away at an RP header (R220). -/
def reclaimDue (c : Chip) (w : Nat) (x : Warp) : Bool :=
  match x.block with
  | none => false
  | some g => !x.kernel && (sget c.halts (coreOf w * 256 + g.val)).isNone && (x.rcl || (x.drn && tplDrt c (gTemplate c g.val)))

/-- What an issue opportunity finds for a resident warp. At a clause boundary a fault of the header comes first, then the
transfer, then the timer (R46, R252). -/
inductive Look where
  /-- It is not resident, or suspended in HALT: not counted (R27, R339). -/
  | absent
  /-- Not eligible, with its stall reason; it needs a line that has not been requested. -/
  | stall (why : Nat) (need : Option (Xlat × W64))
  /-- Selecting the entry raises a fault at its header or at bits that cannot be fetched (R47, R50). -/
  | fault (e : Body) (code : BitVec 6) (addr pc : W64) (replayable : Bool)
  /-- The block moves to its reclaim entry (R220), or the timer traps (R45). -/
  | reclaim
  | timer (e : Entry)
  /-- The entry waits parked, and every other is parked or blocked (R250). -/
  | clx (e : Entry)
  /-- Eligible: the body it runs, with the entry that leaves the frontier for it, and its next instruction. -/
  | ready (b : Body) (e : Option Entry) (i : Instr) (size : Nat)
deriving DecidableEq, Repr

/-- The stall reason of a wait (R266). -/
def waitReason (x : Wait) : Option Nat :=
  match x with
  | .none => none
  | .coil _ => some 1
  | .jpop _ => some 2
  | .fwait _ => some 3
  | .bar _ _ _ => some 4
  | .phadv _ => some 5
  | .qrcv _ _ _ => some 6
  | .racq _ _ _ _ => some 8
  | .rrel _ _ => some 8
  | .tagwa _ => some 9
  | .tagwy _ _ => some 9
  | .tagff _ _ => some 9
  | .replay coil => some (if coil then 1 else 12)
  | .fetch => some 0
  | .walk _ => some 12
  | .xlate => some 0
  | .sysw => some 14
  | .tlbi _ _ _ => some 14
  | .halt => some 14
  | .stopped => some 14

/-- The reason of a wait for a result that is outstanding: a load that missed L1, one that a bank has deferred, another
interlock (R125, R266). -/
def lateReason (c : Chip) (x : Warp) (r : Nat) : Nat :=
  if x.missing.contains r then 12
  else
    match sget x.deferral r with
    | some t => if t ≤ c.cycle then 13 else 14
    | none => 14

/-- A register is not available yet (R24). -/
def regWait (c : Chip) (x : Warp) (r : Nat) : Option Nat :=
  match sget x.ready r with
  | none => none
  | some (some t) => if c.cycle < t then some 14 else none
  | some none => some (lateReason c x r)

/-- A destination whose load has not returned. -/
def dstWait (c : Chip) (x : Warp) (r : Nat) : Option Nat := if sget x.ready r = some none then some (lateReason c x r) else none

/-- Its window of 16 towards the destination queue is full (R233); the queue key is that of `pairs`. -/
def sendBlocked (c : Chip) (x : Warp) (core : Nat) (i : Instr) : Bool :=
  match i with
  | .qsnd sd _ =>
    let d := (sread x sd).toNat
    match sget c.pairs ((core * 256 + d % 256) * 4 + fld d 8 2) with
    | some p => decide (16 ≤ p.window.length)
    | none => false
  | _ => false

/-- A store of the engine window waits for the acceptance of the warp's GO (R169). -/
def goBlocked (c : Chip) (x : Warp) (mask : BitVec 32) (i : Instr) : Bool :=
  let held := x.goPending || decide (c.cycle < x.goFree)
  match i with
  | .st o => held && (List.finRange 32).any fun t => lane mask t &&
      inWindow (sread x o.sb + ((src32 x o.x t).signExtend 64) * BitVec.ofNat 64 (wcWidth o.wc.val)).toNat
  | .stv o => held && (List.finRange 32).any fun t => lane mask t && inWindow (sread x o.sb + src64 x o.x t).toNat
  | _ => false

/-- The conditions of R26 other than presence, in the order of R266, for the instruction `i` of a body. -/
def stallOf (c : Chip) (w : Nat) (x : Warp) (b : Body) (first : Nat) (i : Instr) (p : Option Prefix) : Option Nat :=
  let u := usesOf i p
  let regs := (u.src ++ u.inner ++ maskSrc p).filterMap (regWait c x) ++ u.dst.filterMap (dstWait c x)
  let full := match flagOf b (countsOf i) with
    | some f => x.flags[f.val] == 63
    | none => false
  if decide (c.cycle < x.nextIssue) && x.nextWhy == 1 then some 1
  else if sendBlocked c x (coreOf w) i then some 7
  else if goBlocked c x b.mask i then some 10
  else if (first &&& busyFlags x) != 0 || full then some 11
  else if regs.contains 12 then some 12
  else if decide (c.cycle < x.nextIssue) && x.nextWhy != 14 then some x.nextWhy
  else if regs.contains 13 then some 13
  else if decide (c.cycle < x.nextIssue) then some 14
  else if !regs.isEmpty then some 14
  else if isMemSync i && (!x.hold.isEmpty || decide (c.cycle < x.holdUntil)) then some 14
  else if needsSlot u.src && c.cycle % 8 != sliceOf w % 8 then some 15
  else none

/-- A body that is about to run or goes on: its instruction, behind a prefix when it has one, and whether it may
issue. -/
def lookBody (m : Memory) (c : Chip) (w : Nat) (x : Warp) (b : Body) (first : Nat) (e : Option Entry) : Look :=
  match instrAt m c w b.pc b.stop with
  | .miss l va => .stall 0 (some (l, va))
  | .fault code a r => .fault b code a b.pc r
  | .word i n =>
    match i with
    | .pfx p =>
      if (b.pc + BitVec.ofNat 64 n).toNat < b.stop.toNat then
        match instrAt m c w (b.pc + BitVec.ofNat 64 n) b.stop with
        | .miss l va => .stall 0 (some (l, va))
        | .fault code a r => .fault b code a b.pc r
        | .word j _ =>
          match stallOf c w x b first j (some p) with
          | some r => .stall r none
          | none => .ready b e i n
      else
        match stallOf c w x b first i none with
        | some r => .stall r none
        | none => .ready b e i n
    | _ =>
      match stallOf c w x b first i none with
      | some r => .stall r none
      | none => .ready b e i n

/-- The body that an entry starts, or goes on with at its `pc` (R48, R242, R250). -/
def bodyOf (e : Entry) (h : Header) : Body :=
  { hdr := e.hdr, pc := if e.pc = e.hdr then e.hdr + 64 else e.pc, stop := h.stop, prio := e.prio, mask := e.mask,
    setA := h.setA, setB := h.setB, kernel := e.kernel }

/-- A body that stands for an entry whose header cannot be read. -/
def stubOf (e : Entry) : Body :=
  { hdr := e.hdr, pc := e.pc, stop := e.pc, prio := e.prio, mask := e.mask, setA := none, setB := none, kernel := e.kernel }

/-- A blocking instruction of the warp waits, and what it waits for has not come (R26). -/
def blocked (c : Chip) (w : Nat) (x : Warp) : Bool :=
  let coming := c.agenda.any fun e => match e.2 with
    | .wake u _ => u == w
    | .racqGrant u => u.val == w
    | .rrelFree u => u.val == w
    | _ => false
  !coming && match x.wait with
    | .jpop _ | .fwait _ | .bar _ _ _ | .phadv _ | .qrcv _ _ _ | .racq _ _ _ _ | .rrel _ _ | .tagwa _ | .tagwy _ _ | .tagff _ _ => true
    | _ => false

/-- The parked entry whose wait no entry can end, while the running one is blocked (R250). -/
def hopeless (c : Chip) (w : Nat) (x : Warp) : Option Entry :=
  let mine := x.frontier.filter fun e => e.kernel == x.kernel
  if blocked c w x && mine.all (stands x) then best mine else none

/-- The line of the bits that a waiting or halted warp needs next, where they are not present (R266, R431): those behind the
instruction that waits, and those of one that replays (log 39). -/
def lacksBits (m : Memory) (c : Chip) (w : Nat) (x : Warp) : Option (Xlat × W64) :=
  let absent := fun (va : W64) (n : Nat) => match fetchBits m c w va n with
    | .miss l => some (l, va)
    | _ => none
  match x.body with
  | some b =>
    match x.wait with
    | .none | .replay _ | .coil _ | .xlate => absent b.pc 16
    | _ =>
      let next := match instrAt m c w b.pc b.stop with
        | .word _ n => b.pc + BitVec.ofNat 64 n
        | _ => b.pc + 32
      if next.toNat < b.stop.toNat then absent next 16 else absent (nextHeader b.stop) 64
  | none =>
    match select x with
    | some e => absent e.hdr 64
    | none => none

/-- The entry that a warp would run next has come to a BAR of the group whose open generation the warp waits for (R297): R26 lets
nothing else of the warp issue until the barrier returns (log 44). -/
def joinsBar (m : Memory) (c : Chip) (w : Nat) (x : Warp) : Option Look :=
  match x.wait, select x with
  | .bar g gen _, some e =>
    if gen != gGen c g.val || !isMember c w g.val || e.pc != e.hdr then none
    else
      match fetchBits m c w e.hdr 64 with
      | .val v => (readHeader e.hdr v).bind fun h =>
          if (h.rp && reclaimDue c w x) || timerDue c x then none
          else
            match lookBody m c w x (bodyOf e h) h.wait (some e) with
            | .ready b d i n => if i = .bar g then some (.ready b d i n) else none
            | _ => none
      | _ => none
  | _, _ => none

/-- What an issue opportunity finds for a warp (R26). -/
def look (m : Memory) (c : Chip) (w : Nat) : Look :=
  match warp? c w with
  | none => .absent
  | some x =>
    if x.wait = .halt then .absent
    else if x.halted && !x.kernel then
      match lacksBits m c w x with
      | some l => .stall 0 (some l)
      | none => .stall 14 none
    else
      match waitReason x.wait with
      | some r =>
        match joinsBar m c w x, hopeless c w x with
        | some l, _ => l
        | none, some e => .clx e
        | none, none =>
          match lacksBits m c w x with
          | some l => .stall 0 (some l)
          | none => .stall r none
      | none =>
        if x.xfer && !x.kernel && atBoundary x then .reclaim
        else
          match x.body with
          | some b => lookBody m c w x b 0 none
          | none =>
            match select x with
            | none => .stall 14 none
            | some e =>
              match fetchBits m c w e.hdr 64 with
              | .miss l => .stall 0 (some (l, e.hdr))
              | .fault code r => .fault (stubOf e) code e.hdr e.hdr r
              | .val v =>
                match readHeader e.hdr v with
                | none => .fault (stubOf e) cILL 0 e.hdr false
                | some h =>
                  if decide (e.pc = e.hdr) && h.rp && reclaimDue c w x then .reclaim
                  else if decide (e.pc = e.hdr) && timerDue c x then .timer e
                  else lookBody m c w x (bodyOf e h) (if e.parked then 0 else h.wait) (some e)

end Sys2Proof.Machine
end

