-- ==== Sys2Proof/Machine/Issue.lean ====
section
/-!
DEFINITION. Sys2Proof/Machine/Issue.lean: what every instruction does around its own effect: the prefix's legality
(R62), the active threads (R61), RFULL (R35), the write and freeing of registers (R34), occupancy and latency (R21 to
R24), and the going on of the body.
-/

namespace Sys2Proof.Machine
open Sys2Proof

/-- A prefix before the instruction must suit it; none suits one that admits none (R62). -/
def withPfx (a : Option Allow) (f : Act) : Act := fun m c =>
  match c.cur.pfx with
  | none => f m c
  | some p =>
    match a with
    | some k => if k.ok p then f m c else raiseIll c
    | none => raiseIll c

/-- A control transfer stands last in its body (R30, R52). -/
def lastOnly (f : Act) : Act := fun m c =>
  match (warpAt c c.cur.w).body with
  | some b => if b.stop.toNat ≤ c.cur.next.toNat then f m c else raiseIll c
  | none => f m c

/-- Registers of each bank a warp may map (R35). -/
def share (x : Warp) : Nat := (x.floor.toNat + x.headroom.toNat) / 4

/-- The registers that a warp has mapped in a bank. -/
def mappedIn (x : Warp) (b : Nat) : Nat := (x.v.filter fun e => e.1 % 4 == b).length

/-- A first write of these destinations exceeds the share (R35). -/
def exceeds (x : Warp) (dst : List Nat) : Bool :=
  let new := (vCodes dst).eraseDups.filter fun n => (sget x.v n).isNone
  (List.range 4).any fun b =>
    let k := (new.filter fun n => n % 4 == b).length
    decide (0 < k) && decide (share x < mappedIn x b + k)

/-- Results available from a cycle on; s0 never waits. -/
def setReady (x : Warp) (dst : List Nat) (t : Option Nat) : Warp :=
  { x with ready := (dst.filter (· != 128)).foldl (fun r n => sput r n t) x.ready }

/-- The registers that last-read bits free; one that is also written stays (R34). -/
def freeLast (x : Warp) (u : Uses) : Warp := (u.last.filter fun n => !u.dst.contains n).foldl vfree x

/-- The operands of a vector operation: the warp before it, the active threads, the rounding mode and SAT, and the first
free value it may draw. -/
structure In where
  x : Warp
  act : BitVec 32
  mode : Nat
  sat : Bool

/-- What a vector operation writes: registers by thread under a mask, a predicate, floating-point flags, other state of
the warp and of the chip. -/
structure Out32 where
  v : List (Nat × BitVec 32 × (Fin 32 → W32)) := []
  p : Option (PReg × (Fin 32 → Bool)) := none
  fp : Bool := false
  fl : Fin 32 → Flags := fun _ => 0
  post : Warp → Warp := id
  more : Chip → Chip := id

/-- A vector operation's class: the prefix fields it admits, its latency and occupancy, a least bank cost, its uses, and
whether it draws under SR (R101). -/
structure Cls where
  allow : Option Allow
  lat : Nat
  occ : Occ := .lanes
  bank : Nat := 1
  /-- It has no effect with no active thread, MERGE or not (R360). -/
  still : Bool := false
  rounds : Bool := false
  draws : Bool := false

/-- FPSTAT holds the flags of every earlier instruction from the latest of their cycles on (R98). -/
def fpReady (x : Warp) (t : Nat) : Warp :=
  let u := match sget x.ready codeFp with
    | some (some u) => u
    | _ => 0
  setReady x [codeFp] (some (max t u))

/-- The registers of a warp after a vector operation. -/
def aluWrite (x : Warp) (u : Uses) (r : Out32) (act zero : BitVec 32) (t : Nat) : Warp :=
  let x := r.v.foldl (fun x e =>
    let mask := (e.2.1 &&& act) ||| zero
    if mask = 0 then x else vwrite x e.1 mask fun t => if lane act t then e.2.2 t else 0) x
  let x := match r.p with
    | some (n, f) => pwrite x n act f
    | none => x
  let x := if act ||| zero = 0 then x else setReady x u.dst (some t)
  let x := if r.fp then fpReady (addFp x (orFlags act r.fl)) t else x
  freeLast (r.post x) u

/-- A vector operation of the issuing warp. -/
def alu (k : Cls) (u : Uses) (f : In → Out32) : Act := withPfx k.allow fun m c =>
  let w := c.cur.w
  let x := warpAt c w
  let mask := entryMask c
  let act := pfxMask x c.cur.pfx mask
  let zero := if k.still && act == 0 then 0 else zeroMask x c.cur.pfx mask
  if act ||| zero ≠ 0 ∧ exceeds x u.dst then raise c cRFULL (act ||| zero)
  else
    let mode := modeOf x c.cur.pfx
    let r := f { x := x, act := act, mode := mode, sat := satOf c.cur.pfx }
    let o := occupancy k.occ (max k.bank (bankCost u.src)) act
    let c := modWarp c w fun x =>
      bumpRng (aluWrite x u r act zero (c.cycle + max o k.lat)) (k.draws || (k.rounds && mode == 5))
    advance m (issued (r.more c) o act)

/-- A vector operation that writes one register in its active threads. -/
def alu1 (k : Cls) (u : Uses) (d : Nat) (f : In → Fin 32 → W32) : Act :=
  alu k u fun i => { v := [(d, i.act, f i)] }

/-- A vector operation that sets floating-point flags and does not round. -/
def aluFl (k : Cls) (u : Uses) (d : Nat) (f : In → Fin 32 → W32 × Flags) : Act :=
  alu k u fun i => { v := [(d, i.act, fun t => (f i t).1)], fp := true, fl := fun t => (f i t).2 }

/-- A vector operation that rounds into one register, with its flags. -/
def aluFp (k : Cls) (u : Uses) (d : Nat) (f : In → Fin 32 → W32 × Flags) : Act :=
  alu { k with rounds := true } u fun i =>
    { v := [(d, i.act, fun t => (f i t).1)], fp := true, fl := fun t => (f i t).2 }

/-- An instruction of occupancy 1 that acts once for the warp: its effect on the chip, with results ready `lat` cycles
after issue. A format that is no prefix format admits none (R62). -/
def once (lat : Nat) (u : Uses) (f : Act) : Act := withPfx none fun m c =>
  let w := c.cur.w
  let c := f m c
  let c := modWarp c w fun x => setReady x u.dst (some (c.cycle + lat))
  advance m (issued c 1 (entryMask c))

/-- A scalar operation: SD written at issue and ready `lat` cycles later (R66, R385). -/
def scalar (lat : Nat) (u : Uses) (sd : SReg) (f : Warp → W64) : Act :=
  once lat u fun _ c => modWarp c c.cur.w fun x => swrite x sd (f x)

end Sys2Proof.Machine
end

