-- ==== Sys2Proof/Machine/Integer.lean ====
section
/-!
DEFINITION. Sys2Proof/Machine/Integer.lean: integer and logic instructions (R289, R299, R301, R310, R334, R340 to R346,
R357, R366, R371, R382, R386, R409 to R411, R414), their 16-bit forms (R56), and the pointer family (R284, R285).
-/

namespace Sys2Proof.Machine
open Sys2Proof

/-- The least and greatest signed 32-bit integers. -/
def min32 : Int := -2147483648
def max32 : Int := 2147483647

/-- sat_s32 or wrap32 of an exact result (R97). -/
def fit32 (sat : Bool) (v : Int) : W32 := BitVec.ofInt 32 (if sat then max min32 (min max32 v) else v)

/-- A two-source operation of format V; `allow` is what its prefix may carry. -/
def binOp (allow : Option Allow) (o : VOps) (lat : Nat) (f : Bool → W32 → W32 → W32) (occ : Occ := .lanes) : Act :=
  alu1 { allow := allow, lat := lat, occ := occ } (usesV o) o.d.val fun i t => f i.sat (opd32 i.x o.a t) (opd32 i.x o.b t)

/-- A one-source operation of format V. -/
def unOp (o : UnOps) (lat : Nat) (f : W32 → W32) : Act :=
  alu1 { allow := some {}, lat := lat } (usesU o) o.d.val fun i t => f (opd32 i.x o.a t)

/-- The 32-bit word that a 16-bit one abbreviates: D = A = vd, B = vb, LA = 0 (R56). -/
def wide (o : COps) : VOps :=
  { d := ⟨o.d.val, Nat.lt_trans o.d.isLt (by decide)⟩, a := .v ⟨o.d.val, Nat.lt_trans o.d.isLt (by decide)⟩ false,
    b := .v ⟨o.b.val, Nat.lt_trans o.b.isLt (by decide)⟩ o.lb }

/-- A masked run of ones. -/
def ones (n : Nat) : Nat := 2 ^ n - 1

/-- off and len of a field operand (R299). -/
def fieldOff (b : W32) : Nat := b.toNat % 32
def fieldLen (b : W32) : Nat := fld b.toNat 8 5 + 1

/-- Addition, difference and product (R340). -/
def opAdd (sat : Bool) (a b : W32) : W32 := fit32 sat (a.toInt + b.toInt)
def opSub (sat : Bool) (a b : W32) : W32 := fit32 sat (a.toInt - b.toInt)
def opMul (sat : Bool) (a b : W32) : W32 := fit32 sat (a.toInt * b.toInt)
/-- The high half of the signed product (R340). -/
def opMulh (a b : W32) : W32 := BitVec.ofInt 32 (a.toInt * b.toInt / 2 ^ 32)
/-- The high half of the unsigned product (R411). -/
def opUmulh (a b : W32) : W32 := BitVec.ofNat 32 (a.toNat * b.toNat / 2 ^ 32)
/-- Minima and maxima (R346, R410). -/
def opImin (a b : W32) : W32 := if a.toInt ≤ b.toInt then a else b
def opImax (a b : W32) : W32 := if a.toInt ≤ b.toInt then b else a
def opUmin (a b : W32) : W32 := if a.toNat ≤ b.toNat then a else b
def opUmax (a b : W32) : W32 := if a.toNat ≤ b.toNat then b else a
/-- Shifts and rotation by the low five bits (R382, R386). -/
def opShl (a : W32) (n : Nat) : W32 := a <<< (n % 32)
def opShr (a : W32) (n : Nat) : W32 := a >>> (n % 32)
def opSar (a : W32) (n : Nat) : W32 := a.sshiftRight (n % 32)
def opRot (a : W32) (n : Nat) : W32 := BitVec.ofNat 32 (a.toNat * 2 ^ (n % 32) + a.toNat / 2 ^ (32 - n % 32))
/-- Bit fields (R299). -/
def opBfx (a b : W32) : W32 := BitVec.ofNat 32 (fld a.toNat (fieldOff b) (fieldLen b))
def opBfxs (a b : W32) : W32 :=
  BitVec.ofInt 32 (sgn (fieldLen b) (a.sshiftRight (fieldOff b)).toNat)
def opBfi (d a b : W32) : W32 :=
  let m := BitVec.ofNat 32 (ones (fieldLen b) * 2 ^ fieldOff b)
  (d &&& ~~~m) ||| (BitVec.ofNat 32 (a.toNat * 2 ^ fieldOff b) &&& m)
/-- Counts (R310, R371). -/
def opPopc (a : W32) : W32 := BitVec.ofNat 32 (popCount a)
def opClz (a : W32) : W32 := if a = 0 then 32 else BitVec.ofNat 32 (31 - a.toNat.log2)
def opCtz (a : W32) : W32 := BitVec.ofNat 32 (((List.range 32).find? fun i => a.getLsbD i).getD 32)
/-- Bit reversal (R301). -/
def opBrev (a : W32) : W32 := maskOf fun i => a.getLsbD (31 - i.val)
/-- Signed division (R103). -/
def opIdiv (a b : W32) : W32 := if b = 0 then (if a.toInt < 0 then 1 else -1) else BitVec.ofInt 32 (a.toInt.tdiv b.toInt)
/-- Unsigned division (R103). -/
def opUdiv (a b : W32) : W32 := if b = 0 then BitVec.allOnes 32 else BitVec.ofNat 32 (a.toNat / b.toNat)
/-- A table of three inputs, bit by bit (R357). -/
def opLut (tbl : Nat) (a b c : W32) : W32 :=
  maskOf fun i => bit tbl (4 * b1 (lane a i) + 2 * b1 (lane b i) + b1 (lane c i))
/-- Funnel shifts (R334). -/
def opFshl (a b : W32) (n : Nat) : W32 := BitVec.ofNat 32 ((a.toNat * 2 ^ 32 + b.toNat) * 2 ^ n / 2 ^ 32)
def opFshr (a b : W32) (n : Nat) : W32 := BitVec.ofNat 32 ((a.toNat * 2 ^ 32 + b.toNat) / 2 ^ n)

/-- IADD (R340). -/
def execIadd (o : VOps) (s : State) : Ans := run (binOp (some { sat := true }) o 4 fun s a b => opAdd s a b) s

/-- ISUB (R340). -/
def execIsub (o : VOps) (s : State) : Ans := run (binOp (some { sat := true }) o 4 fun s a b => opSub s a b) s

/-- IMUL (R340). -/
def execImul (o : VOps) (s : State) : Ans := run (binOp (some { sat := true }) o 4 fun s a b => opMul s a b) s

/-- IMULH (R340). -/
def execImulh (o : VOps) (s : State) : Ans := run (binOp (some {}) o 4 fun _ a b => opMulh a b) s

/-- IMIN (R346). -/
def execImin (o : VOps) (s : State) : Ans := run (binOp (some {}) o 4 fun _ a b => opImin a b) s

/-- IMAX (R346). -/
def execImax (o : VOps) (s : State) : Ans := run (binOp (some {}) o 4 fun _ a b => opImax a b) s

/-- UMIN (R410). -/
def execUmin (o : VOps) (s : State) : Ans := run (binOp (some {}) o 4 fun _ a b => opUmin a b) s

/-- UMAX (R410). -/
def execUmax (o : VOps) (s : State) : Ans := run (binOp (some {}) o 4 fun _ a b => opUmax a b) s

/-- AND (R289). -/
def execAnd (o : VOps) (s : State) : Ans := run (binOp (some {}) o 4 fun _ a b => a &&& b) s

/-- OR (R366). -/
def execOr (o : VOps) (s : State) : Ans := run (binOp (some {}) o 4 fun _ a b => a ||| b) s

/-- XOR (R414). -/
def execXor (o : VOps) (s : State) : Ans := run (binOp (some {}) o 4 fun _ a b => a ^^^ b) s

/-- ANDN (R289). -/
def execAndn (o : VOps) (s : State) : Ans := run (binOp (some {}) o 4 fun _ a b => a &&& ~~~b) s

/-- SHL (R386). -/
def execShl (o : VOps) (s : State) : Ans := run (binOp (some {}) o 4 fun _ a b => opShl a b.toNat) s

/-- SHR (R386). -/
def execShr (o : VOps) (s : State) : Ans := run (binOp (some {}) o 4 fun _ a b => opShr a b.toNat) s

/-- SAR (R386). -/
def execSar (o : VOps) (s : State) : Ans := run (binOp (some {}) o 4 fun _ a b => opSar a b.toNat) s

/-- ROT (R382). -/
def execRot (o : VOps) (s : State) : Ans := run (binOp (some {}) o 4 fun _ a b => opRot a b.toNat) s

/-- BFX (R299). -/
def execBfx (o : VOps) (s : State) : Ans := run (binOp (some {}) o 4 fun _ a b => opBfx a b) s

/-- BFXS (R299). -/
def execBfxs (o : VOps) (s : State) : Ans := run (binOp (some {}) o 4 fun _ a b => opBfxs a b) s

/-- UMULH (R411). -/
def execUmulh (o : VOps) (s : State) : Ans := run (binOp (some {}) o 4 fun _ a b => opUmulh a b) s

/-- IDIV (R344). -/
def execIdiv (o : VOps) (s : State) : Ans := run (binOp (some {}) o 36 (fun _ a b => opIdiv a b) .div) s

/-- UDIV (R409). -/
def execUdiv (o : VOps) (s : State) : Ans := run (binOp (some {}) o 36 (fun _ a b => opUdiv a b) .div) s

/-- BFI (R299): the old D is a source. -/
def execBfi (o : VOps) (s : State) : Ans := run (alu1 { allow := some {}, lat := 4 } (usesOf (.bfi o) none) o.d.val fun i t =>
    opBfi (vread i.x o.d.val t) (opd32 i.x o.a t) (opd32 i.x o.b t)) s

/-- The addend of a fused operation: the prefix's C, or the old D (R62). -/
def addend (x : Warp) (p : Option Prefix) (d : VReg) (t : Fin 32) : W32 :=
  match p with
  | some q => opd32 x q.c t
  | none => vread x d.val t

/-- IMAD (R345). -/
def execImad (o : VOps) (s : State) : Ans := run (fun m c => alu1 { allow := some { sat := true, c := true }, lat := 4 } (usesFused o c.cur.pfx) o.d.val
    (fun i t => fit32 i.sat ((opd32 i.x o.a t).toInt * (opd32 i.x o.b t).toInt + (addend i.x c.cur.pfx o.d t).toInt)) m c) s

/-- POPC (R371). -/
def execPopc (o : UnOps) (s : State) : Ans := run (unOp o 4 opPopc) s

/-- CLZ (R310). -/
def execClz (o : UnOps) (s : State) : Ans := run (unOp o 4 opClz) s

/-- CTZ (R310). -/
def execCtz (o : UnOps) (s : State) : Ans := run (unOp o 4 opCtz) s

/-- BREV (R301). -/
def execBrev (o : UnOps) (s : State) : Ans := run (unOp o 4 opBrev) s

/-- LUT3 (R357). -/
def execLut3 (o : LutOps) (s : State) : Ans := run (alu1 { allow := some {}, lat := 4 } (usesOf (.lut3 o) none) o.d.val fun i t =>
    opLut o.tbl.val (vread i.x o.a.val t) (vread i.x o.b.val t) (vread i.x o.d.val t)) s

/-- SHL by SH5 (R386). -/
def execShlImm (o : ShOps) (s : State) : Ans := run (alu1 { allow := some {}, lat := 4 } (usesOf (.shlImm o) none) o.d.val
    fun i t => opShl (opd32 i.x o.a t) o.sh.val) s

/-- SHR by SH5 (R386). -/
def execShrImm (o : ShOps) (s : State) : Ans := run (alu1 { allow := some {}, lat := 4 } (usesOf (.shrImm o) none) o.d.val
    fun i t => opShr (opd32 i.x o.a t) o.sh.val) s

/-- SAR by SH5 (R386). -/
def execSarImm (o : ShOps) (s : State) : Ans := run (alu1 { allow := some {}, lat := 4 } (usesOf (.sarImm o) none) o.d.val
    fun i t => opSar (opd32 i.x o.a t) o.sh.val) s

/-- ROT by SH5 (R382). -/
def execRotImm (o : ShOps) (s : State) : Ans := run (alu1 { allow := some {}, lat := 4 } (usesOf (.rotImm o) none) o.d.val
    fun i t => opRot (opd32 i.x o.a t) o.sh.val) s

/-- FSHL (R334). -/
def execFshl (o : FunOps) (s : State) : Ans := run (alu1 { allow := some {}, lat := 4 } (usesOf (.fshl o) none) o.d.val fun i t =>
    opFshl (vread i.x o.a.val t) (vread i.x o.b.val t) o.sh.val) s

/-- FSHR (R334). -/
def execFshr (o : FunOps) (s : State) : Ans := run (alu1 { allow := some {}, lat := 4 } (usesOf (.fshr o) none) o.d.val fun i t =>
    opFshr (vread i.x o.a.val t) (vread i.x o.b.val t) o.sh.val) s

/-- IADD.C (R56). -/
def execIaddC (o : COps) (s : State) : Ans := run (binOp none (wide o) 4 fun s a b => opAdd s a b) s

/-- ISUB.C (R56). -/
def execIsubC (o : COps) (s : State) : Ans := run (binOp none (wide o) 4 fun s a b => opSub s a b) s

/-- IMUL.C (R56). -/
def execImulC (o : COps) (s : State) : Ans := run (binOp none (wide o) 4 fun s a b => opMul s a b) s

/-- AND.C (R56). -/
def execAndC (o : COps) (s : State) : Ans := run (binOp none (wide o) 4 fun _ a b => a &&& b) s

/-- OR.C (R56). -/
def execOrC (o : COps) (s : State) : Ans := run (binOp none (wide o) 4 fun _ a b => a ||| b) s

/-- XOR.C (R56). -/
def execXorC (o : COps) (s : State) : Ans := run (binOp none (wide o) 4 fun _ a b => a ^^^ b) s

/-- SHL.C (R56). -/
def execShlC (o : COps) (s : State) : Ans := run (binOp none (wide o) 4 fun _ a b => opShl a b.toNat) s

/-- SHR.C (R56). -/
def execShrC (o : COps) (s : State) : Ans := run (binOp none (wide o) 4 fun _ a b => opShr a b.toNat) s

/-- IMIN.C (R56). -/
def execIminC (o : COps) (s : State) : Ans := run (binOp none (wide o) 4 fun _ a b => opImin a b) s

/-- IMAX.C (R56). -/
def execImaxC (o : COps) (s : State) : Ans := run (binOp none (wide o) 4 fun _ a b => opImax a b) s

/-! ## The pointer family (R284, R285, R383) -/

/-- wrap64 of an exact integer. -/
def wrap64 (v : Int) : W64 := BitVec.ofInt 64 v

/-- The pointer operations on a 64-bit a, b as an integer and a width (R284, R383). -/
def ptrIdx (a : W64) (b : Int) (w : Nat) : W64 := wrap64 (Int.ofNat a.toNat + b * Int.ofNat w)
def ptrAlign (a : W64) (b w : Nat) : W64 := wrap64 (Int.ofNat ((a.toNat + b) / w * w))
def ptrDif (a b : W64) (w : Nat) : W64 := wrap64 ((a - b).toInt.tdiv (Int.ofNat w))
def ptrB2a (a : W64) (b : Int) (w : Nat) : W64 := wrap64 (8 * Int.ofNat a.toNat + b * Int.ofNat w)
def ptrA2b (a : W64) (b : Int) (w : Nat) : W64 := ptrIdx a b w >>> 3
def ptrSub (a : W64) (b : Int) (w : Nat) : W64 := wrap64 (Int.ofNat a.toNat - b * Int.ofNat w)

/-- An instruction of format VA with a 32-bit B; no prefix (R285). -/
def pairOp (o : PairOps) (f : W64 → W32 → Nat → W64) : Act :=
  alu { allow := none, lat := 4 } (usesPair o false) fun i =>
    let r := fun t => f (pair64 i.x (2 * o.a.val) t) (src32 i.x o.b t) (wcWidth o.wc.val)
    { v := [(2 * o.d.val, i.act, fun t => (r t).setWidth 32), (2 * o.d.val + 1, i.act, fun t => (r t >>> 32).setWidth 32)] }

/-- An instruction of format VA with a 64-bit B. -/
def pairOp64 (o : PairOps) (lat : Nat) (f : W64 → W64 → Nat → W64) : Act :=
  alu { allow := none, lat := lat } (usesPair o true) fun i =>
    let r := fun t => f (pair64 i.x (2 * o.a.val) t) (src64 i.x o.b t) (wcWidth o.wc.val)
    { v := [(2 * o.d.val, i.act, fun t => (r t).setWidth 32), (2 * o.d.val + 1, i.act, fun t => (r t >>> 32).setWidth 32)] }

/-- AIDX (R284). -/
def execAidx (o : PairOps) (s : State) : Ans := run (pairOp o fun a b w => ptrIdx a b.toInt w) s

/-- AIDXU (R284). -/
def execAidxu (o : PairOps) (s : State) : Ans := run (pairOp o fun a b w => ptrIdx a (Int.ofNat b.toNat) w) s

/-- ALGN (R284). -/
def execAlgn (o : PairOps) (s : State) : Ans := run (pairOp o fun a b w => ptrAlign a b.toNat w) s

/-- B2A (R284). -/
def execB2a (o : PairOps) (s : State) : Ans := run (pairOp o fun a b w => ptrB2a a b.toInt w) s

/-- A2B (R284). -/
def execA2b (o : PairOps) (s : State) : Ans := run (pairOp o fun a b w => ptrA2b a b.toInt w) s

/-- ADIF (R284): 8 cycles for widths 3 and 6. -/
def execAdif (o : PairOps) (s : State) : Ans := run (pairOp64 o (if o.wc.val = 2 ∨ o.wc.val = 4 then 8 else 4) ptrDif) s

/-- AADD (R284). -/
def execAadd (o : PairOps) (s : State) : Ans := run (pairOp64 o 4 fun a b w => ptrIdx a b.toInt w) s

/-- ASUB (R284). -/
def execAsub (o : PairOps) (s : State) : Ans := run (pairOp64 o 4 fun a b w => ptrSub a b.toInt w) s

end Sys2Proof.Machine
end

