-- ==== Sys2Proof/Machine/FloatOps.lean ====
section
/-!
DEFINITION. Sys2Proof/Machine/FloatOps.lean: floating-point instructions: FP32 (R318 to R323, R331, R332), packed BF16
and FP16 (R294, R295, R337, R338), conversions (R324 to R326), packed elements (R363, R364) and the warp generator
(R376). Float.lean holds the arithmetic.
-/

namespace Sys2Proof.Machine
open Sys2Proof

/-- A pattern with its flags. -/
def pat (r : Nat × Flags) : W32 × Flags := (BitVec.ofNat 32 r.1, r.2)

/-- Which NaN rule a minimum or maximum follows (R294, R332): the other operand wins, or the NaN. -/
def pickNum (f : Fmt) (max nanWins : Bool) (a b : Nat) : Nat × Flags :=
  let x := decodeFmt f a
  let y := decodeFmt f b
  let fl := sigFlag x ||| sigFlag y
  let nan := f.nan.getD 0
  if x.isNan && y.isNan then (nan, fl)
  else if x.isNan then (if nanWins then nan else b, fl)
  else if y.isNan then (if nanWins then nan else a, fl)
  else
    let aBelow := match numCmp x y with
      | .lt => true
      | .gt => false
      | .eq => x.isNeg
    (if aBelow != max then a else b, fl)

/-- An exact operation of two decoded operands, rounded once. -/
def arith2 (f : Fmt) (op : Rnd → Num → Num → Num × Flags) (r : Rnd) (sat : Bool) (a b : Nat) : Nat × Flags :=
  finish f r sat (op r (decodeFmt f a) (decodeFmt f b))

def opFadd (r : Rnd) (a b : Num) : Num × Flags := exactAdd r a b
def opFsub (r : Rnd) (a b : Num) : Num × Flags := exactAdd r a b.neg
def opFmul (_ : Rnd) (a b : Num) : Num × Flags := exactMul a b

/-- An FP32 operation of two sources (R318). -/
def fpOp (allow : Option Allow) (o : VOps) (op : Rnd → Num → Num → Num × Flags) : Act :=
  aluFp { allow := allow, lat := 6 } (usesV o) o.d.val fun i t =>
    pat (arith2 fp32 op (rndOf i.x i.mode t.val 0) i.sat (opd32 i.x o.a t).toNat (opd32 i.x o.b t).toNat)

/-- An FP32 minimum or maximum (R332). -/
def minOp (allow : Option Allow) (o : VOps) (max nanWins : Bool) : Act :=
  aluFl { allow := allow, lat := 6 } (usesV o) o.d.val fun i t =>
    pat (pickNum fp32 max nanWins (opd32 i.x o.a t).toNat (opd32 i.x o.b t).toNat)

/-- Both 16-bit elements of a result, with the OR of their flags (R90). -/
def both (f : Nat → Nat × Flags) : W32 × Flags :=
  let lo := f 0
  let hi := f 1
  (BitVec.ofNat 32 (lo.1 % 65536 + hi.1 % 65536 * 65536), lo.2 ||| hi.2)

/-- Element i of a packed pair. -/
def half (x : W32) (i : Nat) : Nat := fld x.toNat (16 * i) 16

/-- A packed operation of two sources (R294, R337). -/
def packOp (f : Fmt) (o : VOps) (op : Rnd → Num → Num → Num × Flags) : Act :=
  aluFp { allow := some { rnd := true, sat := true }, lat := 6 } (usesV o) o.d.val fun i t =>
    both fun e => arith2 f op (rndOf i.x i.mode t.val e) i.sat (half (opd32 i.x o.a t) e) (half (opd32 i.x o.b t) e)

/-- A packed fused multiply-add. -/
def packFma (f : Fmt) (o : VOps) : Act := fun m c =>
  aluFp { allow := some { rnd := true, sat := true, c := true }, lat := 6 } (usesFused o c.cur.pfx) o.d.val (fun i t =>
    both fun e =>
      let r := rndOf i.x i.mode t.val e
      finish f r i.sat (exactFma r (decodeFmt f (half (opd32 i.x o.a t) e)) (decodeFmt f (half (opd32 i.x o.b t) e))
        (decodeFmt f (half (addend i.x c.cur.pfx o.d t) e)))) m c

/-- A packed maximum: a NaN loses (R294). -/
def packMax (f : Fmt) (o : VOps) : Act :=
  aluFp { allow := some { rnd := true, sat := true }, lat := 6 } (usesV o) o.d.val fun i t =>
    both fun e => pickNum f true false (half (opd32 i.x o.a t) e) (half (opd32 i.x o.b t) e)

/-- A special function (R323). -/
def sfuOp (o : UnOps) (f : Sfu) : Act :=
  alu { allow := some { rnd := true }, lat := 16, occ := .sfu, rounds := true } (usesU o) fun i =>
    let r := fun (t : Fin 32) => pat (sfu f (rndOf i.x i.mode t.val 0) (opd32 i.x o.a t).toNat)
    { v := [(o.d.val, i.act, fun t => (r t).1)], fp := true, fl := fun t => (r t).2 }

/-- A one-source operation that rounds or flags. -/
def unFl (o : UnOps) (f : Nat → Nat × Flags) : Act :=
  aluFl { allow := some {}, lat := 6 } (usesU o) o.d.val fun i t => pat (f (opd32 i.x o.a t).toNat)

/-- Rounding to an integer value (R331). -/
def roundWhole (r : Rnd) (a : Nat) : Nat × Flags :=
  match decodeFmt fp32 a with
  | .fin neg man exp _ =>
    let (n, nx) := roundAt r neg man exp (max 0 exp) false
    ((roundFmt fp32 rne false (.fin neg n (max 0 exp) false)).1, if nx then fNX else 0)
  | x => roundFmt fp32 rne false x

/-- The fraction of a value, with its sign (R331). -/
def fraction (a : Nat) : Nat × Flags :=
  match decodeFmt fp32 a with
  | .fin neg man exp _ => roundFmt fp32 rne false (.fin neg (if 0 ≤ exp then 0 else man % pow2 (-exp)) exp false)
  | .inf _ => (0x7FC00000, fNV)
  | x => roundFmt fp32 rne false x

/-- a x 2^b rounded once (R331); every b beyond 1000 in magnitude rounds as 1000 does. -/
def scaleBy (r : Rnd) (a : Nat) (b : Int) : Nat × Flags :=
  match decodeFmt fp32 a with
  | .fin neg man exp _ => roundFmt fp32 r false (.fin neg man (exp + max (-1000) (min 1000 b)) false)
  | x => roundFmt fp32 r false x

/-- The class of a value, as one bit (R320). -/
def classOf (a : Nat) : Nat :=
  match decodeFmt fp32 a with
  | .nan s => if s then 1 else 2
  | .inf neg => if neg then 4 else 512
  | .fin neg man _ _ =>
    if man = 0 then (if neg then 32 else 64)
    else if fld a 23 8 = 0 then (if neg then 16 else 128)
    else if neg then 8 else 256

/-- A comparison of two FP32 values (R321). -/
def fpCmp (cond : Nat) (a b : Nat) : Bool × Flags :=
  let x := decodeFmt fp32 a
  let y := decodeFmt fp32 b
  let un := x.isNan || y.isNan
  let fl := sigFlag x ||| sigFlag y ||| (if un && decide (2 ≤ cond) && decide (cond ≤ 5) then fNV else 0)
  let o := numCmp x y
  (match cond with
    | 0 => !un && o == .eq
    | 1 => un || o != .eq
    | 2 => !un && o == .lt
    | 3 => !un && o != .gt
    | 4 => !un && o == .gt
    | 5 => !un && o != .lt
    | 6 => un
    | _ => !un, fl)

/-- A conversion of FP32 into code F of R324, or from it (R325). -/
def convTo (f : Nat) (r : Rnd) (sat : Bool) (a : Nat) : Nat × Flags :=
  if f = 14 then roundToInt true 32 r (decodeFmt fp32 a)
  else if f = 15 then roundToInt false 32 r (decodeFmt fp32 a)
  else roundCode f r sat (decodeFmt fp32 a)

def convFrom (f : Nat) (r : Rnd) (a : Nat) : Nat × Flags :=
  if f = 14 then roundFmt fp32 r false (.fin (decide (sgn 32 a < 0)) (sgn 32 a).natAbs 0 false)
  else if f = 15 then roundFmt fp32 r false (.fin false (a % 2 ^ 32) 0 false)
  else roundFmt fp32 r false (decodeCode f (a % 2 ^ codeWidth f))

/-- FCVT, saturating or not (R325). -/
def cvtOp (o : CvtOps) (always : Bool) : Act :=
  aluFp { allow := some { rnd := true, sat := true }, lat := 6 }
    { src := opdSrc o.a, dst := [o.d.val], last := opdLast o.a } o.d.val fun i t =>
    let r := rndOf i.x i.mode t.val 0
    let a := (opd32 i.x o.a t).toNat
    pat (if o.toF32 then convFrom o.fmt.val r a else convTo o.fmt.val r (always || i.sat) a)

/-! ## Packed elements (R363, R364) -/

/-- Element i of a register in a format. -/
def elem (f : Nat) (x : W32) (i : Nat) : Nat := fld x.toNat (fmtWidth f * i) (fmtWidth f)

/-- Element i of a register replaced. -/
def setElem (f : Nat) (x : W32) (i v : Nat) : W32 :=
  let w := fmtWidth f
  BitVec.ofNat 32 (x.toNat - fld x.toNat (w * i) w * 2 ^ (w * i) + v % 2 ^ w * 2 ^ (w * i))

/-- An element as FP32, exact. -/
def dec (f : Nat) (e : Nat) : Nat × Flags := roundFmt fp32 rne false (decodeCode f e)

/-- Elements 0 to n - 1 of D from FP32 values. -/
def packElems (f : Nat) (g : Nat → Nat × Flags) : Nat → W32 × Flags → W32 × Flags
  | 0, x => x
  | n + 1, x =>
    let (y, fl) := packElems f g n x
    let e := g n
    (setElem f y n e.1, fl ||| e.2)

/-- The cycles per thread of NPACK and NUNPK (R364). -/
def packBank (n : Nat) : Nat := (n + 3) / 4

/-- FADD (R318). -/
def execFadd (o : VOps) (s : State) : Ans := run (fpOp (some { rnd := true, sat := true }) o opFadd) s

/-- FADD.C (R56). -/
def execFaddC (o : COps) (s : State) : Ans := run (fpOp none (wide o) opFadd) s

/-- FSUB (R318). -/
def execFsub (o : VOps) (s : State) : Ans := run (fpOp (some { rnd := true, sat := true }) o opFsub) s

/-- FSUB.C (R56). -/
def execFsubC (o : COps) (s : State) : Ans := run (fpOp none (wide o) opFsub) s

/-- FMUL (R318). -/
def execFmul (o : VOps) (s : State) : Ans := run (fpOp (some { rnd := true, sat := true }) o opFmul) s

/-- FMUL.C (R56). -/
def execFmulC (o : COps) (s : State) : Ans := run (fpOp none (wide o) opFmul) s

/-- FFMA (R318). -/
def execFfma (o : VOps) (s : State) : Ans := run (fun m c =>
  aluFp { allow := some { rnd := true, sat := true, c := true }, lat := 6 } (usesFused o c.cur.pfx) o.d.val (fun i t =>
    let r := rndOf i.x i.mode t.val 0
    pat (finish fp32 r i.sat (exactFma r (decodeFmt fp32 (opd32 i.x o.a t).toNat) (decodeFmt fp32 (opd32 i.x o.b t).toNat)
      (decodeFmt fp32 (addend i.x c.cur.pfx o.d t).toNat)))) m c) s

/-- FMIN (R332). -/
def execFmin (o : VOps) (s : State) : Ans := run (minOp (some {}) o false false) s

/-- FMAX (R332). -/
def execFmax (o : VOps) (s : State) : Ans := run (minOp (some {}) o true false) s

/-- FMINN (R332). -/
def execFminn (o : VOps) (s : State) : Ans := run (minOp (some {}) o false true) s

/-- FMAXN (R332). -/
def execFmaxn (o : VOps) (s : State) : Ans := run (minOp (some {}) o true true) s

/-- FMIN.C (R56). -/
def execFminC (o : COps) (s : State) : Ans := run (minOp none (wide o) false false) s

/-- FMAX.C (R56). -/
def execFmaxC (o : COps) (s : State) : Ans := run (minOp none (wide o) true false) s

/-- FRCP (R323). -/
def execFrcp (o : UnOps) (s : State) : Ans := run (sfuOp o .rcp) s

/-- FRSQ (R323). -/
def execFrsq (o : UnOps) (s : State) : Ans := run (sfuOp o .rsq) s

/-- FSQRT (R323). -/
def execFsqrt (o : UnOps) (s : State) : Ans := run (sfuOp o .sqrt) s

/-- FEXP2 (R323). -/
def execFexp2 (o : UnOps) (s : State) : Ans := run (sfuOp o .exp2) s

/-- FLOG2 (R323). -/
def execFlog2 (o : UnOps) (s : State) : Ans := run (sfuOp o .log2) s

/-- FSIN (R323). -/
def execFsin (o : UnOps) (s : State) : Ans := run (sfuOp o .sin) s

/-- FCOS (R323). -/
def execFcos (o : UnOps) (s : State) : Ans := run (sfuOp o .cos) s

/-- FTANH (R323). -/
def execFtanh (o : UnOps) (s : State) : Ans := run (sfuOp o .tanh) s

/-- BADD2 (R294). -/
def execBadd2 (o : VOps) (s : State) : Ans := run (packOp bf16 o opFadd) s

/-- BMUL2 (R294). -/
def execBmul2 (o : VOps) (s : State) : Ans := run (packOp bf16 o opFmul) s

/-- BFMA2 (R294). -/
def execBfma2 (o : VOps) (s : State) : Ans := run (packFma bf16 o) s

/-- BMAX2 (R294). -/
def execBmax2 (o : VOps) (s : State) : Ans := run (packMax bf16 o) s

/-- HADD2 (R337). -/
def execHadd2 (o : VOps) (s : State) : Ans := run (packOp fp16 o opFadd) s

/-- HMUL2 (R337). -/
def execHmul2 (o : VOps) (s : State) : Ans := run (packOp fp16 o opFmul) s

/-- HFMA2 (R337). -/
def execHfma2 (o : VOps) (s : State) : Ans := run (packFma fp16 o) s

/-- HMAX2 (R337). -/
def execHmax2 (o : VOps) (s : State) : Ans := run (packMax fp16 o) s

/-- FCVT (R324). -/
def execFcvt (o : CvtOps) (s : State) : Ans := run (cvtOp o false) s

/-- FCVT.SAT (R324). -/
def execFcvtSat (o : CvtOps) (s : State) : Ans := run (cvtOp o true) s

/-- FRND (R331). -/
def execFrnd (o : UnOps) (s : State) : Ans := run (aluFp { allow := some { rnd := true }, lat := 6 } (usesU o) o.d.val fun i t =>
    pat (roundWhole (rndOf i.x i.mode t.val 0) (opd32 i.x o.a t).toNat)) s

/-- FFRAC (R331). -/
def execFfrac (o : UnOps) (s : State) : Ans := run (unFl o fraction) s

/-- FCLASS (R320): it sets no flag. -/
def execFclass (o : UnOps) (s : State) : Ans := run (unOp o 6 fun a => BitVec.ofNat 32 (classOf a.toNat)) s

/-- FLDEXP (R331): FPCTL.DRM rounds it. -/
def execFldexp (o : VOps) (s : State) : Ans := run (aluFp { allow := some {}, lat := 6 } (usesV o) o.d.val fun i t =>
    pat (scaleBy (rndOf i.x i.mode t.val 0) (opd32 i.x o.a t).toNat (opd32 i.x o.b t).toInt)) s

/-- FCMP (R321). -/
def execFcmp (o : CmpOps) (s : State) : Ans := run (alu { allow := none, lat := 4 } (usesOf (.fcmp o) none) fun i =>
    let r := fun t => fpCmp o.cond.val (opd32 i.x o.a t).toNat (opd32 i.x o.b t).toNat
    { p := some (o.p, fun t => (r t).1), fp := true, fl := fun t => (r t).2 }) s

/-- NPACK (R363). -/
def execNpack (o : PackOps) (s : State) : Ans := run (aluFp { allow := some { rnd := true, sat := true }, lat := 6, bank := packBank (o.idx.val + 1) }
    (usesOf (.npack o) none) o.d.val fun i t =>
      packElems o.fmt.val (fun e => roundCode o.fmt.val (rndOf i.x i.mode t.val e) i.sat
        (decodeFmt fp32 (vread i.x (o.a.num + e) t).toNat)) (o.idx.val + 1) (vread i.x o.d.val t, 0)) s

/-- NUNPK (R363). -/
def execNunpk (o : PackOps) (s : State) : Ans := run (alu { allow := some {}, lat := 6, bank := packBank (o.idx.val + 1) } (usesOf (.nunpk o) none) fun i =>
    let e := fun (k : Nat) (t : Fin 32) => dec o.fmt.val (elem o.fmt.val (src32 i.x o.a t) k)
    { v := (List.range (o.idx.val + 1)).map fun k => (o.d.val + k, i.act, fun t => BitVec.ofNat 32 (e k t).1),
      fp := true,
      fl := fun t => (List.range (o.idx.val + 1)).foldl (fun f k => f ||| (e k t).2) 0 }) s

/-- NEXT (R363). -/
def execNext (o : PackOps) (s : State) : Ans := run (aluFl { allow := some {}, lat := 6 } (usesOf (.next o) none) o.d.val fun i t =>
    pat (dec o.fmt.val (elem o.fmt.val (src32 i.x o.a t) o.idx.val))) s

/-- NINS (R363). -/
def execNins (o : PackOps) (s : State) : Ans := run (aluFp { allow := some { rnd := true, sat := true }, lat := 6 } (usesOf (.nins o) none) o.d.val fun i t =>
    let r := roundCode o.fmt.val (rndOf i.x i.mode t.val o.idx.val) i.sat (decodeFmt fp32 (src32 i.x o.a t).toNat)
    (setElem o.fmt.val (vread i.x o.d.val t) o.idx.val r.1, r.2)) s

/-- RAND (R376). -/
def execRand (d : VReg) (s : State) : Ans := run (alu { allow := some {}, lat := 8, draws := true } (usesOf (.rand d) none) fun i =>
    { v := [(d.val, i.act, fun t => draw32 i.x.rngLo i.x.rngHi i.x.rngCtr t.val)] }) s

/-- RANDF (R376): exact. -/
def execRandf (d : VReg) (s : State) : Ans := run (alu { allow := some {}, lat := 8, draws := true } (usesOf (.randf d) none) fun i =>
    { v := [(d.val, i.act, fun t => BitVec.ofNat 32
        (roundFmt fp32 rne false (.fin false ((draw32 i.x.rngLo i.x.rngHi i.x.rngCtr t.val).toNat / 256) (-24) false)).1)] }) s

/-- RSEED (R376). -/
def execRseed (a b : Opd) (s : State) : Ans := run (alu { allow := some {}, lat := 4 } (usesOf (.rseed a b) none) fun i =>
    match lowest i.act with
    | some t => { post := fun w => { w with rngLo := opd32 i.x a t, rngHi := opd32 i.x b t, rngCtr := 0 } }
    | none => {}) s

/-- RSKIP (R376). -/
def execRskip (a : Opd) (s : State) : Ans := run (alu { allow := some {}, lat := 4 } (usesOf (.rskip a) none) fun i =>
    match lowest i.act with
    | some t => { post := fun w => { w with rngCtr := w.rngCtr + opd32 i.x a t } }
    | none => {}) s

end Sys2Proof.Machine
end

