-- ==== Sys2Proof/Machine/CrossLane.lean ====
section
/-!
DEFINITION. Sys2Proof/Machine/CrossLane.lean: the cross-lane operations (R378, R379, R389, R390, R393, R394, R413,
R415) with their member sets (R62) and the waiting of W (R250, R251).
-/

namespace Sys2Proof.Machine
open Sys2Proof

/-- The members: the low 32 bits of the s code in C, or all threads (R62). -/
def membersOf (x : Warp) (p : Option Prefix) : BitVec 32 :=
  match p with
  | some q =>
    match q.c with
    | .s n => (sread x n).setWidth 32
    | .v _ _ => BitVec.allOnes 32
  | none => BitVec.allOnes 32

/-- W is set. -/
def waits (p : Option Prefix) : Bool := (p.map Prefix.w).getD false

/-- The running entry parks at the instruction, or at its prefix, until the members stand there (R250). -/
def park (m : Memory) (c : Chip) (members : BitVec 32) : Chip :=
  match (warpAt c c.cur.w).body with
  | none => endIssue c
  | some b =>
    let c := modWarp c c.cur.w fun x => { x with body := none }
    endIssue (arrive m c c.cur.w { pc := c.cur.faultPc, hdr := b.hdr, prio := b.prio, mask := b.mask, parked := true,
                                   members := members, kernel := b.kernel })

/-- Every other entry of the warp's mode is parked and stays so (R250). -/
def deadlocked (x : Warp) : Bool :=
  (x.frontier.filter fun e => e.kernel == x.kernel).all fun e => e.parked && !unparked x e

/-- Another entry waits at the same instruction. -/
def hasPark (x : Warp) (pc hdr : W64) : Bool := x.frontier.any fun e => e.parked && e.pc == pc && e.hdr == hdr

/-- A cross-lane operation: under W it parks until its members stand in the entry, or raises CLX (R250). -/
def cross (allow : Allow) (f : Act) : Act := withPfx (some allow) fun m c =>
  if waits c.cur.pfx then
    let x := warpAt c c.cur.w
    let members := membersOf x c.cur.pfx
    let mask := entryMask c
    let act := pfxMask x c.cur.pfx mask
    let gone := members &&& ~~~(liveMask x)
    let missing := members &&& ~~~mask
    let hdr := (x.body.map Body.hdr).getD 0
    if gone ≠ 0 then raise c cCLX act (gone.setWidth 64) 1
    else if missing = 0 then f m c
    else if deadlocked x && !hasPark x c.cur.faultPc hdr then raise c cCLX act (missing.setWidth 64) 2
    else park m c members
  else f m c

/-- The prefix fields of SHFL, XPUSH and VOTE. -/
def crossAllow : Allow := { members := true }

/-- SHFL from the source thread that `src` names (R393). -/
def shfl (i : Instr) (o : VOps) (src : Nat → Nat → Nat) : Act := cross crossAllow fun m c =>
  alu { allow := some crossAllow, lat := 8 } (usesOf i c.cur.pfx) (fun i =>
    let mem := membersOf i.x c.cur.pfx
    { v := [(o.d.val, i.act &&& mem, fun t =>
        let s : Fin 32 := Fin.ofNat 32 (src t.val ((opd32 i.x o.b t).toNat % 32))
        if lane mem s then opd32 i.x o.a s else opd32 i.x o.a t)] }) m c

/-- VOTE with the result of the members' votes (R413). -/
def vote (i : Instr) (o : UnOps) (f : BitVec 32 → BitVec 32 → W32) : Act := cross crossAllow fun m c =>
  alu { allow := some crossAllow, lat := 8 } (usesOf i c.cur.pfx) (fun i =>
    let mem := membersOf i.x c.cur.pfx
    let votes := mem &&& i.act &&& maskOf fun u => opd32 i.x o.a u != 0
    { v := [(o.d.val, i.act, fun _ => f mem votes)] }) m c

/-! ## REDUX and SCAN -/

/-- The identity of an operation (R378). -/
def redIdentity (op : Nat) : W32 :=
  match op with
  | 1 => 0x7FFFFFFF | 2 => 0x80000000 | 3 => 0xFFFFFFFF | 5 => 0xFFFFFFFF | 8 => 0x80000000 | 9 => 0x7FC00000
  | 10 => 0x7FC00000 | _ => 0

/-- One combination of an operation other than FADD, with its flags. -/
def redStep (op : Nat) (a b : W32) : W32 × Flags :=
  match op with
  | 0 => (a + b, 0)
  | 1 => (opImin a b, 0)
  | 2 => (opImax a b, 0)
  | 3 => (opUmin a b, 0)
  | 4 => (opUmax a b, 0)
  | 5 => (a &&& b, 0)
  | 6 => (a ||| b, 0)
  | 7 => (a ^^^ b, 0)
  | 9 => pat (pickNum fp32 false false a.toNat b.toNat)
  | _ => pat (pickNum fp32 true false a.toNat b.toNat)

/-- x_t: the operand of an active member, the identity elsewhere. -/
def redInput (x : Warp) (o : RedOps) (act mem : BitVec 32) : List W32 :=
  (List.finRange 32).map fun t => if lane (act &&& mem) t then opd32 x o.a t else redIdentity o.op.val

/-- One FADD step that takes draw16(t, j). -/
def redAdd (i : In) (t j : Nat) (a b : W32) : W32 × Flags :=
  pat (arith2 fp32 opFadd (rndOf i.x i.mode t j) i.sat a.toNat b.toNat)

/-- A level k of the FADD tree: pairs combined, node j drawing for thread 2^k x j (R378). -/
def treeLevel (i : In) (k : Nat) : Nat → List W32 → List W32 × Flags
  | j, a :: b :: r =>
    let (y, f) := redAdd i (2 ^ k * j) (k - 1) a b
    let (ys, g) := treeLevel i k (j + 1) r
    (y :: ys, f ||| g)
  | _, l => (l, 0)

/-- The five levels of the tree. -/
def tree (i : In) : Nat → Nat → List W32 × Flags → List W32 × Flags
  | 0, _, l => l
  | n + 1, k, (l, f) => let (m, g) := treeLevel i k 0 l; tree i n (k + 1) (m, f ||| g)

/-- The running combinations of a list from a first value on. -/
def running (op : Nat) : W32 → List W32 → List W32 × Flags
  | a, [] => ([a], 0)
  | a, b :: r =>
    let (y, f) := redStep op a b
    let (ys, g) := running op y r
    (a :: ys, f ||| g)

/-- A level k of the SCAN network (R389): each thread from 2^k on adds the value 2^k below. -/
def netLevel (i : In) (k : Nat) (y : List W32) : List W32 × Flags :=
  (List.range 32).foldl (fun acc t =>
    if t < 2 ^ k then (acc.1 ++ [y.getD t 0], acc.2)
    else
      let (v, f) := redAdd i t k (y.getD (t - 2 ^ k) 0) (y.getD t 0)
      (acc.1 ++ [v], acc.2 ||| f)) ([], 0)

/-- The network from level k on. -/
def network (i : In) : Nat → Nat → List W32 × Flags → List W32 × Flags
  | 0, _, l => l
  | n + 1, k, (l, f) => let (m, g) := netLevel i k l; network i n (k + 1) (m, f ||| g)

/-- A NaN of a floating-point reduction in its canonical form, that of a single operand too (R88, R389). -/
def canonical (op : Nat) (v : W32) : W32 := if 8 ≤ op ∧ (decodeFmt fp32 v.toNat).isNan then 0x7FC00000 else v

/-- All inclusive combinations x_0 to x_t. -/
def scanAll (i : In) (op : Nat) (l : List W32) : List W32 × Flags :=
  let r := if op = 8 then network i 5 0 (l, 0)
    else
      match l with
      | [] => ([], 0)
      | a :: r => running op a r
  (r.1.map (canonical op), r.2)

/-- The combination of all 32 inputs. -/
def reduce (i : In) (op : Nat) (l : List W32) : W32 × Flags :=
  if op = 8 then
    let (y, f) := tree i 5 1 (l, 0)
    (y.headD 0, f)
  else
    let (y, f) := scanAll i op l
    (y.getLast?.getD 0, f)

/-- The prefix fields and the latency of an operation code. -/
def redAllow (op : Nat) : Allow := { rnd := op == 8, sat := op == 8, members := true }
def redLat (op : Nat) : Nat := if op = 8 then 20 else 12

/-- Flags that the warp sets once, through its lowest active thread. -/
def onceFlags (act : BitVec 32) (f : Flags) (t : Fin 32) : Flags := if lowest act = some t then f else 0

/-- REDUX or a SCAN, whose result by thread is `f` of the inputs. -/
def redOp (i : Instr) (o : RedOps) (f : In → List W32 → (Fin 32 → W32) × Flags) : Act := cross (redAllow o.op.val) fun m c =>
  alu { allow := some (redAllow o.op.val), lat := redLat o.op.val, rounds := o.op.val == 8 } (usesOf i c.cur.pfx) (fun i =>
    let r := f i (redInput i.x o i.act (membersOf i.x c.cur.pfx))
    { v := [(o.d.val, i.act, r.1)], fp := decide (8 ≤ o.op.val), fl := onceFlags i.act r.2 }) m c

/-- SHFL.IDX (R393). -/
def execShflIdx (o : VOps) (s : State) : Ans := run (shfl (.shflIdx o) o fun _ b => b) s

/-- SHFL.UP (R393). -/
def execShflUp (o : VOps) (s : State) : Ans := run (shfl (.shflUp o) o fun t b => if t < b then t else t - b) s

/-- SHFL.DN (R393). -/
def execShflDn (o : VOps) (s : State) : Ans := run (shfl (.shflDn o) o fun t b => if 31 < t + b then t else t + b) s

/-- SHFL.XOR (R393). -/
def execShflXor (o : VOps) (s : State) : Ans := run (shfl (.shflXor o) o fun t b => t ^^^ b) s

/-- XPUSH (R415): of several sources the highest-numbered lands (R251). -/
def execXpush (o : VOps) (s : State) : Ans := run (cross crossAllow fun m c =>
    alu { allow := some crossAllow, lat := 8 } (usesOf (.xpush o) c.cur.pfx) (fun i =>
      let mem := membersOf i.x c.cur.pfx
      let from_ := fun (t : Fin 32) => (List.finRange 32).reverse.find? fun u =>
        lane (i.act &&& mem) u && (opd32 i.x o.b u).toNat % 32 == t.val
      { v := [(o.d.val, i.act &&& mem &&& maskOf fun t => (from_ t).isSome, fun t =>
          (from_ t).elim 0 fun u => opd32 i.x o.a u)] }) m c) s

/-- VOTE.ALL (R413). -/
def execVoteAll (o : UnOps) (s : State) : Ans := run (vote (.voteAll o) o fun mem v => if v = mem then 1 else 0) s

/-- VOTE.ANY (R413). -/
def execVoteAny (o : UnOps) (s : State) : Ans := run (vote (.voteAny o) o fun _ v => if v = 0 then 0 else 1) s

/-- VOTE.BAL (R413). -/
def execVoteBal (o : UnOps) (s : State) : Ans := run (vote (.voteBal o) o fun _ v => v) s

/-- VOTE.EQ (R413). -/
def execVoteEq (o : VOps) (s : State) : Ans := run (cross crossAllow fun m c =>
    alu { allow := some crossAllow, lat := 8 } (usesOf (.voteEq o) c.cur.pfx) (fun i =>
      let mem := membersOf i.x c.cur.pfx
      { v := [(o.d.val, i.act, fun t => mem &&& i.act &&& maskOf fun u => opd32 i.x o.a u == opd32 i.x o.b t)] }) m c) s

/-- REDUX (R378). -/
def execRedux (o : RedOps) (s : State) : Ans := run (redOp (.redux o) o fun i l =>
    let r := reduce i o.op.val l
    (fun _ => r.1, r.2)) s

/-- SCAN (R389). -/
def execScan (o : RedOps) (s : State) : Ans := run (redOp (.scan o) o fun i l =>
    let r := scanAll i o.op.val l
    (fun t => r.1.getD t.val 0, r.2)) s

/-- SCAN.X (R389). -/
def execScanX (o : RedOps) (s : State) : Ans := run (redOp (.scanX o) o fun i l =>
    let r := scanAll i o.op.val l
    (fun t => if t.val = 0 then redIdentity o.op.val else r.1.getD (t.val - 1) 0, r.2)) s

end Sys2Proof.Machine
end

