-- ==== Sys2Proof/Machine/Phase.lean ====
section
/-!
DEFINITION. Sys2Proof/Machine/Phase.lean: the phase counters of cores (R235, R236) as operations: what a new PHASE
sends, and when a PHADV of a group advances.
-/

namespace Sys2Proof.Machine
open Sys2Proof

/-- The phase of core n as core m holds it (R236). -/
def seenAt (c : Chip) (m n : Nat) : W32 := (sget (coreAt c m).seen n).getD 0

/-- The time a phase value takes from core n to core m (R236). -/
def phaseDelay (n m : Nat) : Nat := 12 + leg (clusterOf n) (clusterOf m) + bridge (clusterOf n) (clusterOf m)

/-- A new PHASE of core n goes to every core, which holds it from its arrival on (R236). -/
def sendPhase (c : Chip) (n : CoreId) (v : W32) : Chip :=
  (List.finRange 192).foldl (fun c k => after c (phaseDelay n.val k.val) (.phaseValueArrival n k v)) c

/-- The member warps of group g on a core. -/
def membersOn (c : Chip) (core g : Nat) : List Nat := (warpsOfCore c core).filter fun w => isMember c w g

/-- A core holds a live group: a warp of it is a member of a valid one (R41, R235). -/
def holdsGroup (c : Chip) (core : Nat) : Bool := (warpsOfCore c core).any fun w => (memberships c w).any fun g => gValid c g

/-- Step 2 of R235 for group g on a core. -/
def phaseBound (c : Chip) (core g : Nat) : Bool :=
  let k := coreAt c core
  (List.range (gNnb c g)).all fun i =>
    let n := gNb c g i
    decide (192 ≤ n) || !holdsGroup c n
      || decide ((k.phase + 1 - seenAt c core n).toInt ≤ Int.ofNat k.phAllow.toNat)

/-- The warps that wait in PHADV on a core for group g. -/
def phaseWaiters (c : Chip) (core : Nat) (g : Fin 256) : List Nat :=
  (membersOn c core g.val).filter fun w => decide ((warpAt c w).wait = .phadv g)

/-- A warp has arrived at PHADV of a group with its stores performed (R235). Until the end of the cycle one that has abandoned it
counts, since an advance of that cycle stands (R368). -/
def phaseArrived (c : Chip) (w : Nat) (g : Fin 256) : Bool :=
  (decide ((warpAt c w).wait = .phadv g) && (warpAt c w).phaseReady) || c.abandoned.contains (w, .phadv g)

/-- A PHADV of group g on a core advances: every member there has arrived with its stores performed, and the neighbours
allow it (R235). -/
def phaseHolds (c : Chip) (core : Nat) (g : Fin 256) : Bool :=
  let ws := membersOn c core g.val
  !ws.isEmpty && ws.all (phaseArrived c · g) && phaseBound c core g.val

/-- The PHADVs of a core are looked at in this cycle. -/
def checkPhase (c : Chip) (core : Nat) : Chip :=
  if h : core < 192 then
    if (List.finRange 256).any fun g => phaseHolds c core g then after c 0 (.phaseAdvance ⟨core, h⟩) else c
  else c

/-- Every core on which a warp waits in PHADV is looked at: a member or a neighbour's group may have ended (R235). -/
def checkPhases (c : Chip) : Chip :=
  ((c.warps.filterMap fun e => match e.2.wait with
    | .phadv _ => some (coreOf e.1)
    | _ => none).eraseDups).foldl checkPhase c

end Sys2Proof.Machine
end

