-- ==== Sys2Proof/Machine/Moves.lean ====
section
/-!
DEFINITION. Sys2Proof/Machine/Moves.lean: predicates, selection and moves (R312, R343, R358, R359, R367, R370, R392,
R412), and the special registers of R69 with MOVSR and MOVSW (R360 to R362).
-/

namespace Sys2Proof.Machine
open Sys2Proof

/-- The conditions of ICMP and SCMP on n bits (R63, R343, R391). -/
def intCmp (cond : Nat) (n : Nat) (a b : BitVec n) : Bool :=
  match cond with
  | 0 => a == b
  | 1 => a != b
  | 2 => decide (a.toInt < b.toInt)
  | 3 => decide (a.toInt ≤ b.toInt)
  | 4 => decide (b.toInt < a.toInt)
  | 5 => decide (b.toInt ≤ a.toInt)
  | 6 => decide (a.toNat < b.toNat)
  | _ => decide (b.toNat ≤ a.toNat)

/-- The four status bits pairs of tags 16k to 16k + 15 (R69, R170). -/
def tagStatus (c : Core) (k : Nat) : Nat :=
  (List.finRange 64).foldl (fun acc t =>
    if t.val / 16 = k then
      match c.tags[t.val] with
      | .done s => acc + s.val * 4 ^ (t.val % 16)
      | _ => acc
    else acc) 0

/-- The messages held in the queues (R230). -/
def qstat (c : Core) : Nat :=
  (List.finRange 4).foldl (fun acc q => acc + c.queues[q.val].length * 256 ^ q.val) 0

/-- The value of special register n for a thread (R69); CONE_LO is filled in when the cycle's stamps are issued (R257). -/
def sreg (c : Chip) (w : Nat) (x : Warp) (n : Nat) (t : Fin 32) : W32 :=
  let core := coreAt c (coreOf w)
  let nat := fun (v : Nat) => BitVec.ofNat 32 v
  match n with
  | 0 => nat t.val
  | 1 => nat (slotOf w)
  | 2 => nat (sliceOf w)
  | 3 => nat (coreOf w)
  | 4 => nat (clusterOf (coreOf w))
  | 5 => c.chipNo.setWidth 32
  | 6 => x.part.setWidth 32
  | 7 => nat (b1 x.kernel)
  | 8 => match x.job with
    | some j => j.setWidth 32
    | none => 0x80000000
  | 9 => x.tile
  | 10 => core.tagBmp.setWidth 32
  | 11 => (core.tagBmp >>> 32).setWidth 32
  | 12 => nat (tagStatus core 0)
  | 13 => nat (tagStatus core 1)
  | 14 => nat (tagStatus core 2)
  | 15 => nat (tagStatus core 3)
  | 16 => nat c.cycle
  | 17 => x.latches.cycle.getD (nat (c.cycle / 2 ^ 32))
  | 18 => x.tcmp.setWidth 32
  | 19 => x.latches.tcmp.getD ((x.tcmp >>> 32).setWidth 32)
  | 20 => x.tvec
  | 21 => x.tepc
  | 22 => x.tcause
  | 23 => 0
  | 24 => x.latches.cone.getD ((c.lastStamp >>> 32).setWidth 32)
  | 25 => nat (regionId x 0)
  | 26 => x.rgnDepth.setWidth 32
  | 27 => core.phase
  | 28 => core.phAllow.setWidth 32
  | 29 => (x.csp[t.val]).setWidth 32
  | 30 => (x.csp[t.val] >>> 32).setWidth 32
  | 31 => x.coilDep[t.val]
  | 32 => x.rngCtr
  | 33 => x.rngLo
  | 34 => x.rngHi
  | 35 => x.fpctl
  | 36 => x.fpstat
  | 37 => nat (qstat core)
  | 38 => nat (x.block.elim 0 fun g => gMbox c g.val)
  | 39 => x.floor.setWidth 32
  | 40 => x.headroom.setWidth 32
  | 41 => nat (busyFlags x)
  | _ => nat (b1 x.rcl + 2 * b1 x.drn + 256 * x.jobGen.toNat)

/-- The half that a read latches (R69). -/
def latchHigh (c : Chip) (x : Warp) (n : Nat) : Warp :=
  match n with
  | 16 => { x with latches := { x.latches with cycle := some (BitVec.ofNat 32 (c.cycle / 2 ^ 32)) } }
  | 18 => { x with latches := { x.latches with tcmp := some ((x.tcmp >>> 32).setWidth 32) } }
  | _ => x

/-- The Access column of R69: read and written everywhere, or written in kernel mode alone. -/
def isRW (n : Nat) : Bool := [10, 11, 18, 19, 20, 21, 22, 29, 30, 32, 33, 34, 35, 36].contains n
def isRK (n : Nat) : Bool := n == 27 || n == 28

/-- The low or high half of a 64-bit register replaced. -/
def setLow (x : W64) (v : W32) : W64 := (x &&& 0xFFFFFFFF00000000) ||| v.setWidth 64
def setHigh (x : W64) (v : W32) : W64 := (x &&& 0xFFFFFFFF) ||| (v.setWidth 64 <<< 32)

/-- The per-warp and per-thread registers that MOVSW writes: `v` from the lowest active thread, `f` by thread (R360). Of bits that no
row of R69 names, the model keeps those of TCAUSE as written, and drops those of PHALLOW (coreWrite; log 39). -/
def sregWrite (x : Warp) (n : Nat) (v : W32) (act : BitVec 32) (f : Fin 32 → W32) : Warp :=
  match n with
  | 18 => { x with tcmp := setLow x.tcmp v }
  | 19 => { x with tcmp := setHigh x.tcmp v }
  | 20 => { x with tvec := v }
  | 21 => { x with tepc := v }
  | 22 => { x with tcause := v }
  | 29 => { x with csp := Vector.ofFn fun t => if lane act t then setLow x.csp[t.val] (f t) else x.csp[t.val] }
  | 30 => { x with csp := Vector.ofFn fun t => if lane act t then setHigh x.csp[t.val] (f t) else x.csp[t.val] }
  | 32 => { x with rngCtr := v }
  | 33 => { x with rngLo := v }
  | 34 => { x with rngHi := v }
  | 35 => { x with fpctl := if 6 ≤ v.toNat % 8 then 0 else BitVec.ofNat 32 (v.toNat % 8) }
  | 36 => { x with fpstat := BitVec.ofNat 32 (v.toNat % 32) }
  | _ => x

/-- The per-core registers that MOVSW writes; a new PHASE goes to the neighbours (R236, R361). -/
def coreWrite (c : Chip) (core n : Nat) (v : W32) : Chip :=
  match n with
  | 10 => modCore c core fun k => { k with tagBmp := setLow k.tagBmp v }
  | 11 => modCore c core fun k => { k with tagBmp := setHigh k.tagBmp v }
  | 27 =>
    let c := modCore c core fun k => { k with phase := v }
    let c := if h : core < 192 then sendPhase c ⟨core, h⟩ v else c
    checkPhase c core
  | 28 => checkPhase (modCore c core fun k => { k with phAllow := v.setWidth 8 }) core
  | _ => c

/-- ICMP (R343). -/
def execIcmp (o : CmpOps) (s : State) : Ans := run (alu { allow := none, lat := 4 } (usesOf (.icmp o) none) fun i =>
    { p := some (o.p, fun t => intCmp o.cond.val 32 (opd32 i.x o.a t) (opd32 i.x o.b t)) }) s

/-- SEL (R392). -/
def execSel (o : SelOps) (s : State) : Ans := run (alu1 { allow := none, lat := 4 } (usesOf (.sel o) none) o.d.val fun i t =>
    if pread i.x o.p t then vread i.x o.a.val t else vread i.x o.b.val t) s

/-- PLOP (R370). -/
def execPlop (o : PlopOps) (s : State) : Ans := run (alu { allow := none, lat := 4 } (usesOf (.plop o) none) fun i =>
    { p := some (o.pd, fun t => bit o.tbl.val (2 * b1 (pread i.x o.pa t) + b1 (pread i.x o.pb t))) }) s

/-- P2V (R367). -/
def execP2v (d : VReg) (p : PSrc) (s : State) : Ans := run (alu1 { allow := none, lat := 4 } (usesOf (.p2v d p) none) d.val fun i t =>
    BitVec.ofNat 32 (b1 (pread i.x p t))) s

/-- V2P (R412). -/
def execV2p (p : PReg) (a : Src) (s : State) : Ans := run (alu { allow := none, lat := 4 } (usesOf (.v2p p a) none) fun i =>
    { p := some (p, fun t => src32 i.x a t != 0) }) s

/-- ELECT (R312). -/
def execElect (p : PReg) (s : State) : Ans := run (alu { allow := none, lat := 4 } (usesOf (.elect p) none) fun i =>
    { p := some (p, fun t => decide (lowest i.act = some t)) }) s

/-- PBAL (R367). -/
def execPbal (d : VReg) (p : PSrc) (a : Src) (s : State) : Ans := run (alu1 { allow := none, lat := 8 } (usesOf (.pbal d p a) none) d.val fun i t =>
    BitVec.ofNat 32 (popCount ((maskOf fun u => lane i.act u && pread i.x p u) &&& src32 i.x a t))) s

/-- MOV (R358). -/
def execMov (o : UnOps) (s : State) : Ans := run (unOp o 4 fun a => a) s

/-- MOV.C (R56). -/
def execMovC (o : COps) (s : State) : Ans := run (alu1 { allow := none, lat := 4 } (usesOf (.movC o) none) o.d.val fun i t => vread i.x o.b.val t) s

/-- MOV64 (R358). -/
def execMov64 (o : UnOps) (s : State) : Ans := run (alu { allow := some {}, lat := 4 } (usesOf (.mov64 o) none) fun i =>
    { v := [(o.d.val, i.act, fun t => (opd64 i.x o.a t).setWidth 32),
            (o.d.val + 1, i.act, fun t => (opd64 i.x o.a t >>> 32).setWidth 32)] }) s

/-- MOVIL (R359). -/
def execMovil (o : ImmOps) (s : State) : Ans := run (alu1 { allow := some {}, lat := 4 } (usesOf (.movil o) none) o.d.val fun _ _ =>
    BitVec.ofNat 32 o.imm.val) s

/-- MOVIH (R359). -/
def execMovih (o : ImmOps) (s : State) : Ans := run (alu1 { allow := some {}, lat := 4 } (usesOf (.movih o) none) o.d.val fun i t =>
    BitVec.ofNat 32 (o.imm.val * 65536 + (vread i.x o.d.val t).toNat % 65536)) s

/-- MOVIS (R359). -/
def execMovis (o : ImmOps) (s : State) : Ans := run (alu1 { allow := some {}, lat := 4 } (usesOf (.movis o) none) o.d.val fun _ _ =>
    BitVec.ofInt 32 (sgn 16 o.imm.val)) s

/-- MOVIF (R359). -/
def execMovif (o : ImmOps) (s : State) : Ans := run (alu1 { allow := some {}, lat := 4 } (usesOf (.movif o) none) o.d.val fun _ _ =>
    BitVec.ofNat 32 (o.imm.val * 65536)) s

/-- MOVSR (R360 to R362): a read of CONE_LO takes a stamp, and the low halves latch the high ones. -/
def execMovsr (d : VReg) (n : Fin 43) (s : State) : Ans := run (fun m c =>
    let w := c.cur.w
    alu { allow := some {}, lat := if n.val = 23 ∨ n.val = 24 then 8 else 4, still := true } (usesOf (.movsr d n) none) (fun i =>
      { v := [(d.val, i.act, fun t => sreg c w i.x n.val t)],
        post := fun x => if i.act = 0 then x else latchHigh c x n.val,
        more := fun c => if i.act ≠ 0 ∧ n.val = 23 then stampFor c w (.coneLo w d.val i.act) else c }) m c) s

/-- MOVSW (R360 to R362): a read-only register is ILL, and a kernel-only one PRIV in worker mode. -/
def execMovsw (n : Fin 43) (a : Opd) (s : State) : Ans := run (fun m c =>
    let w := c.cur.w
    if !isRW n.val && !isRK n.val then raiseIll c
    else
      (withPfx (some {}) fun m c =>
        let act := pfxMask (warpAt c w) c.cur.pfx (entryMask c)
        if isRK n.val && !(warpAt c w).kernel && act != 0 then raise c cPRIV act
        else
          alu { allow := some {}, lat := 4, still := true } (usesOf (.movsw n a) none) (fun i =>
            match lowest i.act with
            | some t =>
              { post := fun x => sregWrite x n.val (opd32 i.x a t) i.act (opd32 i.x a),
                more := fun c => coreWrite c (coreOf w) n.val (opd32 i.x a t) }
            | none => {}) m c) m c) s

end Sys2Proof.Machine
end

