-- ==== Sys2Proof/Machine/Scalar.lean ====
section
/-!
DEFINITION. Sys2Proof/Machine/Scalar.lean: the scalar ALU (R66, R384, R385), the scalar pointer family (R383), SMOVI
(R395), SCMP (R391), and the reads of one thread's vector register (R377).
-/

namespace Sys2Proof.Machine
open Sys2Proof

/-- The operations of R384. -/
def salu (op : Nat) (a b : W64) : W64 :=
  match op with
  | 0 => a + b
  | 1 => a - b
  | 2 => a * b
  | 3 => BitVec.ofInt 64 (a.toInt * b.toInt / 2 ^ 64)
  | 4 => a &&& b
  | 5 => a ||| b
  | 6 => a ^^^ b
  | 7 => a <<< (b.toNat % 64)
  | 8 => a >>> (b.toNat % 64)
  | 9 => a.sshiftRight (b.toNat % 64)
  | 10 => if a.toInt ≤ b.toInt then a else b
  | 11 => if a.toInt ≤ b.toInt then b else a
  | 12 => if a.toNat ≤ b.toNat then a else b
  | 13 => if a.toNat ≤ b.toNat then b else a
  | 14 => if b = 0 then BitVec.allOnes 64 else BitVec.ofNat 64 (a.toNat / b.toNat)
  | _ => b

/-- Cycles until SD is ready (R385). -/
def saluLat (op : Nat) : Nat := if op = 2 ∨ op = 3 then 6 else if op = 14 then 36 else 4

/-- The register form. -/
def saluReg (op : Nat) (o : SOps) : Act :=
  scalar (saluLat op) (usesS o) o.sd fun x => salu op (sread x o.sa) (sread x o.sb)

/-- The immediate form: sext64(IMM10). -/
def saluImm (op : Nat) (o : SImmOps) : Act :=
  scalar (saluLat op) (usesSi o) o.sd fun x => salu op (sread x o.sa) (BitVec.ofInt 64 (sgn 10 o.imm.val))

/-- A 16-bit part of SD replaced (R395). -/
def setPart (x : W64) (k imm : Nat) : W64 :=
  BitVec.ofNat 64 (x.toNat - fld x.toNat (16 * k) 16 * 2 ^ (16 * k) + imm * 2 ^ (16 * k))

/-- A scalar pointer operation (R383). -/
def saOp (o : SaOps) (f : W64 → W64 → Nat → W64) : Act :=
  scalar 4 { src := [codeS o.sa.val, codeS o.sb.val], dst := [codeS o.sd.val] } o.sd fun x =>
    f (sread x o.sa) (sread x o.sb) (wcWidth o.wc.val)

/-- SADD (R384). -/
def execSadd (o : SOps) (s : State) : Ans := run (saluReg 0 o) s

/-- SADD with an immediate (R384). -/
def execSaddImm (o : SImmOps) (s : State) : Ans := run (saluImm 0 o) s

/-- SSUB (R384). -/
def execSsub (o : SOps) (s : State) : Ans := run (saluReg 1 o) s

/-- SSUB with an immediate (R384). -/
def execSsubImm (o : SImmOps) (s : State) : Ans := run (saluImm 1 o) s

/-- SMUL (R384). -/
def execSmul (o : SOps) (s : State) : Ans := run (saluReg 2 o) s

/-- SMUL with an immediate (R384). -/
def execSmulImm (o : SImmOps) (s : State) : Ans := run (saluImm 2 o) s

/-- SMULH (R384). -/
def execSmulh (o : SOps) (s : State) : Ans := run (saluReg 3 o) s

/-- SMULH with an immediate (R384). -/
def execSmulhImm (o : SImmOps) (s : State) : Ans := run (saluImm 3 o) s

/-- SAND (R384). -/
def execSand (o : SOps) (s : State) : Ans := run (saluReg 4 o) s

/-- SAND with an immediate (R384). -/
def execSandImm (o : SImmOps) (s : State) : Ans := run (saluImm 4 o) s

/-- SOR (R384). -/
def execSor (o : SOps) (s : State) : Ans := run (saluReg 5 o) s

/-- SOR with an immediate (R384). -/
def execSorImm (o : SImmOps) (s : State) : Ans := run (saluImm 5 o) s

/-- SXOR (R384). -/
def execSxor (o : SOps) (s : State) : Ans := run (saluReg 6 o) s

/-- SXOR with an immediate (R384). -/
def execSxorImm (o : SImmOps) (s : State) : Ans := run (saluImm 6 o) s

/-- SSHL (R384). -/
def execSshl (o : SOps) (s : State) : Ans := run (saluReg 7 o) s

/-- SSHL with an immediate (R384). -/
def execSshlImm (o : SImmOps) (s : State) : Ans := run (saluImm 7 o) s

/-- SSHR (R384). -/
def execSshr (o : SOps) (s : State) : Ans := run (saluReg 8 o) s

/-- SSHR with an immediate (R384). -/
def execSshrImm (o : SImmOps) (s : State) : Ans := run (saluImm 8 o) s

/-- SSAR (R384). -/
def execSsar (o : SOps) (s : State) : Ans := run (saluReg 9 o) s

/-- SSAR with an immediate (R384). -/
def execSsarImm (o : SImmOps) (s : State) : Ans := run (saluImm 9 o) s

/-- SMIN (R384). -/
def execSmin (o : SOps) (s : State) : Ans := run (saluReg 10 o) s

/-- SMIN with an immediate (R384). -/
def execSminImm (o : SImmOps) (s : State) : Ans := run (saluImm 10 o) s

/-- SMAX (R384). -/
def execSmax (o : SOps) (s : State) : Ans := run (saluReg 11 o) s

/-- SMAX with an immediate (R384). -/
def execSmaxImm (o : SImmOps) (s : State) : Ans := run (saluImm 11 o) s

/-- SMINU (R384). -/
def execSminu (o : SOps) (s : State) : Ans := run (saluReg 12 o) s

/-- SMINU with an immediate (R384). -/
def execSminuImm (o : SImmOps) (s : State) : Ans := run (saluImm 12 o) s

/-- SMAXU (R384). -/
def execSmaxu (o : SOps) (s : State) : Ans := run (saluReg 13 o) s

/-- SMAXU with an immediate (R384). -/
def execSmaxuImm (o : SImmOps) (s : State) : Ans := run (saluImm 13 o) s

/-- SDIVU (R384). -/
def execSdivu (o : SOps) (s : State) : Ans := run (saluReg 14 o) s

/-- SDIVU with an immediate (R384). -/
def execSdivuImm (o : SImmOps) (s : State) : Ans := run (saluImm 14 o) s

/-- SMOV (R384). -/
def execSmov (o : SOps) (s : State) : Ans := run (saluReg 15 o) s

/-- SMOV with an immediate (R384). -/
def execSmovImm (o : SImmOps) (s : State) : Ans := run (saluImm 15 o) s

/-- SMOVI.Z (R395). -/
def execSmoviZ (sd : SReg) (imm : Fin 65536) (s : State) : Ans := run (scalar 4 (usesOf (.smoviZ sd imm) none) sd fun _ => BitVec.ofNat 64 imm.val) s

/-- SMOVI.H1 (R395). -/
def execSmoviH1 (sd : SReg) (imm : Fin 65536) (s : State) : Ans := run (scalar 4 (usesOf (.smoviH1 sd imm) none) sd fun x => setPart (sread x sd) 1 imm.val) s

/-- SMOVI.H2 (R395). -/
def execSmoviH2 (sd : SReg) (imm : Fin 65536) (s : State) : Ans := run (scalar 4 (usesOf (.smoviH2 sd imm) none) sd fun x => setPart (sread x sd) 2 imm.val) s

/-- SMOVI.H3 (R395). -/
def execSmoviH3 (sd : SReg) (imm : Fin 65536) (s : State) : Ans := run (scalar 4 (usesOf (.smoviH3 sd imm) none) sd fun x => setPart (sread x sd) 3 imm.val) s

/-- SCMP (R391): one result in every active thread. -/
def execScmp (o : ScmpOps) (s : State) : Ans := run (once 4 (usesOf (.scmp o) none) fun _ c =>
    modWarp c c.cur.w fun x => pwrite x o.p (entryMask c) fun _ => intCmp o.cond.val 64 (sread x o.sa) (sread x o.sb)) s

/-- SAIDX (R383). -/
def execSaidx (o : SaOps) (s : State) : Ans := run (saOp o fun a b w => ptrIdx a b.toInt w) s

/-- SALGN (R383). -/
def execSalgn (o : SaOps) (s : State) : Ans := run (saOp o fun a b w => ptrAlign a b.toNat w) s

/-- SB2A (R383). -/
def execSb2a (o : SaOps) (s : State) : Ans := run (saOp o fun a b w => ptrB2a a b.toInt w) s

/-- SA2B (R383). -/
def execSa2b (o : SaOps) (s : State) : Ans := run (saOp o fun a b w => ptrA2b a b.toInt w) s

/-- RDLANE (R377): the named thread, active or not. -/
def execRdlane (sd : SReg) (a : VReg) (lane : Fin 32) (s : State) : Ans := run (scalar 6 (usesOf (.rdlane sd a lane) none) sd fun x =>
    (vread x a.val lane).setWidth 64) s

/-- RDFIRST (R377). -/
def execRdfirst (sd : SReg) (a : VReg) (s : State) : Ans := run (once 6 (usesOf (.rdfirst sd a) none) fun _ c =>
    match lowest (entryMask c) with
    | some t => modWarp c c.cur.w fun x => swrite x sd ((vread x a.val t).setWidth 64)
    | none => c) s

end Sys2Proof.Machine
end

