-- ==== Sys2Proof/Machine/Signature.lean ====
section
/-!
DEFINITION. Sys2Proof/Machine/Signature.lean: the verification of an ML-DSA-87 signature (R279), written out from its public
standard, FIPS 204 (log 7).
-/

namespace Sys2Proof.Machine
open Sys2Proof

/-! ## SHAKE -/

/-- Blocks of `rate` bytes drawn from a sponge. -/
def squeeze (rate : Nat) : Nat → List Nat → List Nat
  | 0, _ => []
  | n + 1, a => (a.flatMap (leBytes 8)).take rate ++ squeeze rate n (keccak a)

/-- The first bytes of SHAKE128 (rate 168) or SHAKE256 (rate 136) of a message. -/
def shake (rate out : Nat) (msg : List Nat) : List Nat :=
  let p := padTo rate 0x1F msg
  (squeeze rate ((out + rate - 1) / rate) (absorb rate (p.length / rate) p (List.replicate 25 0))).take out

/-! ## Polynomials of 256 coefficients -/

/-- The prime modulus. -/
def dsaQ : Nat := 8380417

/-- A power of the 512th root of unity. -/
def dsaZeta (n : Nat) : Nat := 1753 ^ n % dsaQ

/-- The eight bits of a number in reverse. -/
def reverse8 (n : Nat) : Nat := (List.range 8).foldl (fun a i => 2 * a + n / 2 ^ i % 2) 0

/-- A polynomial by its values at the odd powers of the root, in the order of the standard. -/
def toValues (p : List Nat) : List Nat :=
  (List.range 256).map fun j =>
    let x := dsaZeta (2 * reverse8 j + 1)
    p.reverse.foldl (fun a c => (a * x + c) % dsaQ) 0

/-- The coefficients of a polynomial of such values; 8347681 is the inverse of 256. -/
def ofValues (v : List Nat) : List Nat :=
  let l := v.zipIdx.map fun (e, j) => (e, dsaZeta (511 - 2 * reverse8 j))
  (List.range 256).map fun i => (l.map fun (e, x) => e * (x ^ i % dsaQ)).sum * 8347681 % dsaQ

/-- Fields of w bits from bytes, the first lowest. -/
def fieldsOf (n w : Nat) (l : List Nat) : List Nat :=
  let v := leNat l
  (List.range n).map fun i => v / 2 ^ (w * i) % 2 ^ w

/-! ## Sampling -/

/-- Three bytes at a time that give a coefficient below the modulus. -/
def rejection : List Nat → List Nat
  | a :: b :: c :: r =>
    let z := c % 128 * 65536 + b * 256 + a
    if z < dsaQ then z :: rejection r else rejection r
  | _ => []

/-- The entry of the public matrix at a row and a column, by its values. 1,344 bytes give 448 tries for its 256. -/
def matrixEntry (rho : List Nat) (r s : Nat) : List Nat := (rejection (shake 168 1344 (rho ++ [s, r]))).take 256

/-- The challenge: 60 coefficients of 1 or -1, their places and signs from a hash. -/
def challengeStep (signs : Nat) : Nat → List Nat → List Nat → Nat → List Nat
  | 0, _, c, _ => c
  | _ + 1, [], c, _ => c
  | n + 1, j :: r, c, i =>
    if 256 ≤ i then c
    else if i < j then challengeStep signs n r c i
    else challengeStep signs n r ((c.set i (nth c j)).set j (if signs.testBit (i - 196) then dsaQ - 1 else 1)) (i + 1)

def challenge (seed : List Nat) : List Nat :=
  let h := shake 136 544 seed
  challengeStep (leNat (h.take 8)) 536 (h.drop 8) (List.replicate 256 0) 196

/-! ## Hints -/

/-- The places of hints rise. -/
def rising : List Nat → Bool
  | a :: b :: r => decide (a < b) && rising (b :: r)
  | _ => true

/-- The places of the hints of each of 8 polynomials, where the 83 bytes are a right encoding of them. -/
def hints (y : List Nat) : Option (List (List Nat)) :=
  let ends := y.drop 75
  let parts := (List.range 8).map fun i =>
    let lo := if i = 0 then 0 else nth ends (i - 1)
    ((y.take 75).drop lo).take (nth ends i - lo)
  let sound := (0 :: ends).zip ends |>.all fun (a, b) => decide (a ≤ b) && decide (b ≤ 75)
  if sound && parts.all rising && ((y.take 75).drop (nth ends 7)).all (· == 0) then some parts else none

/-- The high part of a coefficient, turned by its hint. -/
def useHint (hint : Bool) (r : Nat) : Nat :=
  let g := 523776
  let low := r % g
  let (high, up) := if g / 2 < low then (if r / g = 15 then (0, false) else (r / g + 1, false)) else (r / g % 16, decide (0 < low))
  if !hint then high else if up then (high + 1) % 16 else (high + 15) % 16

/-! ## Verification -/

/-- A signature over a message under a public key verifies, with no context (ML-DSA-87). -/
def mldsaVerify (pk msg sig : List Nat) : Bool :=
  let seed := sig.take 64
  let z := (List.range 7).map fun i => (fieldsOf 256 20 ((sig.drop (64 + 640 * i)).take 640)).map fun x => (524288 + dsaQ - x) % dsaQ
  match hints (sig.drop 4544) with
  | none => false
  | some h =>
    let mu := shake 136 64 (shake 136 64 pk ++ [0, 0] ++ msg)
    let zv := z.map toValues
    let cv := toValues (challenge seed)
    let w := (List.range 8).map fun r =>
      let t := toValues ((fieldsOf 256 10 ((pk.drop (32 + 320 * r)).take 320)).map fun x => x * 8192 % dsaQ)
      let rows := (List.range 7).map fun s => (matrixEntry (pk.take 32) r s).zip ((zv.drop s).headD [])
      let v := (List.range 256).map fun j =>
        ((rows.map fun l => match l[j]? with
          | some (a, b) => a * b
          | none => 0).sum + (dsaQ - nth cv j) * nth t j) % dsaQ
      (ofValues v).zipIdx.map fun (x, j) => useHint (((h.drop r).headD []).contains j) x
    let bytes := w.flatMap fun p => (List.range 128).map fun i => nth p (2 * i) + 16 * nth p (2 * i + 1)
    pk.length == 2592 && sig.length == 4627
      && z.all (fun p => p.all fun x => decide (x < 524168) || decide (dsaQ - 524168 < x))
      && shake 136 64 (mu ++ bytes) == seed

/-- A signature over a SHA3-512 digest verifies under one of the Skaxel keys fused into the package (R279). -/
@[irreducible] def signed (digest : BitVec 512) (sig : List Byte) : Bool :=
  Config.bootKeys.any fun k => mldsaVerify (k.map BitVec.toNat) (leBytes 64 digest.toNat) (sig.map BitVec.toNat)

end Sys2Proof.Machine
end

