-- ==== Sys2Proof/Machine/Access.lean ====
section
/-!
DEFINITION. Sys2Proof/Machine/Access.lean: memory accesses from their translation to their end: the runs of an access and
its faults (R107, R113, R116 to R118, R247), the requests of R125 and R130 and their figures (R136, R137), L1, L2 and HBM
(R127 to R131, R275, R430), what a request does when it takes effect (R120 to R122, R145, R254, R277) and the end of an
operation (R54, R248, R268).
-/

namespace Sys2Proof.Machine
open Sys2Proof

/-! ## Runs and faults -/

/-- The part of one thread's access that lies in one aligned 1,024-bit block, from bit `pos` of the access. -/
structure Run where
  va : Nat
  pos : Nat
  width : Nat
deriving DecidableEq, Repr

/-- The runs of an access of at most 1,024 bits. -/
def runsOf (a w : Nat) : List Run :=
  let n := min w (1024 - a % 1024)
  { va := a, pos := 0, width := n } :: (if n < w then [{ va := (a + n) % 2 ^ 64, pos := n, width := w - n }] else [])

/-- What is asked of an access: its permission, whether address and width suit it, and whether it is an atomic. -/
structure Rule where
  acc : Access
  suits : Nat → Nat → Bool := fun _ _ => true
  atomic : Bool := false
  /-- A store that R117 binds to whole bytes on a host page with HOME = 11. -/
  bytes : Bool := true

/-- Class N of R118. -/
def classN (a w : Nat) : Bool := [1, 2, 4, 8, 16, 32, 64, 128].contains w && a % w == 0
/-- The access lies inside one aligned 32-bit granule. -/
def inGranule (a w : Nat) : Bool := a / 32 == (a + w - 1) / 32

/-- A translated run of a thread. -/
structure Found where
  t : Fin 32
  run : Run
  x : Xlat
deriving DecidableEq, Repr

/-- A fault of a thread (R247); `again` when it is replayable (R140). -/
structure AFault where
  code : BitVec 6
  t : Fin 32
  addr : Nat
  again : Bool
deriving DecidableEq, Repr

/-- The rank of a code (R247). -/
def AFault.rank (f : AFault) : Nat :=
  if f.code = cEWIN then 3 else if f.code = cCANON then 4 else if f.code = cMISAL then 5 else if f.code = cPOISON then 7 else 6

/-- The order of a thread's faults inside rank 6. -/
def AFault.order (f : AFault) : Nat :=
  if f.code = cPAGE then 0 else if f.code = cPROT then 1 else if f.code = cPEERGONE then 2 else 3

/-- A fault is reported before another: the first rank, then the lowest-numbered thread, then the order of the rank (R247). -/
def AFault.before (f g : AFault) : Bool :=
  if f.rank ≠ g.rank then decide (f.rank < g.rank)
  else if f.t ≠ g.t then decide (f.t < g.t)
  else decide (f.order ≤ g.order)

/-- A run translated for a warp or an engine of a core (R107 to R117). `a` and `w` are the whole access. -/
def findRun (m : Memory) (c : Chip) (core part : Nat) (kernel : Bool) (k : Rule) (t : Fin 32) (a w : Nat) (r : Run) :
    Except AFault Found :=
  match translate m c core part kernel k.acc r.va with
  | .fault code again => .error { code := code, t := t, addr := r.va, again := again }
  | .ok x =>
    if x.cls = 2 ∧ x.home = 3 ∧ k.atomic then .error { code := cPROT, t := t, addr := r.va, again := false }
    else if x.cls = 2 ∧ x.home = 3 ∧ k.acc = .store ∧ k.bytes ∧ (a % 8 ≠ 0 ∨ w % 8 ≠ 0) then
      .error { code := cMISAL, t := t, addr := a, again := false }
    else .ok { t := t, run := r, x := x }

/-- What a thread's access finds. -/
def findThread (m : Memory) (c : Chip) (core part : Nat) (kernel : Bool) (k : Rule) (t : Fin 32) (a w : Nat) :
    List (Except AFault Found) :=
  (runsOf a w).map (findRun m c core part kernel k t a w)
    ++ (if k.suits a w then [] else [.error { code := cMISAL, t := t, addr := a, again := false }])

def faultsOf (l : List (Except AFault Found)) : List AFault :=
  l.filterMap fun e => match e with
    | .error f => some f
    | .ok _ => none

def foundOf (l : List (Except AFault Found)) : List Found :=
  l.filterMap fun e => match e with
    | .error _ => none
    | .ok f => some f

/-- The fault that is reported of those found. -/
def worst : List AFault → Option AFault
  | [] => none
  | f :: r =>
    match worst r with
    | none => some f
    | some g => if f.before g then some f else some g

/-- The threads that raise a code, and the lowest address at which the lowest of them does (R247). Where the two pages of an access
of class S fault with different codes of one rank, R123 asks for the lowest faulting bit address and R247 reports one code: the
model gives the address of the code that it reports (log 39). -/
def withCode (code : BitVec 6) (l : List AFault) : BitVec 32 × Nat :=
  let l := l.filter fun f => f.code == code
  (maskOf fun t => l.any fun f => f.t == t, (l.head?.map AFault.addr).getD 0)

/-- Distinct pages of 64 KiB, the smallest. -/
def pagesOf (l : List Nat) : List Nat := (l.map (· / 2 ^ 19)).eraseDups

/-- A page with OWN = 1 (R162). -/
def isMigration (m : Memory) (c : Chip) (core part va : Nat) : Bool :=
  match tlbFind c core part va with
  | some (e, _) => pteOwn e.pte.toNat
  | none =>
    match walk m c part va with
    | .leaf e _ => pteOwn e
    | _ => false

/-- The page of a replayable fault: that of the leaf, 64 KiB where no leaf is valid (R141). -/
def pageOf (m : Memory) (c : Chip) (core part va : Nat) : Nat × Nat :=
  let bits := match tlbFind c core part va with
    | some (e, _) => leafBits (pteSize e.pte.toNat)
    | none =>
      match walk m c part va with
      | .leaf _ bits => bits
      | _ => 19
  (va / 2 ^ bits * 2 ^ bits, bits)

/-- A replayable fault on its way into the fault buffer (R141). -/
def sendFault (m : Memory) (c : Chip) (core delay : Nat) (e : FaultEntry) : Chip :=
  let (id, c) := freshId c
  let e := { e with migration := isMigration m c core e.part.toNat e.addr.toNat }
  after { c with faulting := sput c.faulting id e } delay (.faultBufferEntry id)

/-- The replayable faults of one instruction or command: one for each page. -/
def sendFaults (m : Memory) (c : Chip) (core delay : Nat) (part : BitVec 4) (warps cmds : List Nat)
    (streams : List (Fin 64)) (l : List AFault) : Chip :=
  (l.map fun f => pageOf m c core part.toNat f.addr).eraseDups.foldl (fun c p =>
    let mine := l.filter fun f => f.addr / 2 ^ p.2 * 2 ^ p.2 == p.1
    let a := BitVec.ofNat 64 ((mine.head?.map AFault.addr).getD 0)
    let mask := maskOf fun t => mine.any fun f => f.t == t
    sendFault m c core delay { part := part, page := p.1, bits := p.2, warps := warps, cmds := cmds, streams := streams, addr := a,
                               migration := false, what := warps.map fun w => (w, mask, a, c.fresh) }) c

/-- The flag that counts the instruction at issue (R53). -/
def issueFlag (m : Memory) (c : Chip) : Option (Fin 12) :=
  match (warpAt c c.cur.w).body with
  | none => none
  | some b =>
    match instrAt m c c.cur.w c.cur.pc b.stop with
    | .word i _ => flagOf b (countsOf i)
    | _ => none

/-! ## Requests (R125, R130) -/

def pieceOf (f : Found) : Piece := { t := f.t, pos := f.run.pos, pa := f.x.pa, width := f.run.width }

/-- The request that a run belongs to: one for each SRAM, one for each 1,024-bit block elsewhere. -/
def reqKey (x : Xlat) : Nat := if x.home = 2 then 2 ^ 60 + x.pa.space.num else lineOf x.pa

/-- Runs gathered into requests, in the order of the lowest thread that touches each. -/
def addFound : List (Nat × Xlat × List Piece) → Found → List (Nat × Xlat × List Piece)
  | [], f => [(reqKey f.x, f.x, [pieceOf f])]
  | (k, x, ps) :: r, f => if k = reqKey f.x then (k, x, ps ++ [pieceOf f]) :: r else (k, x, ps) :: addFound r f

def gather (l : List Found) : List (Nat × Xlat × List Piece) := l.foldl addFound []

/-- The aligned window of a block that covers every touched bit: its offset and its grain (R130). -/
def windowOf (ps : List Piece) : Nat × Nat :=
  let lo := (ps.map fun p => p.pa.bit % 1024).foldl min 1023
  let hi := (ps.map fun p => (p.pa.bit + p.width - 1) % 1024).foldl max 0
  let g := ([128, 256, 512].find? fun g => lo / g == hi / g).getD 1024
  (lo / g * g, g)

/-- The window that a miss fetches: one of LPDDR is never smaller than 512 bits (R130). -/
def fetchWindow (ps : List Piece) : Nat × Nat :=
  let (off, g) := windowOf ps
  if g < 512 ∧ (ps.head?.map fun p => p.pa.space) = some .lpddr then (off / 512 * 512, 512) else (off, g)

/-- The largest number of distinct rows in one bank or column slice (R125, R126). -/
def rowsF (ps : List Piece) : Nat :=
  let rows := (ps.flatMap fun p =>
    (List.range ((p.pa.bit % 256 + p.width + 255) / 256)).map fun k => p.pa.bit / 256 + k).eraseDups
  let bankOf := fun (r : Nat) => match ps.head?.map fun p => p.pa.space with
    | some (.spad _) => r % 64
    | _ => r / 2048
  rows.foldl (fun n r => max n ((rows.filter fun q => bankOf q == bankOf r).length)) 1

/-- Every bit that a request touches is valid in L2 (R128). -/
def l2Hit (c : Chip) (ps : List Piece) : Bool := ps.all fun p => l2Has c (lineOf p.pa) (p.pa.bit % 1024) p.width

/-- A core's L1 holds every sector that a request touches (R127). -/
def l1Hit (c : Chip) (core : Nat) (ps : List Piece) : Bool :=
  ps.all fun p => (sectorsOf p).all fun s => (sget (coreAt c core).l1 s).isSome

/-- A piece's bits in a core's L1. -/
def l1Read (c : Chip) (core : Nat) (p : Piece) : Nat :=
  fld ((sectorsOf p).reverse.foldl (fun n s => n * 2 ^ 256 + ((sget (coreAt c core).l1 s).map BitVec.toNat).getD 0) 0)
    (p.pa.bit % 256) p.width

/-- Bits at q's place as bits of p. -/
def laid (p q : Piece) (v : Nat) : Nat :=
  (if p.pa.bit ≤ q.pa.bit then v * 2 ^ (q.pa.bit - p.pa.bit) else v / 2 ^ (p.pa.bit - q.pa.bit)) % 2 ^ p.width

/-- Two pieces share a bit. -/
def meets (p q : Piece) : Bool :=
  p.pa.space == q.pa.space && decide (p.pa.bit < q.pa.bit + q.width) && decide (q.pa.bit < p.pa.bit + p.width)

/-- Bits of v, those of mask k replaced. -/
def mixBits (v k x : Nat) : Nat := (v ^^^ (v &&& k)) ||| (x &&& k)

/-- A written piece put into any copy in a core's L1 (R127). -/
def l1Update (c : Chip) (core : Nat) (p : Piece) (v : Nat) : Chip :=
  modCore c core fun k => { k with
    l1 := (sectorsOf p).foldl (fun l s =>
      match sget l s with
      | none => l
      | some old =>
        let at_ : Piece := { t := p.t, pos := 0, pa := ⟨p.pa.space, (p.pa.bit / 256 + (s - sectorOf p.pa)) * 256⟩, width := 256 }
        sput l s (BitVec.ofNat 256 (mixBits old.toNat (laid at_ p (2 ^ p.width - 1)) (laid at_ p v)))) k.l1 }

/-- Lines of L1: 256 KiB (R14). -/
def l1Lines : Nat := 2048

/-- A sector comes into a core's L1: its line is the youngest, and the oldest beyond the size of L1 goes (R14, R127; log 12).
A load that a fence has kept from an older copy may hit it. -/
def l1Put (c : Chip) (core s : Nat) (v : BitVec 256) : Chip :=
  let c := modCore c core fun k =>
    let age := s / 4 :: k.l1Age.filter (· != s / 4)
    let old := age.drop l1Lines
    { k with l1 := sput (sfilter (fun t _ => !old.contains (t / 4)) k.l1) s v, l1Age := age.take l1Lines }
  { c with warps := smap (fun w x => if coreOf w = core then { x with stale := x.stale.filter (· != s) } else x) c.warps }

/-- A load has hit lines of L1: they are the youngest (R127). -/
def l1Touch (c : Chip) (core : Nat) (lines : List Nat) : Chip :=
  modCore c core fun k => { k with l1Age := lines ++ k.l1Age.filter fun n => !lines.contains n }

/-- A core's L1 invalidated whole; fills requested before are not allocated (R151, R330). -/
def l1Flush (c : Chip) (core : Nat) : Chip :=
  let mine := fun (r : Req) => ((sget c.ops r.op).map Op.core).getD 192 == core
  let c := { c with reqs := smap (fun _ r => if mine r then { r with noAlloc := true } else r) c.reqs }
  modCore c core fun k => { k with l1 := [], l1Age := [] }

/-- Lines of a core's L1 invalidated; fills of them requested before are not allocated (R308, R309). -/
def l1Drop (c : Chip) (core : Nat) (lines : List Nat) : Chip :=
  let mine := fun (r : Req) => ((sget c.ops r.op).map Op.core).getD 192 == core && r.pieces.any fun p => lines.contains (lineOf p.pa)
  let c := { c with reqs := smap (fun _ r => if mine r then { r with noAlloc := true } else r) c.reqs }
  modCore c core fun k => { k with
    l1 := sfilter (fun s _ => !lines.contains (s / 4)) k.l1, l1Age := k.l1Age.filter fun n => !lines.contains n }

/-- Written bits valid in their slice at once (R128). -/
def l2Wrote (c : Chip) (p : Piece) : Chip := l2Fill c (lineOf p.pa) (p.pa.bit % 1024) p.width

/-- The lines pinned in a slice. -/
def pinnedIn (c : Chip) (s : Nat) : Nat := (c.pinned.filter fun l => sliceOfLine l == s).length

/-- Lines that may be pinned in a slice: 24 MiB (R129). -/
def pinLimit : Nat := 196608

/-- An access to a line of a HOME = 01 page pins it, or counts in MEM_PINOVF (R129). -/
def pinLine (c : Chip) (line : Nat) : Chip :=
  if c.pinned.contains line then c
  else if pinnedIn c (sliceOfLine line) < pinLimit then { c with pinned := line :: c.pinned }
  else bumpStick c (rPinOvf (sliceOfLine line)) 1

/-- The block of SRAM whose owning group has exited (R115). -/
def sramGone (c : Chip) (core : Nat) : Bool := (coreAt c core).hosted && !bit (dev c (rOwner core)).toNat 8

/-! ## Sending -/

/-- The event that ends a request. -/
def reqEvent (k : OpKind) (id : Nat) : Ev :=
  match k with
  | .load _ _ _ _ | .lda _ _ _ _ _ | .pref _ | .refill | .restore _ | .table _ => .loadReply id
  | .line core line => .icacheLineFill core line
  | .store | .strong | .spill _ _ _ | .cmdWrite _ | .save _ => .storeAtHome id
  | .atom _ _ _ => .atomicAtHome id
  | .cmdRead _ _ => .engineSourceReply id

/-- The operation writes without reading. -/
def isStore (k : OpKind) : Bool :=
  match k with
  | .store | .strong | .spill _ _ _ | .cmdWrite _ | .save _ => true
  | _ => false

def isAtom (k : OpKind) : Bool :=
  match k with
  | .atom _ _ _ => true
  | _ => false

/-- L1 may serve the operation, and keep what it brings (R127, R151). -/
def mayHit (k : OpKind) : Bool :=
  match k with
  | .load _ _ l1 _ => l1
  | .lda _ _ _ l1 _ => l1
  | .refill => true
  | .pref l1 => l1
  | _ => false

def mayFill (k : OpKind) : Bool :=
  match k with
  | .load _ _ _ fill => fill
  | .lda _ _ _ l1 _ => l1
  | .refill => true
  | .pref l1 => l1
  | _ => false

/-- The operation belongs to a warp, whose core's L1 it goes through; engines and the Kiln go past it (R157). -/
def viaL1 (k : OpKind) : Bool :=
  match k with
  | .cmdRead _ _ | .cmdWrite _ | .save _ | .restore _ | .line _ _ | .table _ => false
  | _ => true

/-- A read of a table by a walker, which the counters of R267 do not count among the core's requests. -/
def isTable (k : OpKind) : Bool :=
  match k with
  | .table _ => true
  | _ => false

/-- What a load served by the home puts into a copy that L1 holds already, so that no later load of the core reads an older
value; PREF.L2 leaves L1 alone (R145, R372). -/
def mayRenew (k : OpKind) : Bool :=
  match k with
  | .pref l1 => l1
  | k => viaL1 k

/-- The registers that an operation loads. -/
def opRegs (o : Op) : List Nat :=
  let k := (o.width + 31) / 32
  match o.kind with
  | .load d _ _ _ | .lda d _ _ _ _ | .atom (some d) _ _ => (List.range k).map (d + ·)
  | _ => []

/-- An operation put in flight with its requests; none has been sent. -/
def openReqs (c : Chip) (id : Nat) (o : Op) (groups : List (Nat × Xlat × List Piece)) (lu nt : Bool) (extra : Xlat → Nat) : Chip :=
  groups.foldl (fun c (_, x, ps) =>
    let (r, c) := freshId c
    let (off, grain) := fetchWindow ps
    let c := if x.home = 1 then pinLine c (lineOf x.pa) else c
    let q : Req :=
      { op := id, pieces := ps, block := ⟨x.pa.space, x.pa.bit / 1024 * 1024⟩, off := off, grain := grain,
        home := homeOf x, enc := x.enc, lu := lu, nt := nt, noAlloc := !mayFill o.kind || decide (2 ≤ x.home),
        write := isStore o.kind, sent := c.cycle, arrive := c.cycle, waiting := false, missed := false,
        route := 0, extra := extra x, done := false }
    { c with reqs := sput c.reqs r q }) { c with ops := sput c.ops id { o with left := groups.length } }

/-- An operation opened with its requests; nothing has been sent. -/
def openOp (c : Chip) (o : Op) (groups : List (Nat × Xlat × List Piece)) (lu nt : Bool) (extra : Xlat → Nat) : Nat × Chip :=
  let (id, c) := freshId c
  (id, openReqs c id o groups lu nt extra)

/-- An operation of the device itself for a core: no warp waits for it, and its addresses stand by thread. -/
def deviceOp (c : Chip) (kind : OpKind) (core : Nat) (part : BitVec 4) (act : BitVec 32) (addr : Fin 32 → W64) (width : Nat)
    (data : Fin 32 → Nat) (pc : W64) : Op :=
  { w := 24576, slot := 128, core := core, part := part, kind := kind, issued := c.cycle, occ := 0, act := act, addr := Vector.ofFn addr,
    width := width, data := Vector.ofFn data, data2 := Vector.replicate 32 0, left := 0, poison := 0, poisonSub := 0, gone := 0,
    flag := none, pc := pc, seq := 0, kernel := false, recs := 0, late := [], parts := [] }

/-- The requests of an operation, in the order in which they are sent. -/
def reqsOf (c : Chip) (op : Nat) : List Nat := (c.reqs.filter fun e => e.2.op == op).map (·.1)

/-- The class of a space. -/
def clsOf (s : Space) : Nat :=
  match s with
  | .hbm => 0 | .lpddr => 1 | .host => 2 | .remote => 3 | .bsram _ => 4 | .spad _ => 5

/-- The slice that stands for a request in the C4 figure. A HOME = 11 access has no slice: its C4 part is measured to the slice
that would hold its line, and no ring or bridge cost of R132 is added (log 39). -/
def reqSlice (r : Req) : Nat :=
  match r.home with
  | .l2 s => s
  | _ => l2Slice (clsOf r.block.space) r.block.bit

/-- A request that goes to the remote chip of its page: a miss in L2, a HOME = 11 access, or an atomic (R237, R239). -/
def goesFar (c : Chip) (o : Op) (r : Req) : Bool :=
  r.block.space == .remote && (decide (r.home = .mem) || isAtom o.kind || !(isStore o.kind || l2Hit c r.pieces))

/-- The cycle at which a request that leaves at t ends, if that is fixed; an HBM access that must go to memory ends when
its slot has served it (R136, R137, R275). -/
def reqEnd (c : Chip) (o : Op) (r : Req) (t : Nat) : Option Nat :=
  if goesFar c o r then some (t + figC7 c o.core r.block + r.extra)
  else
    match r.home with
    | .sram h => some (t + figSram o.core h (rowsF r.pieces) (clsOf r.block.space == 4) + r.extra)
    | .l2 s =>
      if isStore o.kind || l2Hit c r.pieces then some (t + figC4 o.core s + r.extra)
      else if r.block.space = .hbm then none
      else some (t + figC4 o.core s + missFigure c r.block + r.extra)
    | .mem =>
      if r.block.space = .hbm then none
      else some (t + figC4 o.core (reqSlice r) + missFigure c r.block + r.extra)

/-- The banks of a core's scratchpad, or column slices of its B-SRAM, that a request needs, with the rows in each. -/
def bankRows (ps : List Piece) : SMap Nat :=
  let rows := (ps.flatMap fun p =>
    (List.range ((p.pa.bit % 256 + p.width + 255) / 256)).map fun k => (p.pa.space, p.pa.bit / 256 + k)).eraseDups
  rows.foldl (fun l (s, r) =>
    let b := match s with
      | .spad _ => r % 64
      | _ => 64 + r / 2048
    sput l b ((sget l b).getD 0 + 1)) []

/-- An access of a core's own warp to its SRAM stands before the banks from the frame of cycle t on (R124, R125). -/
def useBanks (c : Chip) (id t : Nat) (o : Op) (r : Req) : Chip :=
  if r.home = .sram o.core ∧ o.w < 24576 then
    let due := c.agenda.any fun e => match e.2 with
      | .bankFrame k => k == o.core
      | _ => false
    let u : BankUse := { req := id, slice := sliceOf o.w, rows := bankRows r.pieces, frame := t / 4 }
    let c := modCore c o.core fun k => { k with banks := k.banks ++ [u] }
    if due then c else schedule c ((c.cycle / 4 + 1) * 4) (.bankFrame o.core)
  else c

/-- The route of a miss to HBM, fixed when it is sent (R132, R133). -/
def reqRoute (c : Chip) (r : Req) : Nat :=
  match r.home with
  | .l2 s => if r.block.space = .hbm then routeCost c s (hbmStack r.block.bit) else 0
  | _ => 0

/-- This chip's number, as its packets carry it. -/
def chipFin (c : Chip) : Fin 1024 := Fin.ofNat 1024 c.chipNo.toNat

/-- A packet to the chip of a bit address of class remote takes a stamp as it leaves (R237, R258). -/
def farSend (c : Chip) (slot bit : Nat) (body : PacketBody) : Chip := stampFor c slot (.send (.packet (fld bit 42 10) 0 body))

/-- What a request asks of another chip: the window of a read, and each piece of a write or an atomic (R130, R237). -/
def farBodies (c : Chip) (o : Op) (r : Req) : List PacketBody :=
  let piece := fun (f : Fin 1024 → Fin 4398046511104 → Piece → PacketBody) =>
    r.pieces.map fun p => f (chipFin c) (Fin.ofNat _ p.pa.bit) p
  match o.kind with
  | .atom _ op _ => piece fun n a p =>
      .atomic n op a (Fin.ofNat _ p.width) (o.data[p.t.val] % 2 ^ p.width) (o.data2[p.t.val] % 2 ^ p.width)
  | k =>
    if isStore k then piece fun n a p => .write n a (Fin.ofNat _ p.width) (fld o.data[p.t.val] p.pos p.width)
    else [.read (chipFin c) (Fin.ofNat _ (r.block.bit + r.off)) (Fin.ofNat _ r.grain)]

/-- The packets of a request leave for the chip of its page. -/
def sendFar (c : Chip) (o : Op) (r : Req) : Chip :=
  (farBodies c o r).foldl (fun c b => farSend c (if o.w < 24576 then o.w else 128 * o.core) r.block.bit b) c

/-- A request of an operation leaves its core at cycle t. What goes to another chip takes a stamp as it leaves (R258). -/
def sendReq (c : Chip) (id t : Nat) : Chip :=
  match sget c.reqs id with
  | none => c
  | some r =>
    match sget c.ops r.op with
    | none => c
    | some o =>
      let l2ish := match r.home with
        | .l2 _ => true
        | _ => false
      let c := if l2ish && !isTable o.kind then pmEvent c o.core 5 1 else c
      let c := if goesFar c o r then sendFar c o r else c
      let c := useBanks c id t o r
      let r := { r with sent := t, missed := l2ish && !isStore o.kind && !l2Hit c r.pieces, route := reqRoute c r }
      match reqEnd c o r t with
      | some e => schedule { c with reqs := sput c.reqs id r } (if isStore o.kind then e else max e (o.issued + o.occ)) (reqEvent o.kind id)
      | none =>
        let at_ := t + figC4 o.core (reqSlice r)
        let r := { r with arrive := at_ }
        match slotAt c o.part.toNat at_ with
        | some s => schedule { c with reqs := sput c.reqs id r } s (.hbmSlotServe id)
        | none => { c with reqs := sput c.reqs id { r with waiting := true }, hbmQ := c.hbmQ ++ [id] }

/-! ## Page walks (R138) -/

/-- The pages of addresses that the core's TLB does not hold, so that their translation adds cycles. A page whose walk has just
ended in a fault has been walked. -/
def needWalk (m : Memory) (c : Chip) (core part : Nat) (walked : Bool) (vas : List Nat) : List Nat :=
  (pagesOf (vas.filter fun va => decide (va < 2 ^ 60) && !inWindow va)).filter fun p =>
    match tlbFind c core part (p * 2 ^ 19) with
    | some (_, near) => !near
    | none =>
      !walked || match walk m c part (p * 2 ^ 19) with
        | .leaf _ _ => true
        | _ => false

/-- A walk reads the entry of its level: an L2 access and 4 cycles (R138). The spec does not place a walker at a router: the access is
timed from that of the core (log 39). -/
def readTable (c : Chip) (id : Nat) : Chip :=
  match sget c.walks id with
  | none => c
  | some k =>
    match k.rest with
    | [] => c
    | (lo, n, _) :: _ =>
      let pa := entryAt k.va lo n k.base
      let x : Xlat := { pa := pa, cls := clsOf pa.space, home := 0, hcore := 0, enc := false, own := false }
      let o := deviceOp c (.table id) k.core (BitVec.ofNat 4 k.part) 1 (fun _ => 0) 64 (fun _ => 0) 0
      let (op, c) := openOp c o [(0, x, [{ t := 0, pos := 0, pa := pa, width := 64 }])] false false fun _ => 4
      (reqsOf c op).foldl (fun c r => sendReq c r c.cycle) c

/-- A walk begins: the cluster's TLB holds its leaf, which takes 12 cycles, or it reads the tables from the root (R138). -/
def beginWalk (c : Chip) (id : Nat) (k : Walk) : Chip :=
  match tlbFind c k.core k.part k.va with
  | some (e, _) => after { c with walks := sput c.walks id { k with rest := [], entry := some e } } 12 (.pageWalkComplete id)
  | none => readTable { c with walks := sput c.walks id { k with rest := levels, base := rootTable c k.part, entry := none } } id

/-- The walk of a page under way for a core, or a new one, with those that wait for it. -/
def joinWalk (c : Chip) (core part p : Nat) (f : Walk → Walk) : Chip :=
  match c.walks.find? fun e => e.2.core == core && e.2.part == part && e.2.va == p * 2 ^ 19 with
  | some (id, k) => { c with walks := sput c.walks id (f k) }
  | none =>
    let (id, c) := freshId c
    beginWalk c id (f { core := core, part := part, va := p * 2 ^ 19, rest := [], base := ⟨.hbm, 0⟩, entry := none,
                        warps := [], lines := [], prefs := [] })

/-- The read of a table has come back: the walk goes on to the next level, or it ends (R109 to R111, R254). -/
def tableBack (c : Chip) (id : Nat) (o : Op) : Chip :=
  match sget c.walks id with
  | none => c
  | some k =>
    match k.rest with
    | [] => c
    | (_, _, ok) :: rest =>
      if o.poison ≠ 0 then after c 0 (.pageWalkComplete id)
      else
        match tableStep c k.part (o.data[0] % 2 ^ 64) ok rest.isEmpty with
        | .next base => readTable { c with walks := sput c.walks id { k with rest := rest, base := base } } id
        | .done (.leaf e bits) =>
          let entry : TlbEntry := { part := k.part, base := k.va / 2 ^ bits * 2 ^ bits, size := 2 ^ bits, pte := BitVec.ofNat 64 e }
          after { c with walks := sput c.walks id { k with rest := [], entry := some entry } } 0 (.pageWalkComplete id)
        | .done _ => after { c with walks := sput c.walks id { k with rest := [] } } 0 (.pageWalkComplete id)

/-- What a walk has on its way is given up. -/
def stopWalk (c : Chip) (id : Nat) : Chip :=
  let ops := (c.ops.filter fun e => e.2.kind == .table id).map (·.1)
  let reqs := (c.reqs.filter fun e => ops.contains e.2.op).map (·.1)
  let c := unschedule c fun e => match e with
    | .pageWalkComplete j => j == id
    | .loadReply r => reqs.contains r
    | .hbmSlotServe r => reqs.contains r
    | _ => false
  { c with
    ops := sfilter (fun k _ => !ops.contains k) c.ops, reqs := sfilter (fun k _ => !reqs.contains k) c.reqs,
    hbmQ := c.hbmQ.filter fun r => !reqs.contains r }

/-- A warp waits for no walk any more. -/
def dropWalks (c : Chip) (w : Nat) : Chip :=
  { c with walks := smap (fun _ k => { k with warps := k.warps.filter (· != w), lines := k.lines.filter fun l => l.1 != w }) c.walks }

/-! ## Accesses of the instruction at issue -/

/-- The instruction at issue waits for the walks of pages. Where it is not to fault it has issued: its slice is busy (R21, R248). -/
def awaitWalks (c : Chip) (pages : List Nat) (occ : Nat) (act : BitVec 32) (faults : Bool) : Chip :=
  let w := c.cur.w
  let x := warpAt c w
  let since := if c.cur.walked then c.cur.since else if faults then none else some c.cycle
  let c := if c.cur.walked || faults then c else issued c occ act
  let c := pages.foldl (fun c p => joinWalk c (coreOf w) x.part.toNat p fun k => { k with warps := k.warps.filter (· != w) ++ [w] }) c
  endIssue (modWarp c w fun x => { x with wait := .walk since })

/-- A precise fault of an access is a hardware-error fault: its core's own read poisoned the table that it met (R253). -/
def tableError (m : Memory) (c : Chip) (w : Nat) (code : BitVec 6) (addr : Nat) : Bool :=
  let part := (warpAt c w).part.toNat
  code == cPOISON && (walkPath m c part addr levels (rootTable c part)).any fun p => sget c.poison (sectorOf p) == some (coreOf w)

/-- COILF for the faults of Coil accesses: of rank 6 for all of them, so that the lowest-numbered thread gives SUB and ADDR and every
thread that faults is reported (R33, R247, R305). -/
def coilFault (l : List AFault) : Option (BitVec 6 × BitVec 32 × Nat) :=
  let mask := maskOf fun t => l.any fun f => f.t == t
  (lowest mask).bind fun t => (worst (l.filter fun f => f.t == t)).map fun f => (f.code, mask, f.addr)

/-- The faults of the accesses of the instruction at issue taken: a final one as a precise trap, replayable ones into the
fault buffer while the warp waits, its flag counting it (R54, R140 to R142, R248). `wrap` is COILF's code for a Coil access (R33). -/
def takeAccessFault (m : Memory) (c : Chip) (l : List AFault) (f : AFault) (wrap : Option (BitVec 6)) : Chip :=
  let w := c.cur.w
  let x := warpAt c w
  if f.again then
    let c := sendFaults m c (coreOf w) 0 x.part [w] [] [] (l.filter AFault.again)
    let flag := issueFlag m c
    endIssue (modWarp (flagUp c w flag) w fun x => { x with wait := .replay wrap.isSome, waitFlag := flag })
  else
    match wrap, coilFault l with
    | some code, some (sub, tmask, addr) => raise c code tmask (BitVec.ofNat 64 addr) sub (tableError m c w sub addr)
    | _, _ =>
      let (tmask, addr) := withCode f.code l
      raise c f.code tmask (BitVec.ofNat 64 addr) (if f.code = cPOISON then 1 else 0) (tableError m c w f.code addr)

/-- The fault by which a Coil access is judged, replayable or final: that of the lowest-numbered thread (R33, R247). -/
def worstOf (wrap : Option (BitVec 6)) (l : List AFault) : Option AFault :=
  match wrap with
  | none => worst l
  | some _ => (lowest (maskOf fun t => l.any fun f => f.t == t)).bind fun t => worst (l.filter fun f => f.t == t)

/-- The accesses of the active threads of the instruction at issue, translated; `go` runs with what they found, when none faults.
Where a page is not in the core's TLB the instruction waits for its walk first; a fault of a rank before translation's does not
(R138, R247, R248). -/
def withAccess (k : Rule) (act : BitVec 32) (addr : Fin 32 → W64) (width : Fin 32 → Nat) (occ : Nat) (wrap : Option (BitVec 6))
    (go : List Found → Act) : Act := fun m c =>
  let w := c.cur.w
  let x := warpAt c w
  let l := (List.finRange 32).flatMap fun t =>
    if lane act t then findThread m c (coreOf w) x.part.toNat x.kernel k t (addr t).toNat (width t) else []
  let pages := needWalk m c (coreOf w) x.part.toNat c.cur.walked ((faultsOf l).map AFault.addr ++ (foundOf l).map fun f => f.run.va)
  let early := (faultsOf l).any fun f => decide (f.rank < 6)
  if !pages.isEmpty && !early then awaitWalks c pages occ act (!(faultsOf l).isEmpty)
  else
    match worstOf wrap (faultsOf l) with
    | some f => takeAccessFault m c (faultsOf l) f wrap
    | none => go (foundOf l) m c

/-! ## Taking effect -/

/-- Bits of SRAM as they stood before the writes of cycle t and later (R195). -/
def sramAt (m : Memory) (c : Chip) (t : Nat) (p : Piece) : Nat :=
  c.sramPast.foldl (fun v (u, pa, n, old) =>
    let q : Piece := { t := 0, pos := 0, pa := pa, width := n }
    if decide (t ≤ u) && meets p q then mixBits v (laid p q (2 ^ n - 1)) (laid p q old) else v) (readBits m c p.pa p.width)

/-- The units that a request brings into L2: those that it touches, and its window. -/
def reqUnits (r : Req) : List Nat :=
  let w : Piece := { t := 0, pos := 0, pa := { r.block with bit := r.block.bit + r.off }, width := r.grain }
  (r.pieces.flatMap unitsOf ++ (if r.missed then unitsOf w else [])).eraseDups

/-- The poisoned sectors among those of a piece (R254). -/
def badSectors (c : Chip) (p : Piece) : List Nat := (sectorsOf p).filter fun s => (sget c.poison s).isSome

/-- The home is a slice of L2. -/
def Home.isL2 (h : Home) : Bool :=
  match h with
  | .l2 _ => true
  | _ => false

/-- The home is SRAM whose owning group has exited (R115). -/
def homeGone (c : Chip) (h : Home) : Bool :=
  match h with
  | .sram k => sramGone c k
  | _ => false

/-- The threads of a request. -/
def threadsOf (ps : List Piece) : BitVec 32 := maskOf fun t => ps.any fun p => p.t == t

/-- A thread's own earlier stores still on their way, over what its load reads (R145). -/
def overlay (c : Chip) (op w : Nat) (p : Piece) (v : Nat) : Nat :=
  c.reqs.foldl (fun v (_, r) =>
    match sget c.ops r.op with
    | some o =>
      if decide (w < 24576) && decide (r.op < op) && o.w == w && isStore o.kind && !r.done then
        r.pieces.foldl (fun v q =>
          if q.t = p.t && meets p q then mixBits v (laid p q (2 ^ q.width - 1)) (laid p q (fld o.data[q.t.val] q.pos q.width)) else v) v
      else v
    | none => v) v

/-- What is left of a piece when another has overtaken its bits (R145). -/
def trimPiece (q p : Piece) : List Piece :=
  if meets p q then
    (if q.pa.bit < p.pa.bit then [{ q with width := p.pa.bit - q.pa.bit }] else [])
      ++ (if p.pa.bit + p.width < q.pa.bit + q.width then
            [{ q with pos := q.pos + (p.pa.bit + p.width - q.pa.bit), pa := ⟨q.pa.space, p.pa.bit + p.width⟩,
                      width := q.pa.bit + q.width - (p.pa.bit + p.width) }] else [])
  else [q]

/-- The bits of a piece that lie in an output region no reader may rely on (R160). -/
def undefMask (c : Chip) (p : Piece) : Nat :=
  c.undef.foldl (fun n (s, lo, hi) =>
    let a := max lo p.pa.bit
    let b := min hi (p.pa.bit + p.width)
    if s = p.pa.space ∧ a < b then n ||| (2 ^ (b - a) - 1) * 2 ^ (a - p.pa.bit) else n) 0

/-- Such bits as free values (log 4). -/
def blur (c : Chip) (p : Piece) (v : Nat) : Nat × Chip :=
  let k := undefMask c p
  if k = 0 then (v, c)
  else
    let (x, c) := drawFree c
    (mixBits v k x, c)

/-- The bits of a piece are written, and defined again. -/
def defineBits (c : Chip) (p : Piece) : Chip :=
  if c.undef.isEmpty then c
  else { c with undef := c.undef.flatMap fun (s, lo, hi) =>
    if s = p.pa.space then
      ((if lo < min hi p.pa.bit then [(s, lo, min hi p.pa.bit)] else [])
        ++ (if max lo (p.pa.bit + p.width) < hi then [(s, max lo (p.pa.bit + p.width), hi)] else []))
    else [(s, lo, hi)] }

/-- The job of an operation's command has been reclaimed, so that what it writes stays undefined (R185). -/
def deadWrite (c : Chip) (k : OpKind) : Bool :=
  match k with
  | .cmdWrite id => ((sget c.cmds id).map Cmd.dead).getD false
  | _ => false

/-- A request marked as having taken effect, with its operation changed. -/
def markDone (c : Chip) (id : Nat) (r : Req) (f : Op → Op) : Chip :=
  let c := { c with reqs := sput c.reqs id { r with done := true } }
  match sget c.ops r.op with
  | some o => { c with ops := sput c.ops r.op (f o) }
  | none => c

/-- The lowest bit address that a thread's access has in a sector, for POISON. -/
def badAddr (o : Op) (p : Piece) (s : Nat) : W64 :=
  o.addr[p.t.val] + BitVec.ofNat 64 (p.pos + ((s - sectorOf p.pa) * 256 - p.pa.bit % 256))

/-- The rank of a late fault's code (R247). -/
def Deferred.rank (d : Deferred) : Nat := if d.code = cPEERGONE then 0 else if d.code = cPOISON then 1 else 2

/-- The fault that an instruction reports of those found: the best rank, its lowest thread's lowest address, every thread that raised its
code, and the stamp and bits of RECLAIM of its detection (R243, R247). -/
def mergeDeferred (l : List Deferred) (d : Deferred) : Deferred :=
  let code := (l.foldl (fun a e => if e.rank < a.rank then e else a) d).code
  let mine := l.filter fun e => e.code == code
  let mask := mine.foldl (fun n e => n ||| e.tmask) 0
  let low := fun (e : Deferred) => ((lowest e.tmask).map Fin.val).getD 32
  let seen := (mine.head?).getD d
  let first := mine.foldl (fun a e => if low e < low a ∨ (low e = low a ∧ e.addr.toNat < a.addr.toNat) then e else a) seen
  { first with tmask := mask, key := seen.key, cone := seen.cone, rcl := seen.rcl, drn := seen.drn }

/-- A fault found at the home or at the end of an access (R248). It takes a stamp where the instruction would report it of those
found so far. A Coil access answers for its own when it ends (R33). -/
def defer (c : Chip) (id : Nat) (code sub : BitVec 6) (tmask : BitVec 32) (addr : W64) : Chip :=
  match sget c.ops id with
  | none => c
  | some o =>
    let coil := match o.kind with
      | .spill _ _ _ => true
      | .refill => true
      | _ => false
    if tmask = 0 || (coil && code != cWATCH) || decide (24576 ≤ o.w) then c
    else
      let x := warpAt c o.w
      let (key, c) := freshId c
      let d : Deferred := { code := code, sub := sub, addr := addr, tmask := tmask, pc := o.pc, seq := o.seq, cycle := c.cycle,
                            kernel := o.kernel, key := key, cone := none, rcl := x.rcl, drn := x.drn }
      let c := { c with ops := sput c.ops id { o with late := o.late ++ [d] } }
      if o.late.all fun e => decide (d.rank < e.rank) then stampFor c o.w (.late o.w key) else c

/-- The late faults of an operation that ends become the one that its instruction reports. -/
def reportLate (c : Chip) (id : Nat) : Chip :=
  match sget c.ops id with
  | none => c
  | some o =>
    match o.late with
    | [] => c
    | d :: _ => modWarp c o.w fun x => { x with deferred := x.deferred ++ [mergeDeferred o.late d] }

/-- The answer of another chip carries its stamp, which the stamp unit merges; its value is the other chip's (R258; log 4). -/
def mergeAnswer (c : Chip) : Chip :=
  let (x, c) := drawFree c
  mergeStamp c (BitVec.ofNat 64 x)

/-- The answer to a request that has gone to another chip. -/
def mergeFar (c : Chip) (r : Req) (o : Op) : Chip :=
  if r.block.space == .remote && (r.missed || decide (r.home = .mem) || isAtom o.kind) then mergeAnswer c else c

/-- The SUB of POISON at a home (R254). -/
def poisonSub (r : Req) : BitVec 6 := if r.home.isL2 || r.home = .mem then 1 else 4

/-- L1 keeps the whole sectors that a request through L2 has brought (R127). -/
def l1Keep (m : Memory) (c : Chip) (r : Req) (o : Op) : Chip :=
  (r.pieces.flatMap fun p => (sectorsOf p).map fun s => (s, p.pa)).eraseDups.foldl (fun c (s, pa) =>
    let held := (sget (coreAt c o.core).l1 s).isSome
    let v := BitVec.ofNat 256
      (homeRead m c true r.enc o.part.toNat { t := 0, pos := 0, pa := ⟨pa.space, (pa.bit / 256 + (s - sectorOf pa)) * 256⟩, width := 256 })
    if (sget c.poison s).isSome || !viaL1 o.kind then c
    else if !r.noAlloc then l1Put c o.core s v
    else if held && mayRenew o.kind then modCore c o.core fun k => { k with l1 := sput k.l1 s v }
    else c) c

/-- A load, or the read of an engine, takes effect: its bits are read, poison is met, and L1 keeps whole sectors (R127,
R149, R254). `hit` when L1 serves it; an LD.NT that L1 serves does not reach L2 and marks no line there, which R127 leaves open
(log 39). -/
def sampleReq (m : Memory) (c : Chip) (id : Nat) (r : Req) (o : Op) (hit : Bool) : Chip :=
  let (o', c) := r.pieces.foldl (fun (o', c) p =>
    let v := if hit then l1Read c o.core p else homeRead m c r.home.isL2 r.enc o.part.toNat p
    let bad := if hit then [] else badSectors c p
    let (v, c) := blur c p v
    let v := overlay c r.op o.w p v
    if bad.isEmpty then ({ o' with data := o'.data.set p.t.val (o'.data[p.t.val] ||| v * 2 ^ p.pos) }, c)
    else ({ o' with poison := o'.poison ||| BitVec.ofNat 32 (2 ^ p.t.val) }, c)) (o, c)
  let c := if hit then c else mergeFar c r o
  let c := if hit || !r.home.isL2 then c
    else
      let c := noteView c r.enc o.part.toNat (reqUnits r)
      let c := l1Keep m c r o
      if r.nt then l2Last c (lineOf r.block) else c
  let first := r.pieces.findSome? fun p => ((badSectors c p).head?.map fun s => badAddr o p s)
  let tmask := threadsOf (r.pieces.filter fun p => !hit && !(badSectors c p).isEmpty)
  let c := markDone c id r fun _ => { o' with poisonSub := if tmask = 0 then o'.poisonSub else poisonSub r }
  match o.kind with
  | .pref _ | .cmdRead _ _ | .restore _ | .line _ _ | .table _ => c
  | _ => defer c r.op cPOISON (poisonSub r) tmask (first.getD 0)

/-- Poison of sectors that the pieces of one write cover whole is cleared (R254). -/
def clearPoison (c : Chip) (ps : List Piece) : Chip :=
  if c.poison.isEmpty then c
  else (ps.flatMap sectorsOf).eraseDups.foldl (fun c s =>
    let all : Piece := { t := 0, pos := 0, pa := ⟨.hbm, 0⟩, width := 256 }
    let cover := ps.foldl (fun n p =>
      if (sectorsOf p).contains s then
        let at_ : Piece := { all with pa := ⟨p.pa.space, (p.pa.bit / 256 + (s - sectorOf p.pa)) * 256⟩ }
        n ||| laid at_ p (2 ^ p.width - 1)
      else n) 0
    if cover = 2 ^ 256 - 1 then { c with poison := sdel c.poison s } else c) c

/-- The pieces of a store are written in ascending thread number, so that the highest lands (R121), and its line records the
core of a release (R152); under NT it is first for eviction (R127, R173). What is written at L2 to a page of another chip goes on
there as UALink writes at once, whose acknowledgement bears that chip's stamp: the spec does not say when L2 gives it up (R237;
log 46). -/
def writePieces (m : Memory) (c : Chip) (r : Req) (o : Op) : Chip :=
  let c := if r.home.isL2 then noteView c r.enc o.part.toNat (reqUnits r) else c
  let c := r.pieces.foldl (fun c p =>
    let v := fld o.data[p.t.val] p.pos p.width
    let c := homeWrite m c r.home.isL2 r.enc o.part.toNat p v
    let c := if deadWrite c o.kind then c else defineBits c p
    if r.home.isL2 then l2Wrote (if viaL1 o.kind then l1Update c o.core p v else c) p else c) c
  let c := clearPoison c r.pieces
  let c := if r.home.isL2 && r.nt then l2Last c (lineOf r.block) else c
  let c := if r.home.isL2 && r.block.space == .remote then mergeAnswer (sendFar c o r) else c
  if r.home.isL2 && r.pieces.any fun p => lane o.recs p.t then { c with releasedBy := sput c.releasedBy (lineOf r.block) o.core }
  else c

/-- A store takes effect; a spill waits until every spill of its call has found its home (R305). -/
def writeReq (m : Memory) (c : Chip) (id : Nat) (r : Req) (o : Op) : Chip :=
  match o.kind with
  | .spill _ _ _ => markDone c id r fun o => { o with parts := o.parts ++ [r] }
  | _ => markDone (writePieces m (if r.home.isL2 then c else mergeFar c r o) r o) id r fun o => o

/-- The new value of an atomic (R290): `x` and `k` are the operand and the compare value, all of w bits. -/
def atomNew (op : AtomOp) (w old x k : Nat) : Nat :=
  match op with
  | .add => (old + x) % 2 ^ w
  | .imin => if sgn w old ≤ sgn w x then old else x
  | .imax => if sgn w x ≤ sgn w old then old else x
  | .umin => min old x
  | .umax => max old x
  | .and => old &&& x
  | .or => old ||| x
  | .xor => old ^^^ x
  | .exch => x
  | .cas => if old = k then x else old
  | .incw => if x ≤ old then 0 else (old + 1) % 2 ^ w
  | .decw => if old = 0 ∨ x < old then x else old - 1
  | .fadd => (finish fp32 rne false (exactAdd rne (decodeFmt fp32 old) (decodeFmt fp32 x))).1

/-- An atomic takes effect: the read-modify-writes of its threads in ascending order (R121, R146, R292). -/
def atomReq (m : Memory) (c : Chip) (id : Nat) (r : Req) (o : Op) (op : AtomOp) : Chip :=
  let c := if r.home.isL2 then noteView c r.enc o.part.toNat (reqUnits r) else c
  let (o', c) := r.pieces.foldl (fun (o', c) p =>
    let bad := badSectors c p
    if bad.isEmpty then
      let (old, c) := blur c p (homeRead m c r.home.isL2 r.enc o.part.toNat p)
      let c := defineBits c p
      let v := atomNew op p.width old (o.data[p.t.val] % 2 ^ p.width) (o.data2[p.t.val] % 2 ^ p.width)
      let c := homeWrite m c r.home.isL2 r.enc o.part.toNat p v
      let c := if r.home.isL2 then l1Update c o.core p v else c
      let c := if r.home.isL2 && p.pa.space != .remote then l2Wrote c p else c
      ({ o' with data := o'.data.set p.t.val old }, c)
    else ({ o' with poison := o'.poison ||| BitVec.ofNat 32 (2 ^ p.t.val) }, c)) (o, c)
  let c := if r.home.isL2 && r.pieces.any fun p => lane o.recs p.t then
      { c with releasedBy := sput c.releasedBy (lineOf r.block) o.core } else c
  let first := r.pieces.findSome? fun p => ((badSectors c p).head?.map fun s => badAddr o p s)
  let tmask := threadsOf (r.pieces.filter fun p => !(badSectors c p).isEmpty)
  let c := markDone (mergeFar c r o) id r fun _ => { o' with poisonSub := if tmask = 0 then o'.poisonSub else poisonSub r }
  defer c r.op cPOISON (poisonSub r) tmask (first.getD 0)

/-- One request takes effect, after its home's check of the owner (R115). -/
def actReq (m : Memory) (c : Chip) (id : Nat) (r : Req) (o : Op) : Chip :=
  if homeGone c r.home then
    let tmask := threadsOf r.pieces
    let addr := (r.pieces.head?.map fun p => o.addr[p.t.val] + BitVec.ofNat 64 p.pos).getD 0
    defer (markDone c id r fun o => { o with gone := o.gone ||| tmask }) r.op cPEERGONE 0 tmask addr
  else
    match o.kind with
    | .atom _ op _ => atomReq m c id r o op
    | k => if isStore k then writeReq m c id r o else sampleReq m c id r o false

/-- The earlier requests of the same warp that touch a bit of a request and have not taken effect. -/
def earlier (c : Chip) (r : Req) (w : Nat) : List Nat :=
  (c.reqs.filter fun (_, q) =>
    decide (q.op < r.op) && !q.done && ((sget c.ops q.op).map Op.w).getD 24576 == w
      && q.pieces.any fun a => r.pieces.any fun b => meets a b).map (·.1)

/-- An operation is held behind its warp's earlier stores and has not left (R151, R400). -/
def isHeld (c : Chip) (op : Nat) : Bool := c.rel.any fun r => r.ev == .sendOp op

/-- A request takes effect in the program order of its warp on each bit (R145): the earlier loads and atomics on its bits
take effect first, an atomic makes earlier stores take effect too, a load reads over them, and a store overtakes them. What is
held behind earlier stores is not hastened: later accesses of its warp to its bits wait for it (heldOn). -/
def effect (m : Memory) : Nat → Nat → Chip → Chip
  | 0, _, c => c
  | n + 1, id, c =>
    match sget c.reqs id with
    | none => c
    | some r =>
      if r.done then c
      else
        match sget c.ops r.op with
        | none => c
        | some o =>
          let c := if o.w < 24576 then
              (earlier c r o.w).foldl (fun c e =>
                match sget c.reqs e with
                | none => c
                | some q =>
                  if q.write && isStore o.kind then
                    let q := { q with pieces := r.pieces.foldl (fun l p => l.flatMap fun q => trimPiece q p) q.pieces }
                    { c with reqs := sput c.reqs e q }
                  else if isHeld c q.op then c
                  else if !q.write || isAtom o.kind then effect m n e c
                  else c) c
            else c
          match sget c.ops r.op with
          | none => c
          | some o => actReq m c id r o

/-- The request's effect, if it has not been taken. -/
def takeEffect (m : Memory) (c : Chip) (id : Nat) : Chip := effect m (c.reqs.length + 1) id c

/-! ## The end of an operation -/

/-- Watchpoints of a core that an access of a thread meets: the lowest bit address inside a watched range (R268). -/
def watchHit (c : Chip) (core a w : Nat) (store : Bool) : Option Nat :=
  ((List.range 8).filterMap fun i =>
    let start := (dev c (rWpa core i)).toNat
    let l := (dev c (rWpl core i)).toNat
    let len := fld l 0 32
    if len ≠ 0 ∧ bit l (if store then 33 else 32) ∧ a < start + len ∧ start < a + w then some (max a start) else none).min?

/-- WATCH for the threads whose access completed and meets a watchpoint (R249, R268). -/
def watch (c : Chip) (id : Nat) (o : Op) (width : Fin 32 → Nat) : Chip :=
  if o.w < 24576 then
    let done := o.act &&& ~~~(o.poison ||| o.gone)
    let store := isStore o.kind || isAtom o.kind
    let hit := fun (t : Fin 32) => if lane done t then watchHit c o.core o.addr[t.val].toNat (width t) store else none
    let tmask := maskOf fun t => (hit t).isSome
    defer c id cWATCH 0 tmask (BitVec.ofNat 64 (((lowest tmask).bind hit).getD 0))
  else c

/-- A register mapped, with zeros where it is new (R34). -/
def mapReg (x : Warp) (n : Nat) : Warp :=
  match sget x.v n with
  | some _ => x
  | none => { x with v := sput x.v n (Vector.replicate 32 0) }

/-- The value of a loaded element under a width code (R352). -/
def loaded (wc x : Nat) : Nat :=
  if wc = 10 then ((BitVec.ofNat 8 x).signExtend 32).toNat else if wc = 11 then ((BitVec.ofNat 16 x).signExtend 32).toNat else x

/-- Loaded data put into k registers from d, in the threads of a mask, and available (R24). -/
def putLoad (x : Warp) (d k : Nat) (mask : BitVec 32) (val : Fin 32 → Nat) : Warp :=
  (List.range k).foldl (fun x i =>
    { vwrite x (d + i) mask (fun t => BitVec.ofNat 32 (val t / 2 ^ (32 * i))) with ready := sdel x.ready (d + i) }) x

/-- The operation has gone: its token, and its place among the outstanding loads. -/
def closeOp (c : Chip) (id : Nat) (o : Op) : Chip :=
  let c := { c with ops := sdel c.ops id }
  let c := doneToken c o.w id
  modWarp c o.w fun x => { x with loads := x.loads.filter (· != id) }

/-- The bits that each thread of an operation accesses. -/
def opWidth (o : Op) (t : Fin 32) : Nat :=
  match o.kind with
  | .atom _ _ .bf => fld o.data2[t.val] 64 6
  | _ => o.width

/-- A request has ended: its operation counts it, and the number still open is returned. -/
def closeReq (c : Chip) (id : Nat) (r : Req) : Nat × Chip :=
  let c := { c with reqs := sdel c.reqs id }
  match sget c.ops r.op with
  | some o => (o.left - 1, { c with ops := sput c.ops r.op { o with left := o.left - 1 } })
  | none => (1, c)

end Sys2Proof.Machine
end

