-- ==== Sys2Proof/Machine/Window.lean ====
section
/-!
DEFINITION. Sys2Proof/Machine/Window.lean: the engine window (R116, R165 to R169): stores to W0 to W3 and GO.
-/

namespace Sys2Proof.Machine
open Sys2Proof

/-- The queue of a GO word by its mask bit of R168, where R168 opens it to warps. -/
def goQueue (go : Nat) : Option (Fin 9) :=
  let q := fld go 3 2
  match fld go 0 3 with
  | 0 => if q < 3 then some (Fin.ofNat 9 q) else none
  | 1 => if q < 2 then some (Fin.ofNat 9 (4 + q)) else none
  | 2 => if q < 2 then some (Fin.ofNat 9 (6 + q)) else none
  | 3 => if q = 0 then some 8 else none
  | _ => none

/-- The engine of a queue. -/
def engOf (q : Fin 9) : Nat := if q.val < 4 then 0 else if q.val < 6 then 1 else if q.val < 8 then 2 else 3

/-- A worker block holds a tile, or a plane, of a core (R196). -/
def holdsTile (c : Chip) (core : Nat) (b : Option (Fin 256)) (i : Nat) : Bool :=
  b.isSome && (coreAt c core).tileHolder[i % 4]'(Nat.mod_lt _ (by decide)) == b
def holdsPlane (c : Chip) (core : Nat) (b : Option (Fin 256)) (i : Nat) : Bool :=
  b.isSome && (coreAt c core).planeHolder[i % 8]'(Nat.mod_lt _ (by decide)) == b

/-- The tiles and planes that a command names are held by its block (R169, R189). -/
def holdsNamed (c : Chip) (core : Nat) (b : Option (Fin 256)) (q : Fin 9) (words : Vector W64 4) : Bool :=
  if engOf q = 1 then
    let w1 := words[1].toNat
    match fld w1 0 2 with
    | 1 => (List.range 8).all fun i =>
        !(decide (fld w1 4 3 ≤ i) && decide (i ≤ fld w1 4 3 + fld w1 7 3)) || holdsPlane c core b i
    | 3 => true
    | _ => holdsTile c core b (fld w1 2 2)
  else if engOf q = 0 ∧ fld words[3].toNat 0 4 = 6 then
    let w0 := words[0].toNat
    if bit w0 3 then holdsPlane c core b (fld w0 0 3) else decide (fld w0 0 3 < 4) && holdsTile c core b (fld w0 0 3)
  else true

/-- The tag of a GO word is busy. -/
def tagBusy (c : Chip) (core tag : Nat) : Bool :=
  (coreAt c core).tags[tag % 64]'(Nat.mod_lt _ (by decide)) == .busy

/-- A GO passes the checks of R169. -/
def goOk (c : Chip) (w go : Nat) : Bool :=
  let x := warpAt c w
  match goQueue go with
  | none => false
  | some q =>
    go / 2 ^ 13 == 0 && !tagBusy c (coreOf w) (fld go 5 6) && !((bit go 11 || bit go 12) && x.job.isNone)
      && holdsNamed c (coreOf w) x.block q x.stage

/-- The index of a job's event. -/
def evIdx (name : BitVec 26) : Nat := name.toNat % 65536

/-- An event entry (R214). -/
def eventAt (c : Chip) (i : Nat) : Event := (sget c.events i).getD Event.blank

def modEvent (c : Chip) (i : Nat) (f : Event → Event) : Chip := { c with events := sput c.events i (f (eventAt c i)) }

/-- The state of a tag changed. -/
def setTag (c : Chip) (core : Nat) (tag : Fin 64) (t : Tag) : Chip :=
  modCore c core fun k =>
    if k.tagAt[tag.val] = c.cycle + 1 then { k with tags := k.tags.set tag.val t }
    else { k with tags := k.tags.set tag.val t, tagWas := k.tagWas.set tag.val k.tags[tag.val],
                  tagAt := k.tagAt.set tag.val (c.cycle + 1) }

/-- A tag as it stood at the end of the cycle before (R171). -/
def tagView (c : Chip) (core : Nat) (tag : Fin 64) : Tag :=
  let k := coreAt c core
  if k.tagAt[tag.val] = c.cycle + 1 then k.tagWas[tag.val] else k.tags[tag.val]

/-- A command as GO makes it. -/
def newCmd (c : Chip) (w : Nat) (q : Fin 9) (go : Nat) (flag : Option (Fin 12)) : Cmd :=
  let x := warpAt c w
  { Cmd.blank with
    core := coreOf w, queue := q, tag := some (Fin.ofNat 64 (fld go 5 6)), w := w, block := x.block, part := x.part,
    kernel := x.kernel, flag := flag, job := x.job, gen := x.jobGen, notify := bit go 11,
    bound := bit go 12, words := x.stage, finished := if bit go 12 && x.rcl then some 1 else none,
    stream := x.job.map fun n => Fin.ofNat 64 (eventAt c (evIdx n)).stream.toNat }

/-- A GO store of the issuing warp (R157, R165, R169): its tag is busy at once, it is accepted 6 cycles later or when its
queue has room, and it is a release of what came before it. -/
def goStore (c : Chip) (go : Nat) (flag : Option (Fin 12)) : Chip :=
  let w := c.cur.w
  match goQueue go with
  | none => c
  | some q =>
    let (id, c) := freshId c
    let cmd := newCmd c w q go flag
    let c := { c with cmds := sput c.cmds id cmd }
    let c := match cmd.tag with
      | some t => setTag c (coreOf w) t .busy
      | none => c
    let c := match cmd.notify, cmd.job with
      | true, some n => modEvent c (evIdx n) fun e =>
          if e.gen = cmd.gen then { e with info := { e.info with cmds := e.info.cmds + 1 } } else e
      | _, _ => c
    let c := release c (warpAt c w).stores 0 (.cmdReleased id)
    let c := modCore c (coreOf w) fun k => { k with go := k.go.set q.val (k.go[q.val] ++ [(id, c.cycle + 6)]) }
    let c := flagUp (modWarp c w fun x => { x with goPending := true, stores := x.stores ++ [id] }) w flag
    if h : coreOf w < 192 then after c 6 (.goAccept ⟨coreOf w, h⟩ q) else c

/-- A store to a staging word (R165, R166): its count drops 4 cycles after issue. -/
def stageStore (c : Chip) (k : Fin 4) (v : W64) (flag : Option (Fin 12)) : Chip :=
  let w := c.cur.w
  let (tok, c) := freshId c
  let c := flagUp (modWarp c w fun x => { x with stage := x.stage.set k.val v, stores := x.stores ++ [tok] }) w flag
  after c 4 (.staged w flag tok)

/-- The staging word, or GO, at an offset of the window (R116). -/
inductive WinWord where
  | stage (k : Fin 4)
  | go
deriving DecidableEq, Repr

def winWord (va : Nat) : Option WinWord :=
  match va % 4096 with
  | 0x000 => some (.stage 0)
  | 0x040 => some (.stage 1)
  | 0x080 => some (.stage 2)
  | 0x0C0 => some (.stage 3)
  | 0x100 => some .go
  | _ => none

/-- WATCH for a thread's store to the window that meets a watchpoint, found at its issue (R249, R268, R397). -/
def winWatch (c : Chip) (va : Nat) (act : BitVec 32) : Chip :=
  let w := c.cur.w
  match watchHit c (coreOf w) va 64 true with
  | none => c
  | some a =>
    let x := warpAt c w
    let (key, c) := freshId c
    let d : Deferred := { code := cWATCH, sub := 0, addr := BitVec.ofNat 64 a, tmask := act, pc := c.cur.faultPc, seq := x.issued,
                          cycle := c.cycle, kernel := x.kernel, key := key, cone := none, rcl := x.rcl, drn := x.drn }
    stampFor (modWarp c w fun x => { x with deferred := x.deferred ++ [d] }) w (.late w key)

/-- The effect of a legal store to the window (R165 to R169), or EWIN. -/
def winStore (va : Nat) (v : W64) (act : BitVec 32) (occ : Nat) (flag : Option (Fin 12)) : Act := fun m c =>
  match winWord va with
  | some (.stage k) => advance m (issued (winWatch (stageStore c k v flag) va act) occ act)
  | some .go =>
    if goOk c c.cur.w v.toNat then advance m (issued (winWatch (goStore c v.toNat flag) va act) occ act)
    else raise c cEWIN act (BitVec.ofNat 64 va)
  | none => raise c cEWIN act (BitVec.ofNat 64 va)

/-- The count of a staged word drops (R166). -/
def fireStaged (w : Nat) (flag : Option (Fin 12)) (tok : Nat) (s : State) : Ans :=
  run (fun _ c => doneToken (flagDown c w flag) w tok) s

end Sys2Proof.Machine
end

