-- ==== Sys2Proof/Machine/Memory.lean ====
section
/-!
DEFINITION. Sys2Proof/Machine/Memory.lean: the memory instructions at their issue: LD, LDV, ST, STV, LDA, LDC, STR, STC,
ATOM, ATOMN, PREF, CINV and FENCE. Reply.lean holds the steps that end what they start.
-/

namespace Sys2Proof.Machine
open Sys2Proof

/-- An operation of the issuing warp; one that goes on behind page walks has issued before them (R248). -/
def newOp (c : Chip) (kind : OpKind) (occ : Nat) (act : BitVec 32) (addr : Fin 32 → W64) (width : Nat)
    (data data2 : Fin 32 → Nat) (flag : Option (Fin 12)) (recs : BitVec 32 := 0) : Op :=
  let w := c.cur.w
  let x := warpAt c w
  { w := w, slot := slotOf w, core := coreOf w, part := x.part, kind := kind, issued := c.cur.since.getD c.cycle, occ := occ, act := act,
    addr := Vector.ofFn addr, width := width, data := Vector.ofFn data, data2 := Vector.ofFn data2, left := 0, poison := 0,
    poisonSub := 0, gone := 0, flag := flag, pc := c.cur.faultPc,
    seq := if c.cur.since.isSome then x.issued - 1 else x.issued,
    kernel := x.kernel, recs := recs, late := [], parts := [] }

/-- L1 serves a request of an operation: it may, no poll or fence of its warp stands against it, and L1 holds it (R127, R151). -/
def servedByL1 (c : Chip) (o : Op) (r : Req) : Bool :=
  r.home.isL2 && mayHit o.kind && (warpAt c o.w).polls == 0 && l1Hit c o.core r.pieces
    && !(r.pieces.any fun p => (sectorsOf p).any fun s => (warpAt c o.w).stale.contains s)

/-- The registers of a load wait on a miss of L1 (R266): its home serves it, whether L1 lacks its bits or may not serve it. -/
def noteMiss (c : Chip) (o : Op) (r : Req) : Chip :=
  match o.kind, r.home with
  | .load _ _ _ _, .l2 _ | .lda _ _ _ _ _, .l2 _ | .load _ _ _ _, .mem | .lda _ _ _ _ _, .mem =>
    modWarp c o.w fun x => { x with missing := x.missing ++ opRegs o }
  | _, _ => c

/-- A request of a load leaves: L1 serves it, 22 cycles, or its home does (R127, R136). The earlier loads and atomics of
the warp on its bits have then taken effect (R145). -/
def sendLoad (m : Memory) (c : Chip) (id t : Nat) : Chip :=
  match sget c.reqs id with
  | none => c
  | some r =>
    match sget c.ops r.op with
    | none => c
    | some o =>
      if servedByL1 c o r then
        let c := pmEvent c o.core 3 1
        let c := if r.nt then c else l1Touch c o.core (r.pieces.map fun p => lineOf p.pa).eraseDups
        let c := (earlier c r o.w).foldl (fun c e =>
          match sget c.reqs e with
          | some q => if q.write then c else takeEffect m c e
          | none => c) c
        match sget c.ops r.op with
        | some o => schedule (sampleReq m c id { r with sent := t } o true) (max (t + 22) (o.issued + o.occ)) (.loadReply id)
        | none => c
      else
        sendReq (noteMiss (if r.home.isL2 && mayHit o.kind then pmEvent c o.core 4 1 else c) o r) id t

/-- The requests of an operation leave, one a cycle from cycle t (R354). -/
def sendAll (m : Memory) (c : Chip) (op t : Nat) : Chip :=
  ((reqsOf c op).foldl (fun (n, c) id => (n + 1, sendLoad m c id (t + n))) (0, c)).2

/-- The operations of a warp that are held behind earlier stores and meet bits of another (R145, R147, R151). An atomic waits for every
one of them, so that its value follows a release in coherence order when that has taken effect; a load or a store waits for the
atomics, and what waits for them, but not for a release whose bits it reads over or overtakes. -/
def heldOn (c : Chip) (op : Nat) : List Nat :=
  match sget c.ops op with
  | none => []
  | some o =>
    let mine := (c.reqs.filter fun e => e.2.op == op).flatMap fun e => e.2.pieces
    c.rel.filterMap fun r => match r.ev with
      | .sendOp k =>
        let hits := (c.reqs.filter fun e => e.2.op == k).any fun e => e.2.pieces.any fun p => mine.any fun q => meets p q
        match sget c.ops k with
        | some h => if h.w == o.w && hits && (isAtom o.kind || h.kind != .strong) then some k else none
        | none => none
      | _ => none

/-- An operation leaves: at once, one request a cycle, or behind those that it waits for. -/
def sendBehind (m : Memory) (c : Chip) (deps : List Nat) (op : Nat) : Chip :=
  if deps.isEmpty then sendAll m c op c.cycle else release c deps 0 (.sendOp op)

/-- The body's flag that an instruction counts on. -/
def bodyFlag (c : Chip) (k : Counts) : Option (Fin 12) := (warpAt c c.cur.w).body.bind fun b => flagOf b k

/-- The destination registers of a load: mapped, and not available until it returns (R24, R34). -/
def claimDst (x : Warp) (dst : List Nat) : Warp :=
  let x := setReady (dst.foldl mapReg x) dst none
  { x with missing := x.missing.filter fun n => !dst.contains n, deferral := dst.foldl sdel x.deferral }

/-- The occupancy of a memory instruction (R21). -/
def memOcc (u : Uses) (act : BitVec 32) : Nat := occupancy .lanes (bankCost u.src) act

/-! ## Loads -/

/-- A load of the issuing warp: `addr` by thread, `w` bits, registers of `u`. -/
def loadOp (u : Uses) (k : Rule) (addr : Warp → Fin 32 → W64) (w : Nat) (kind : OpKind) (lu nt : Bool)
    (post : Nat → Warp → Warp) : Act := withPfx none fun m c =>
  let x := warpAt c c.cur.w
  let act := entryMask c
  if exceeds x u.dst then raise c cRFULL act
  else
    let occ := memOcc u act
    withAccess k act (addr x) (fun _ => w) occ none (fun found m c =>
      let flag := bodyFlag c .setA
      let o := newOp c kind occ act (addr x) w (fun _ => 0) (fun _ => 0) flag
      let (id, c) := openOp c o (gather found) lu nt fun _ => 0
      let c := modWarp (flagUp c o.w flag) o.w fun x => post id { claimDst x u.dst with loads := x.loads ++ [id] }
      let c := sendBehind m c (heldOn c id) id
      advance m (issued c occ act)) m c

/-- The address of a scaled access (R352): the base and the signed index times the width. -/
def scaledAddr (sb : SReg) (x : Src) (w : Nat) (a : Warp) (t : Fin 32) : W64 :=
  sread a sb + (src32 a x t).signExtend 64 * BitVec.ofNat 64 w

/-- The address of an access through a 64-bit index (R352). -/
def fullAddr (sb : SReg) (x : Src) (a : Warp) (t : Fin 32) : W64 := sread a sb + src64 a x t

def ldOp (i : Instr) (o : LdOps) (addr : Warp → Fin 32 → W64) : Act :=
  loadOp (usesOf i none) { acc := .load } addr (wcWidth o.wc.val) (.load o.d.val o.wc.val true (!o.nt)) o.lu o.nt
    (fun _ x => x)

/-- LD (R352 to R354). -/
def execLd (o : LdOps) (s : State) : Ans := run (ldOp (.ld o) o (scaledAddr o.sb o.x (wcWidth o.wc.val))) s

/-- LDV (R352 to R354). -/
def execLdv (o : LdOps) (s : State) : Ans := run (ldOp (.ldv o) o (fullAddr o.sb o.x)) s

/-- Whether a scope is CORE or wider. -/
def scopeWide (s : Scope) : Bool := s != .warp

/-- L1 may serve LDA and LDC at WARP and CORE scope (R151). -/
def scopeNear (s : Scope) : Bool := s == .warp || s == .core

/-- The width of a strong access. -/
def strongW (w64 : Bool) : Nat := if w64 then 64 else 32

/-- LDA (R355, R356): later memory and synchronising instructions wait for its value. -/
def execLda (o : LdaOps) (s : State) : Ans := run (
    loadOp (usesOf (.lda o) none) { acc := .load, suits := classN } (scaledAddr o.sb o.x (strongW o.w64)) (strongW o.w64)
      (.lda o.d.val o.w64 (scopeWide o.scope) (scopeNear o.scope) o.rem) false false
      (fun id x => { x with hold := x.hold ++ [id] })) s

/-- LDC (R355, R356). -/
def execLdc (o : LdaOps) (s : State) : Ans := run (
    loadOp (usesOf (.ldc o) none) { acc := .load, suits := classN } (scaledAddr o.sb o.x (strongW o.w64)) (strongW o.w64)
      (.load o.d.val (if o.w64 then 8 else 7) (scopeNear o.scope) (scopeNear o.scope)) false false (fun _ x => x)) s

/-! ## Stores -/

/-- What a store writes for a thread (R396). -/
def storeData (x : Warp) (d : Src) (wc : Nat) (t : Fin 32) : Nat :=
  if wc = 9 then
    match d with
    | .v n => (pair64 x (n.val + 2) t).toNat * 2 ^ 64 + (pair64 x n.val t).toNat
    | .s _ => 0
  else if wc = 8 then (src64 x d t).toNat
  else (src32 x d t).toNat % 2 ^ wcWidth wc

/-- A store of the issuing warp; `held` when its writes leave behind every earlier store (R400). -/
def storeOp (u : Uses) (k : Rule) (addr : Warp → Fin 32 → W64) (w : Nat) (data : Warp → Fin 32 → Nat)
    (kind : OpKind) (recs : Warp → BitVec 32) (lu nt held : Bool) : Act := withPfx none fun m c =>
  let x := warpAt c c.cur.w
  let act := entryMask c
  let occ := memOcc u act
  withAccess k act (addr x) (fun _ => w) occ none (fun found m c =>
    let flag := bodyFlag c .setB
    let deps := (warpAt c c.cur.w).stores
    let o := newOp c kind occ act (addr x) w (data x) (fun _ => 0) flag (recs x)
    let (id, c) := openOp c o (gather found) lu nt (fun _ => 0)
    let c := modWarp (flagUp c o.w flag) o.w fun x => { x with stores := x.stores ++ [id] }
    let c := sendBehind m c (if held then deps else heldOn c id) id
    advance m (issued c occ act)) m c

/-- ST or STV: `plain` when its form may write the engine window (R397). -/
def stOp (i : Instr) (o : StOps) (plain : Bool) (addr : Warp → Fin 32 → W64) : Act := withPfx none fun m c =>
  let x := warpAt c c.cur.w
  let act := entryMask c
  let u := usesOf i none
  match lowest act with
  | some t =>
    if plain && o.wc.val == 8 && !o.nt && !o.lu && popCount act == 1 && inWindow (addr x t).toNat then
      winStore (addr x t).toNat (src64 x o.d t) act (memOcc u act) (bodyFlag c .setB) m c
    else
      storeOp u { acc := .store } addr (wcWidth o.wc.val) (fun x => storeData x o.d o.wc.val) .store (fun _ => 0) o.lu o.nt
        false m c
  | none => advance m (issued c 1 act)

/-- ST (R396 to R398), the five-store protocol included (R165). -/
def execSt (o : StOps) (s : State) : Ans := run (stOp (.st o) o true (scaledAddr o.sb o.x (wcWidth o.wc.val))) s

/-- STV (R396 to R398). -/
def execStv (o : StOps) (s : State) : Ans := run (stOp (.stv o) o false (fullAddr o.sb o.x)) s

/-- STR or STC, with the threads whose write records the core (R152). -/
def strOp (i : Instr) (o : StrOps) (recs : Warp → BitVec 32) (held : Bool) : Act :=
  storeOp (usesOf i none) { acc := .store, suits := classN } (scaledAddr o.sb o.x (strongW o.w64)) (strongW o.w64)
    (fun x => storeData x o.d (if o.w64 then 8 else 7)) .strong recs false false held

/-- STR (R399, R400): a release. -/
def execStr (o : StrOps) (s : State) : Ans := run (strOp (.str o) o (fun x => if o.scope = .core then BitVec.allOnes 32 else x.coreRelease) true) s

/-- STC (R399, R400). -/
def execStc (o : StrOps) (s : State) : Ans := run (strOp (.stc o) o Warp.coreRelease false) s

/-! ## Atomics -/

/-- The width of a thread's atomic (R290). -/
def atomWidth (o : AtomOps) (x : Warp) (t : Fin 32) : Nat :=
  match o.size with
  | .w32 => 32
  | .w64 => 64
  | .bf => (vread x (o.d.val + 1) t).toNat % 32 + 1

def atomAddr (o : AtomOps) (x : Warp) (t : Fin 32) : W64 :=
  let i := (vread x o.xv.val t).signExtend 64
  sread x o.sb + (match o.size with
    | .w32 => i * 32
    | .w64 => i * 64
    | .bf => i)

/-- The operand of a thread's atomic. -/
def atomData (o : AtomOps) (x : Warp) (t : Fin 32) : Nat :=
  match o.size with
  | .w64 => (pair64 x o.d.val t).toNat
  | _ => (vread x o.d.val t).toNat

/-- Its compare value, with the width of a .bf access above bit 64. -/
def atomCompare (o : AtomOps) (x : Warp) (t : Fin 32) : Nat :=
  match o.size with
  | .w32 => (vread x (o.d.val + 1) t).toNat
  | .w64 => (pair64 x (o.d.val + 2) t).toNat
  | .bf => (vread x (o.d.val + 1) t).toNat / 32 + atomWidth o x t * 2 ^ 64

/-- The largest number of threads that share a granule, or a pair of them (R292, R293). -/
def shareG (size : AtomSize) (l : List Found) : Nat :=
  let unit := fun (f : Found) => (f.x.pa.space.num, f.x.pa.bit / (if size = .w64 then 64 else 32))
  l.foldl (fun n f => max n ((l.filter fun g => unit g == unit f).length)) 1

/-- ATOM or ATOMN of the issuing warp. -/
def atomicOp (i : Instr) (o : AtomOps) (ret : Bool) : Act := withPfx none fun m c =>
  let x := warpAt c c.cur.w
  let act := entryMask c
  let u := usesOf i none
  let rule : Rule := { acc := .store, suits := if o.size = .bf then inGranule else classN, atomic := true, bytes := false }
  if exceeds x u.dst then raise c cRFULL act
  else
    let occ := memOcc u act
    withAccess rule act (atomAddr o x) (atomWidth o x) occ none (fun found m c =>
      let flag := bodyFlag c (if ret then .setA else .setB)
      let p := newOp c (.atom (if ret then some o.d.val else none) o.op o.size) occ act (atomAddr o x)
        (if o.size = .w64 then 64 else 32) (atomData o x) (atomCompare o x) flag x.coreRelease
      let (id, c) := openOp c p (gather found) false false fun _ => 4 * (shareG o.size found - 1)
      let c := modWarp (flagUp c p.w flag) p.w fun x =>
        { claimDst x u.dst with stores := x.stores ++ [id], loads := x.loads ++ [id] }
      let c := sendBehind m c (heldOn c id) id
      advance m (issued c occ act)) m c

/-- ATOM (R290 to R293). -/
def execAtom (o : AtomOps) (s : State) : Ans := run (atomicOp (.atom o) o true) s

/-- ATOMN (R290 to R293). -/
def execAtomn (o : AtomOps) (s : State) : Ans := run (atomicOp (.atomn o) o false) s

/-! ## PREF, CINV and FENCE -/

/-- A run widened to whole sectors (R372). -/
def widen (f : Found) : Found :=
  let off := f.x.pa.bit % 256
  { f with x := { f.x with pa := { f.x.pa with bit := f.x.pa.bit - off } },
           run := { f.run with pos := 0, width := (off + f.run.width + 255) / 256 * 256 } }

/-- What a PREF finds: of an access that would fault, or on a page of HOME 10 or 11, nothing (R372). -/
def prefFound (m : Memory) (c : Chip) (o : Op) : List Found :=
  (List.finRange 32).flatMap fun t =>
    if lane o.act t then
      let l := findThread m c o.core o.part.toNat o.kernel { acc := .load } t o.addr[t.val].toNat o.width
      if (faultsOf l).isEmpty then (foundOf l).filter fun f => f.x.home < 2 else []
    else []

/-- A PREF in flight leaves with what it finds. -/
def sendPref (m : Memory) (c : Chip) (id : Nat) (o : Op) : Chip :=
  let found := prefFound m c o
  if found.isEmpty then closeOp c id o
  else sendAll m (openReqs c id o (gather (found.map widen)) false false fun _ => 0) id c.cycle

/-- PREF into L1 or into L2 alone: nothing waits for it; where its pages must be walked it leaves behind the walks (R138, R372). -/
def prefOp (i : Instr) (o : PrefOps) (l1 : Bool) : Act := withPfx none fun m c =>
  let w := c.cur.w
  let x := warpAt c w
  let act := entryMask c
  let occ := memOcc (usesOf i none) act
  let p := newOp c (.pref l1) occ act (scaledAddr o.sb o.x (wcWidth o.wc.val) x) (wcWidth o.wc.val) (fun _ => 0) (fun _ => 0) none
  let found := prefFound m c p
  let c := if found.isEmpty then c
    else
      let (id, c) := openOp c p [] false false fun _ => 0
      match needWalk m c p.core p.part.toNat false (found.map fun f => f.run.va) with
      | [] => sendPref m c id p
      | pages => pages.foldl (fun c q => joinWalk c p.core p.part.toNat q fun k => { k with prefs := k.prefs ++ [id] }) c
  advance m (issued c occ act)

/-- PREF.L1 (R372). -/
def execPrefL1 (o : PrefOps) (s : State) : Ans := run (prefOp (.prefL1 o) o true) s

/-- PREF.L2 (R372). -/
def execPrefL2 (o : PrefOps) (s : State) : Ans := run (prefOp (.prefL2 o) o false) s

/-- CINV (R308, R309). -/
def execCinv (o : PrefOps) (s : State) : Ans := run (withPfx none fun m c =>
    let x := warpAt c c.cur.w
    let act := entryMask c
    let occ := memOcc (usesOf (.cinv o) none) act
    withAccess { acc := .store, bytes := false } act (scaledAddr o.sb o.x (wcWidth o.wc.val) x) (fun _ => wcWidth o.wc.val)
      occ none (fun found m c =>
        let c := l1Drop c (coreOf c.cur.w) ((found.filter fun f => f.x.home < 2).map fun f => lineOf f.x.pa).eraseDups
        advance m (issued c occ act)) m c) s

/-- What a FENCE does to its warp and its core (R330, R152). -/
def fenceOp (scope : Scope) (kind : FenceKind) (c : Chip) : Chip :=
  let w := c.cur.w
  let c := if kind = .acquire then c
    else modWarp c w fun x => { x with
      hold := x.hold ++ x.stores, coreRelease := if scope = .core then x.coreRelease ||| entryMask c else x.coreRelease }
  if kind = .release then c
  else
    let c := modWarp c w fun x => { x with hold := x.hold ++ x.loads }
    if scopeWide scope then
      modWarp (l1Flush c (coreOf w)) w fun x =>
        { x with holdUntil := max x.holdUntil (c.cycle + 4), fenced := !x.hold.isEmpty, stale := [] }
    else c

/-- FENCE (R329, R330). -/
def execFence (scope : Scope) (kind : FenceKind) (s : State) : Ans := run (
    once 1 {} fun _ c => if entryMask c = 0 then c else fenceOp scope kind c) s

end Sys2Proof.Machine
end

