-- ==== Sys2Proof/Machine/Groups.lean ====
section
/-!
DEFINITION. Sys2Proof/Machine/Groups.lean: what waiting instructions share: how one returns and how one is abandoned (R220,
R244, R298, R368, R373, R375), arrivals at barriers (R297), receive queues (R232), resources (R36, R196, R374, R375), and the
end of a warp (R41, R317).
-/

namespace Sys2Proof.Machine
open Sys2Proof

/-! ## Events of a warp -/

/-- Events of the agenda, and events held for tokens, taken away. -/
def cancelEv (c : Chip) (f : Ev → Bool) : Chip :=
  { unschedule c f with rel := c.rel.filter fun r => !f r.ev }

/-- Such an event is to come. -/
def hasEv (c : Chip) (f : Ev → Bool) : Bool := (c.agenda.any fun e => f e.2) || c.rel.any fun r => f r.ev

def isWake (w : Nat) (e : Ev) : Bool :=
  match e with
  | .wake u _ => u == w
  | _ => false

def isArrive (w : Nat) (g : Fin 256) (e : Ev) : Bool :=
  match e with
  | .arrive u h => u == w && h == g
  | _ => false

/-- The events that a waiting instruction of a warp waits for. -/
def isWaited (w : Nat) (e : Ev) : Bool :=
  match e with
  | .wake u _ => u == w
  | .phaseReady u => u == w
  | .racqGrant u => u.val == w
  | .rrelFree u => u.val == w
  | .tlbiComplete u => u.val == w
  | .sysw u _ _ => u == w
  | _ => false

/-- The events that concern a warp alone, and end with it. -/
def isOwn (w : Nat) (e : Ev) : Bool :=
  match e with
  | .halted u _ => u == w
  | .sysr u _ _ => u == w
  | e => isWaited w e

/-- An event whose warp has ended: what is left of it is the token. -/
def orphan (w : Nat) (e : Ev) : Ev :=
  match e with
  | .staged u f t => if u = w then .staged 24576 f t else .staged u f t
  | e => e

/-- A list in the order of a number, ties in the list's order. -/
def insertBy (f : Nat → Nat) (a : Nat) : List Nat → List Nat
  | [] => [a]
  | b :: r => if f a ≤ f b then a :: b :: r else b :: insertBy f a r

def sortBy (f : Nat → Nat) (l : List Nat) : List Nat := l.foldr (insertBy f) []

/-- A waiting instruction of a warp returns, with a change to the warp: its entry goes on behind it. -/
def finishWait (m : Memory) (c : Chip) (w : Nat) (f : Warp → Warp) : Chip :=
  match (warpAt c w).body with
  | none => modWarp c w fun x => { f x with wait := .none }
  | some b =>
    let c := { c with cur := { w := w, pc := b.pc, faultPc := b.pc, next := b.pc + 32, pfx := none } }
    goOn m (modWarp c w fun x => { f x with wait := .none })

/-- The bodies that wait in a BAR beside the running one leave it: each stands behind its BAR, or at it (R297). -/
def leaveBars (m : Memory) (c : Chip) (w : Nat) (behind : Bool) : Chip :=
  (warpAt c w).bars.foldl (fun c b =>
    let next := b.pc + 32
    let e : Entry := { pc := b.pc, hdr := b.hdr, prio := b.prio, mask := b.mask, kernel := b.kernel }
    if !behind then arrive m c w e
    else if next.toNat < b.stop.toNat then arrive m c w { e with pc := next }
    else
      let d := nextHeader b.stop
      arrive m c w { e with pc := d, hdr := d, prio := headerPrio m c w d })
    (modWarp c w fun x => { x with bars := [] })

/-- The issuing warp waits in its instruction, which has occupancy 1. -/
def waitHere (c : Chip) (x : Wait) : Chip :=
  endIssue (modWarp (issued c 1 (entryMask c)) c.cur.w fun y => { y with wait := x })

/-- The warp's wait ends at a cycle, with a value. -/
def wakeAt (c : Chip) (w t : Nat) (v : W64) : Chip := schedule c t (.wake w v)

/-- A scalar result that is available later (R24). -/
def writeLate (x : Warp) (sd : SReg) (v : W64) (t : Nat) : Warp := setReady (swrite x sd v) [codeS sd.val] (some t)

/-! ## Barriers (R297) -/

def setArrived (c : Chip) (g n : Nat) : Chip := setGrpFld c g 21 15 n

/-- The generation of a group at which a warp's last arrival counts, when it is still open. -/
def hasArrived (c : Chip) (w g : Nat) : Bool := sget (warpAt c w).arrived g == some (gGen c g)

/-- A warp arrives: the arrival takes effect when its earlier stores are performed (R298). -/
def arriveAt (c : Chip) (w : Nat) (g : Fin 256) : Chip :=
  let gen := gGen c g.val
  let deps := (warpAt c w).stores
  release (modWarp c w fun x => { x with arrived := sput x.arrived g.val gen }) deps 0 (.arrive w g)

/-- A group whose members have all arrived completes its generation. -/
def checkBarrier (c : Chip) (g : Fin 256) (core : Nat) : Chip :=
  if gArrived c g.val = gMembers c g.val ∧ 0 < gMembers c g.val then
    after { c with barCore := sput c.barCore g.val core } 0 (.barrierComplete g)
  else c

/-- A warp's arrival at an open generation withdrawn. -/
def withdraw (c : Chip) (w : Nat) (g : Fin 256) : Chip :=
  if hasArrived c w g.val then
    let c := if hasEv c (isArrive w g) then cancelEv c (isArrive w g) else setArrived c g.val (gArrived c g.val - 1)
    modWarp c w fun x => { x with arrived := sdel x.arrived g.val }
  else c

/-! ## Receive queues (R232) -/

/-- The warps that wait in QRCV on a queue of a core, in the order in which they issued. -/
def queueWaiters (c : Chip) (core : Nat) (q : Fin 4) : List Nat :=
  sortBy (fun w => (warpAt c w).lastIssue) ((warpsOfCore c core).filter fun w =>
    match (warpAt c w).wait with
    | .qrcv _ r _ => r == q
    | _ => false)

/-- Each waiting QRCV for which a message stands in the queue returns 12 cycles after the later of its issue and the
message's arrival, also where it was to return later with a message behind that one (R373). -/
def checkQueue (c : Chip) (core : Nat) (q : Fin 4) : Chip :=
  let held := (coreAt c core).queues[q.val]
  ((queueWaiters c core q).zip held).foldl (fun c (w, h) =>
    let t := max c.cycle (max (warpAt c w).lastIssue h.at_ + 12)
    if c.agenda.any (fun e => isWake w e.2 && decide (e.1 = t)) then c else wakeAt (cancelEv c (isWake w)) w t 0) c

/-! ## Resources (R36, R196, R374, R375) -/

/-- Unreserved registers in every bank of a slice (R35). -/
def freeRegs (c : Chip) (core slice : Nat) : Nat :=
  64 - (((warpsOfCore c core).filter fun w => sliceOf w == slice).map fun w => share (warpAt c w)).sum

/-- The free pool pages of a core (R374). -/
def freePages (c : Chip) (core : Nat) : List (Fin 64) :=
  (List.finRange 64).filter fun i => (dev c (rSpPool core)).getLsbD i.val && (coreAt c core).poolHolder[i.val].isNone

def freeTiles (c : Chip) (core : Nat) : List (Fin 4) :=
  (List.finRange 4).filter fun i => (coreAt c core).tileHolder[i.val].isNone

def freePlanes (c : Chip) (core : Nat) : List (Fin 8) :=
  (List.finRange 8).filter fun i => (coreAt c core).planeHolder[i.val].isNone

/-- A set of numbers as a bitmap. -/
def bitmap (l : List Nat) : W64 := l.foldl (fun n i => n ||| BitVec.ofNat 64 (2 ^ i)) 0

/-- A request that can be granted: the value of SD and the grant. -/
def racqTry (c : Chip) (w : Nat) (kind : Fin 4) (k : Nat) : Option (W64 × Chip) :=
  let x := warpAt c w
  let core := coreOf w
  match kind.val with
  | 0 =>
    if k / 4 ≤ freeRegs c core (sliceOf w) then
      let h := x.headroom + BitVec.ofNat 7 k
      some (h.setWidth 64, modWarp c w fun x => { x with headroom := h })
    else none
  | 1 =>
    match (freeTiles c core).find? fun i => k == 511 || k == i.val with
    | some i => some (BitVec.ofNat 64 i.val, modCore c core fun z => { z with tileHolder := z.tileHolder.set i.val x.block })
    | none => none
  | 2 =>
    match (freePlanes c core).find? fun i => k == 511 || k == i.val with
    | some i => some (BitVec.ofNat 64 i.val, modCore c core fun z => { z with planeHolder := z.planeHolder.set i.val x.block })
    | none => none
  | _ =>
    let got := (freePages c core).take k
    if got.length = k then
      some (bitmap (got.map Fin.val), modCore c core fun z =>
        { z with poolHolder := got.foldl (fun h i => h.set i.val x.block) z.poolHolder })
    else none

/-- The queue in which a request waits: its kind, and its slice for registers (R36). R196 and R375 do not say whether the issue order
of kinds 1 to 3 runs over all kinds and ids: one queue for each kind is the model's choice (log 39). -/
def racqQueue (w : Nat) (kind : Fin 4) : Nat := if kind.val = 0 then 4 + sliceOf w else kind.val

/-- The requests that wait on a core, in issue order, with their queues. -/
def racqWaiters (c : Chip) (core : Nat) : List Nat :=
  let since := fun w => match (warpAt c w).wait with
    | .racq _ _ _ t => t
    | _ => 0
  sortBy since ((warpsOfCore c core).filter fun w =>
    match (warpAt c w).wait with
    | .racq _ _ _ _ => true
    | _ => false)

/-- Where a warp's waiting request stands. -/
def racqOf (c : Chip) (w : Nat) : Option (Fin 4 × Nat) :=
  match (warpAt c w).wait with
  | .racq _ kind k _ => some (kind, k.val)
  | _ => none

/-- The first request of each queue of a core that can be granted is granted in this cycle (R375). -/
def checkRacq (c : Chip) (core : Nat) : Chip :=
  ((racqWaiters c core).foldl (fun (seen, c) w =>
    match racqOf c w with
    | some (kind, k) =>
      if seen.contains (racqQueue w kind) then (seen, c)
      else
        let pending := hasEv c fun e => match e with
          | .racqGrant u => u.val == w
          | _ => false
        if !pending && (racqTry c w kind k).isSome then (racqQueue w kind :: seen, after c 0 (.racqGrant (Fin.ofNat 24576 w)))
        else (racqQueue w kind :: seen, c)
    | none => (seen, c)) (([] : List Nat), c)).2

/-- A command names a tile, or a plane (R196). -/
def namesAcc (d : Cmd) (kind id : Nat) : Bool :=
  let w1 := d.words[1].toNat
  let w0 := d.words[0].toNat
  if engOf d.queue = 1 then
    if kind = 1 then decide (fld w1 0 2 ≠ 1) && fld w1 2 2 == id
    else fld w1 0 2 == 1 && decide (fld w1 4 3 ≤ id) && decide (id ≤ fld w1 4 3 + fld w1 7 3)
  else engOf d.queue == 0 && fld d.words[3].toNat 0 4 == 6 && bit w0 3 == (kind == 2) && fld w0 0 3 == id

/-- A command of the block that names the id is queued or running. -/
def accBusy (c : Chip) (core : Nat) (b : Option (Fin 256)) (kind id : Nat) : Bool :=
  c.cmds.any fun (_, d) => d.core == core && d.block == b && namesAcc d kind id

/-- The ids that an RREL of kind 1 or 2 is to free. -/
def rrelIds (c : Chip) (w : Nat) (kind : Fin 4) (k : Nat) : List Nat :=
  let x := warpAt c w
  let held := fun i => if kind.val = 1 then decide (i < 4) && holdsTile c (coreOf w) x.block i
    else decide (i < 8) && holdsPlane c (coreOf w) x.block i
  (List.range 8).filter fun i => (k == 511 || k == i) && held i

/-- Tiles or planes of a core freed. -/
def freeIds (c : Chip) (core kind : Nat) (ids : List Nat) : Chip :=
  modCore c core fun z =>
    if kind = 1 then { z with tileHolder := Vector.ofFn fun i => if ids.contains i.val then none else z.tileHolder[i.val] }
    else { z with planeHolder := Vector.ofFn fun i => if ids.contains i.val then none else z.planeHolder[i.val] }

/-- The waiting RRELs of a core whose ids are no longer named by a command return in this cycle. -/
def checkRrel (c : Chip) (core : Nat) : Chip :=
  (warpsOfCore c core).foldl (fun c w =>
    match (warpAt c w).wait with
    | .rrel kind k =>
      if (rrelIds c w kind k.val).all fun i => !accBusy c core (warpAt c w).block kind.val i then
        after c 0 (.rrelFree (Fin.ofNat 24576 w))
      else c
    | _ => c) c

/-! ## Jobs at a block (R43) -/

/-- Every live warp of a worker block has arrived at JPOP. -/
def blockWaits (c : Chip) (core : Nat) (g : Fin 256) : Bool :=
  let ws := warpsOfBlock c core g
  !ws.isEmpty && ws.all fun w =>
    match (warpAt c w).wait with
    | .jpop _ => !hasEv c (isWake w)
    | _ => false

/-- The block pops when it has wholly arrived and an entry waits. -/
def checkPop (c : Chip) (core : Nat) (g : Fin 256) : Chip :=
  let mb := Fin.ofNat 8 (gMbox c g.val)
  if h : core < 192 then
    if blockWaits c core g && !(coreAt c core).mail[mb.val].isEmpty then after c 0 (.jobPop ⟨core, h⟩ mb) else c
  else c

/-! ## Abandonment and the end of a warp -/

/-- A warp leaves the fault buffer. -/
def dropFaults (c : Chip) (w : Nat) : Chip :=
  let f := smap (fun _ (e : FaultEntry) => { e with warps := e.warps.filter (· != w) })
  let live := sfilter fun _ (e : FaultEntry) => !(e.warps.isEmpty && e.cmds.isEmpty && e.streams.isEmpty)
  { c with faults := live (f c.faults), faulting := live (f c.faulting) }

/-- What a replayable fault has counted on a flag is counted no more: the access ends, or replays (R54). -/
def endReplay (c : Chip) (w : Nat) : Chip :=
  modWarp (flagDown c w (warpAt c w).waitFlag) w fun x => { x with waitFlag := none }

/-- An FWAIT of a warp asks for nothing any more. -/
def dropWait (c : Chip) (w : Nat) : Chip :=
  { c with
    subs := smap (fun _ l => l.filter (· != .warp w)) c.subs,
    kreqs := sfilter (fun _ r => !(r.w == w && decide (r.op = .fwait))) c.kreqs }

/-- What an abandoned wait withdraws: the arrival of a BAR whose generation has not completed (R298). An abandoned PHADV's arrival
stood by being listed (R368). -/
def settleWait (c : Chip) (w : Nat) (x : Wait) : Chip :=
  match x with
  | .bar g _ _ => withdraw c w g
  | _ => c

/-- The waits that were abandoned in the cycle that ends withdraw their arrivals (R298, R368). -/
def settleWaits (c : Chip) : Chip := c.abandoned.foldl (fun c (w, x) => settleWait c w x) { c with abandoned := [] }

/-- Those of a warp do so at once: it arrives anew, or its cycle has ended already. -/
def settleWarpWaits (c : Chip) (w : Nat) : Chip :=
  (c.abandoned.filter fun e => e.1 == w).foldl (fun c e => settleWait c w e.2)
    { c with abandoned := c.abandoned.filter fun e => e.1 != w }

/-- A pop whose JPOPs are abandoned before they have returned has had no effect: its entry is the first of its mailbox again
(R244, R350). -/
def unpop (c : Chip) (w : Nat) : Chip :=
  match (warpAt c w).job, (warpAt c w).block with
  | some n, some g =>
    let core := coreOf w
    let ws := warpsOfBlock c core g
    let i := evIdx n
    let mb := gMbox c g.val
    let c := cancelEv c fun e => match e with
      | .popRecord k _ (some u) => k == core && ws.contains u
      | .wake u _ => ws.contains u
      | _ => false
    let c := ws.foldl (fun c u => modWarp c u fun x => { x with job := none }) c
    if (eventAt c i).info.block = some (core, g) then
      let c := modCore c core fun k => { k with
        mail := k.mail.set (mb % 8) ({ idx := i, words := (eventAt c i).info.words } :: k.mail[mb % 8]) }
      after (modEvent c i fun e => { e with
        state := 2, info := { e.info with block := none, parts := 0, queued := some (core, mb) } }) 0 (.kiln i)
    else c
  | _, _ => c

/-- A grant made in the cycle in which its RACQ is abandoned stands, and SD is not written (R375). -/
def keepGrant (c : Chip) (w : Nat) (granted : Bool) : Chip :=
  match (warpAt c w).wait, granted with
  | .racq _ kind k _, true => ((racqTry c w kind k.val).map (·.2)).getD c
  | _, _ => c

/-- A grant made to a waiting RACQ in a cycle, behind which its warp has issued nothing: the RACQ is abandoned in that cycle, the
grant stands and SD is as it was (R375). -/
def ungrant (c : Chip) (w t : Nat) : Option Chip :=
  match (warpAt c w).granted with
  | some g =>
    if g.at_ = t ∧ g.seq = (warpAt c w).issued ∧ !(warpAt c w).kernel then
      some (modWarp c w fun x =>
        { swrite x g.sd g.was with
          ready := (match g.late with
            | some t => sput x.ready (codeS g.sd.val) t
            | none => sdel x.ready (codeS g.sd.val)),
          granted := none, body := g.body, frontier := g.frontier })
    else none
  | none => none

/-- A warp's waiting instruction abandoned without effect; its entry stands at that instruction, or behind it where its
effect has already come about (R220, R235, R244, R298, R368, R373, R375). -/
def abandon (m : Memory) (c : Chip) (w : Nat) : Chip :=
  let x := warpAt c w
  let done := hasEv c (isWake w)
  let granted := hasEv c fun e => match e with
    | .racqGrant u => u.val == w
    | _ => false
  let c := leaveBars m (keepGrant c w granted) w false
  let c1 := modWarp (cancelEv c (isWaited w)) w fun x => { x with wait := .none, phaseReady := false }
  match x.wait with
  | .bar _ _ own => if own then { c1 with abandoned := c1.abandoned ++ [(w, x.wait)] } else c1
  | .phadv _ =>
    if done then finishWait m c1 w id
    else if x.phaseReady then { c1 with abandoned := c1.abandoned ++ [(w, x.wait)] }
    else c1
  | .qrcv _ q flag => checkQueue (flagDown c1 w flag) (coreOf w) q
  | .racq _ _ _ _ => checkRacq c1 (coreOf w)
  | .replay _ | .fetch => dropFaults (endReplay c1 w) w
  | .walk _ | .xlate => dropWalks c1 w
  | .fwait _ => dropWait c1 w
  | .jpop _ => if done then unpop c1 w else c1
  | _ => c1

/-- Where a warp resumes: its body's next instruction, or the clause it would select (R241). -/
def resumeOf (c : Chip) (w : Nat) : Resume :=
  let x := warpAt c w
  match x.body with
  | some b => { pc := b.pc, hdr := b.hdr, prio := b.prio, mask := b.mask }
  | none =>
    match select x with
    | some e => { pc := e.pc, hdr := e.hdr, prio := e.prio, mask := e.mask }
    | none => { pc := 0, hdr := 0, prio := 0, mask := 0 }

/-- A warp that resumes at a clause leaves that entry to the trap that takes its place. -/
def dropResume (c : Chip) (w : Nat) : Chip :=
  modWarp c w fun x =>
    match x.body with
    | some _ => x
    | none =>
      match select x with
      | some e => dropEntry x e
      | none => x

/-- A fault taken by a warp that stands between instructions (R142, R248). -/
def faultNow (c : Chip) (w : Nat) (r : Report) (hw : Bool) : Chip :=
  let at_ := resumeOf c w
  takeFault (dropResume c w) w r at_ hw

/-- A fault that an instruction of worker mode has left is taken where its warp stands, in kernel mode too (R248; log 40). -/
def lateFault (c : Chip) (w : Nat) (r : Report) (hw : Bool) : Chip :=
  if (warpAt c w).kernel then haltBroadcast (kernelTrap (dropResume c w) w r (resumeOf c w) true) w hw else faultNow c w r hw

/-- A warp leaves a group: MEMBERS falls, its arrival goes, and a barrier that only waited for it completes (R41). -/
def leaveGroup (c : Chip) (w : Nat) (g : Fin 256) : Chip :=
  let c := withdraw c w g
  let c := setGrpFld c g.val 6 15 (gMembers c g.val - 1)
  checkBarrier c g (coreOf w)

/-- The part of a warp in its current job ends without any release (R317). -/
def dropPart (c : Chip) (w : Nat) : Chip :=
  let x := warpAt c w
  match x.job, x.block with
  | some n, some g =>
    let last := ((warpsOfBlock c (coreOf w) g).filter (· != w)).isEmpty
    if (eventAt c (evIdx n)).info.block ≠ some (coreOf w, g) then c
    else after (modEvent c (evIdx n) fun e =>
      { e with info := { e.info with parts := e.info.parts - 1, failed := e.info.failed || last } }) 0 (.kiln (evIdx n))
  | _, _ => c

/-- The request of DBG_STOP clears once every member warp of its core has stopped (R265). -/
def checkStop (c : Chip) (core : Nat) : Chip :=
  let v := dev c (rDbgStop core)
  let ws := membersOn c core (fld v.toNat 0 8)
  if bit v.toNat 8 && ws.all fun w => (warpAt c w).dbgStopped || (warpAt c w).halted then
    ws.foldl (fun c w => modWarp c w fun x => { x with dbgStopped := false }) (setDev c (rDbgStop core) (v &&& 0xFF))
  else c

/-- A warp ends: its slot, registers and reservations are free, it leaves its groups, and what it started runs on without
it (R41, R317). -/
def endWarp (c : Chip) (w : Nat) : Chip :=
  let core := coreOf w
  let x := warpAt c w
  let c := dropPart c w
  let c := (memberships c w).foldl (fun c g => leaveGroup c w (Fin.ofNat 256 g)) c
  let c := setDev c (rWgrp w) 0
  let c := dropWalks (dropFaults (cancelEv c (isOwn w)) w) w
  let c := { c with
    warps := sdel c.warps w,
    agenda := c.agenda.map fun e => (e.1, orphan w e.2),
    rel := c.rel.map fun r => { r with ev := orphan w r.ev },
    ops := smap (fun _ o => if o.w = w then { o with w := 24576 } else o) c.ops,
    cmds := smap (fun _ d => if d.w = w then { d with w := 24576 } else d) c.cmds,
    msgs := smap (fun _ g => if g.w = w then { g with w := 24576 } else g) c.msgs,
    kreqs := smap (fun _ r => if r.w = w then { r with w := 24576 } else r) c.kreqs,
    subs := smap (fun _ l => l.filter (· != .warp w)) c.subs }
  let c := checkStop (checkPhases (checkRacq c core)) core
  let c := (List.finRange 4).foldl (fun c q => checkQueue c core q) c
  match x.block with
  | none => c
  | some g =>
    if (warpsOfBlock c core g).isEmpty then
      if h : core < 192 then after c 0 (.registerWrite (.remove ⟨core, h⟩ g)) else c
    else checkPop c core g

end Sys2Proof.Machine
end

