-- ==== Sys2Proof/Machine/Flow.lean ====
section
/-!
DEFINITION. Sys2Proof/Machine/Flow.lean: control transfers (R30, R51, R302 to R307, R316, R317, R380, R381), the Coil (R32,
R33), traps and returns (R45, R240 to R242, R407, R408, R351), HALT, TMSET, NOP, the prefix, and encodings that are no
instruction (R71).
-/

namespace Sys2Proof.Machine
open Sys2Proof

/-! ## Transfers -/

/-- A control transfer: no prefix, and last in its body (R52, R62). -/
def control (f : Act) : Act := withPfx none (lastOnly f)

/-- The running body of the issuing warp; one that ends here where there is none. -/
def curBody (c : Chip) : Body :=
  match (warpAt c c.cur.w).body with
  | some b => b
  | none => { hdr := c.cur.pc, pc := c.cur.pc, stop := c.cur.next, prio := 0, mask := 0, setA := none, setB := none, kernel := false }

/-- The header after the running clause (R48). -/
def afterBody (c : Chip) : W64 := nextHeader (curBody c).stop

/-- The transfer takes place, and the warp's next instruction issues no earlier than `wait` cycles from now. -/
def goWith (m : Memory) (c : Chip) (occ wait : Nat) (stay : BitVec 32) (dest : Fin 32 → W64)
    (prio : Fin 32 → Option (BitVec 12)) : Chip :=
  let w := c.cur.w
  let c := issued c occ (entryMask c)
  let c := transfer m c stay dest prio
  endIssue (holdIssue c w (c.cycle + wait) 14)

/-- The first fault of the destinations of active threads: not 64-bit aligned, then not canonical (R51, R247). -/
def badDest (act : BitVec 32) (dest : Fin 32 → W64) : Option (BitVec 6 × BitVec 32 × W64) :=
  let odd := act &&& maskOf fun t => (dest t).toNat % 64 != 0
  let far := act &&& maskOf fun t => decide (2 ^ 60 ≤ (dest t).toNat)
  match lowest odd, lowest far with
  | some t, _ => some (cILL, odd, dest t)
  | none, some t => some (cCANON, far, dest t)
  | none, none => none

/-- A transfer to checked destinations. -/
def goChecked (act : BitVec 32) (dest : Fin 32 → W64) (f : Act) : Act := fun m c =>
  match badDest act dest with
  | some (code, tmask, addr) => raise c code tmask addr
  | none => f m c

/-- The destination of a 16-bit offset in units of 64 bits from the clause header (R65). -/
def relDest (c : Chip) (off : Fin 65536) : W64 := (curBody c).hdr + (BitVec.ofNat 16 off.val).signExtend 64 * 64

/-- A branch whose threads of `taken` go to a destination and the others to the next header (R302). -/
def branch (off : Fin 65536) (taken : Warp → Fin 32 → Bool) : Act := control fun m c =>
  let x := warpAt c c.cur.w
  let act := entryMask c
  let d := relDest c off
  goChecked act (fun _ => d) (fun m c =>
    let fall := afterBody c
    goWith m c 1 4 act (fun t => if taken x t then d else fall) fun _ => none) m c

/-- BRP (R302). -/
def execBrp (p : PReg) (neg : Bool) (off : Fin 65536) (s : State) : Ans := run (branch off fun x t => pread x (.p p) t != neg) s

/-- BRA (R302). -/
def execBra (off : Fin 65536) (s : State) : Ans := run (branch off fun _ _ => true) s

/-- The occupancy of a transfer through a register: 1 for an s register, R21's for a pair. -/
def bxOcc (a : Src) (act : BitVec 32) : Nat :=
  match a with
  | .v n => occupancy .lanes (bankCost [n.val, n.val + 1]) act
  | .s _ => 1

/-- The cycles before the warp's next instruction after such a transfer (R303, R307). -/
def bxWait (a : Src) (occ : Nat) : Nat :=
  match a with
  | .v _ => max occ 6
  | .s _ => 4

/-- BRX (R303). -/
def execBrx (a : Src) (s : State) : Ans := run (control fun m c =>
    let x := warpAt c c.cur.w
    let act := entryMask c
    goChecked act (src64 x a) (fun m c =>
      goWith m c (bxOcc a act) (bxWait a (bxOcc a act)) act (src64 x a) fun _ => none) m c) s

/-! ## The Coil (R32, R33, R304 to R307) -/

/-- A call's effect on the Coil of a thread. -/
def pushCoil (x : Warp) (act : BitVec 32) (e : CoilEntry) : Warp :=
  { x with
    coil := Vector.ofFn fun t => if lane act t then e :: (x.coil[t.val]).take 3 else x.coil[t.val],
    csp := Vector.ofFn fun t =>
      if lane act t && decide (4 ≤ (x.coil[t.val]).length) then x.csp[t.val] - 4096 else x.csp[t.val],
    coilDep := Vector.ofFn fun t => if lane act t then x.coilDep[t.val] + 1 else x.coilDep[t.val] }

/-- The oldest entry of a full Coil as it is spilled (R33). -/
def spillData (x : Warp) (t : Fin 32) : Nat :=
  match (x.coil[t.val]).getLast? with
  | some e => e.prio.toNat * 2 ^ 64 + e.pc.toNat
  | none => 0

/-- A call of active threads to their destinations: with no spill at once, else when the spills have been performed. -/
def callTo (occ wait : Nat) (act : BitVec 32) (dest : Fin 32 → W64) : Act := goChecked act dest fun m c =>
  let w := c.cur.w
  let x := warpAt c w
  let ret := afterBody c
  let prio := headerPrio m c w ret
  let spill := act &&& maskOf fun t => decide (4 ≤ (x.coil[t.val]).length)
  if spill = 0 then
    goWith m (modWarp c w fun x => pushCoil x act { pc := ret, prio := prio }) occ wait act dest fun _ => none
  else
    let occ := max occ (laneMax spill)
    withAccess { acc := .store } spill (fun t => x.csp[t.val] - 4096) (fun _ => 128) occ (some cCOILF) (fun found m c =>
      let o := newOp c (.spill (Vector.ofFn dest) ret prio) occ spill (fun t => x.csp[t.val] - 4096) 128
        (spillData x) (fun _ => 0) none
      let (id, c) := openOp c o (gather found) false false fun _ => 0
      let c := modWarp c w fun x => { x with stores := x.stores ++ [id] }
      let c := sendBehind m c (heldOn c id) id
      let c := holdIssue (issued c occ act) w (c.cycle + wait) 14
      let c := pmEvent c (coreOf w) 0x33 1
      endIssue (modWarp c w fun x => { x with wait := .coil id })) m c

/-- The spills of a call have been performed: it takes effect, or raises COILF (R33, R305). -/
def finishSpill (m : Memory) (c : Chip) (o : Op) (dest : Vector W64 32) (ret : W64) (prio : BitVec 12) : Chip :=
  match (warpAt c o.w).body with
  | none => c
  | some b =>
    let bad := o.gone ||| o.poison
    if bad ≠ 0 then
      let addr := ((lowest bad).map fun t => o.addr[t.val]).getD 0
      faultNow (modWarp c o.w fun x => { x with wait := .none }) o.w
        { code := cCOILF, sub := if o.gone ≠ 0 then cPEERGONE else cPOISON, addr := addr, tmask := bad, pc := o.pc } false
    else
      let c := { c with cur := { w := o.w, pc := b.pc, faultPc := b.pc, next := b.pc + 32, pfx := none } }
      let c := modWarp c o.w fun x => { pushCoil x b.mask { pc := ret, prio := prio } with wait := .none }
      transfer m c b.mask (fun t => dest[t.val]) fun _ => none

/-- CALL (R304, R305, R307). -/
def execCall (off : Fin 65536) (s : State) : Ans := run (control fun m c =>
    let d := relDest c off
    callTo 1 4 (entryMask c) (fun _ => d) m c) s

/-- CALLX (R305 to R307). -/
def execCallx (a : Src) (s : State) : Ans := run (control fun m c =>
    let x := warpAt c c.cur.w
    let act := entryMask c
    callTo (bxOcc a act) (bxWait a (bxOcc a act)) act (src64 x a) m c) s

/-- Threads leave the frontier; a warp whose last thread leaves ends (R316, R317). The running body has already gone. -/
def endIfDone (c : Chip) (w : Nat) : Chip := if liveMask (warpAt c w) = 0 then endWarp c w else c

/-- The Coil entry that a return of a thread pops: on chip, or as a refill brought it. -/
def popEntry (x : Warp) (refill : Fin 32 → Option Nat) (t : Fin 32) : Option CoilEntry :=
  match x.coil[t.val] with
  | e :: _ => some e
  | [] => (refill t).map fun v => { pc := BitVec.ofNat 64 v, prio := BitVec.ofNat 12 (v / 2 ^ 64) }

/-- The Coil after a return. -/
def popCoil (x : Warp) (act : BitVec 32) (refill : Fin 32 → Option Nat) : Warp :=
  let back := fun (t : Fin 32) => lane act t && (popEntry x refill t).isSome
  { x with
    coil := Vector.ofFn fun t => if lane act t then (x.coil[t.val]).drop 1 else x.coil[t.val],
    csp := Vector.ofFn fun t => if back t && (x.coil[t.val]).isEmpty then x.csp[t.val] + 4096 else x.csp[t.val],
    coilDep := Vector.ofFn fun t => if back t then x.coilDep[t.val] - 1 else x.coilDep[t.val] }

/-- The return of the threads of the running entry: to what they pop, or out of the warp (R380). -/
def returnTo (m : Memory) (c : Chip) (act : BitVec 32) (refill : Fin 32 → Option Nat) : Chip :=
  let w := c.cur.w
  let x := warpAt c w
  let back := act &&& maskOf fun t => (popEntry x refill t).isSome
  let c := modWarp c w fun x => popCoil x act refill
  let c := transfer m c back (fun t => ((popEntry x refill t).map CoilEntry.pc).getD 0)
    fun t => (popEntry x refill t).map CoilEntry.prio
  endIfDone c w

/-- The PCs that a RET knows at once: ILL for one that is not aligned, and in kernel mode for a thread that has nothing to return
to, then CANON (R380). -/
def knownBad (x : Warp) (known gone : BitVec 32) (pc : Fin 32 → W64) : Option (BitVec 6 × BitVec 32 × W64) :=
  let odd := known &&& maskOf fun t => decide ((pc t).toNat % 64 ≠ 0)
  let ill := odd ||| (if x.kernel then gone else 0)
  match lowest ill with
  | some t => some (cILL, ill, if lane odd t then pc t else 0)
  | none => badDest known pc

/-- RET (R380, R381). -/
def execRet (s : State) : Ans := run (control fun m c =>
    let w := c.cur.w
    let x := warpAt c w
    let act := entryMask c
    let refill := act &&& maskOf fun t => (x.coil[t.val]).isEmpty && x.coilDep[t.val] != 0
    let gone := act &&& maskOf fun t => (x.coil[t.val]).isEmpty && x.coilDep[t.val] == 0
    let known := act &&& maskOf fun t => !(x.coil[t.val]).isEmpty
    match knownBad x known gone fun t => ((popEntry x (fun _ => none) t).map CoilEntry.pc).getD 0 with
    | some (code, tmask, addr) => raise c code tmask addr
    | none =>
      if refill = 0 then
        let c := issued c 1 act
        let c := returnTo m c act fun _ => none
        endIssue (holdIssue c w (c.cycle + 4) 14)
      else
        let occ := max 1 (laneMax refill)
        let l := (List.finRange 32).flatMap fun t =>
          if lane refill t then findThread m c (coreOf w) x.part.toNat x.kernel { acc := .load } t (x.csp[t.val]).toNat 128 else []
        let again := (faultsOf l).find? AFault.again
        let pages := needWalk m c (coreOf w) x.part.toNat c.cur.walked ((faultsOf l).map AFault.addr ++ (foundOf l).map fun f => f.run.va)
        if !pages.isEmpty then awaitWalks c pages occ act (!(faultsOf l).isEmpty)
        else
          let bad := maskOf fun t => (faultsOf l).any fun f => f.t == t
          let found := (foundOf l).filter fun f => !lane bad f.t
          match again, worst (faultsOf l), found with
          | some f, _, _ => takeAccessFault m c (faultsOf l) f (some cCOILF)
          | none, some f, [] => takeAccessFault m c (faultsOf l) f (some cCOILF)
          | none, _, _ =>
            let why := fun (t : Fin 32) => match worst ((faultsOf l).filter fun f => f.t == t) with
              | some f => f.code.toNat + 64 * f.addr
              | none => 0
            let o := newOp c .refill occ (refill &&& ~~~bad) (fun t => x.csp[t.val]) 128 (fun _ => 0) why none
            let o := { o with gone := bad }
            let (id, c) := openOp c o (gather found) false false fun _ => 0
            let c := modWarp c w fun x => { x with loads := x.loads ++ [id] }
            let c := sendBehind m c (heldOn c id) id
            let c := pmEvent (issued c occ act) (coreOf w) 0x34 1
            endIssue (modWarp c w fun x => { x with wait := .coil id })) s

/-- The underlying code and the address of COILF for a thread whose refill has failed: that of its translation, which the operation
keeps, or of its home (R33, R305). -/
def refillFault (o : Op) (t : Fin 32) : BitVec 6 × Nat :=
  if o.data2[t.val] ≠ 0 then (BitVec.ofNat 6 o.data2[t.val], o.data2[t.val] / 64)
  else (if lane o.gone t then cPEERGONE else cPOISON, o.addr[t.val].toNat)

/-- The refills of a RET have returned: the entries they brought are checked, and it takes effect or faults (R380). -/
def finishRefill (m : Memory) (c : Chip) (o : Op) : Chip :=
  match (warpAt c o.w).body with
  | none => c
  | some b =>
    let c := modWarp c o.w fun x => { x with wait := .none }
    let got := o.act &&& ~~~(o.poison ||| o.gone)
    let val := fun (t : Fin 32) => o.data[t.val] % 2 ^ 128
    match badDest got (fun t => BitVec.ofNat 64 (val t)) with
    | some (code, tmask, addr) => faultNow c o.w { code := code, addr := addr, tmask := tmask, pc := o.pc } false
    | none =>
      let bad := o.gone ||| o.poison
      match lowest bad with
      | some t =>
        let (sub, addr) := refillFault o t
        faultNow c o.w { code := cCOILF, sub := sub, addr := BitVec.ofNat 64 addr, tmask := bad, pc := o.pc } false
      | none =>
        let c := { c with cur := { w := o.w, pc := b.pc, faultPc := b.pc, next := b.pc + 32, pfx := none } }
        let c := holdIssue c o.w (c.cycle + 4) 1
        returnTo m c b.mask fun t => if lane o.act t then some (val t) else none

/-- EXIT (R316, R317). -/
def execExit (s : State) : Ans := run (control fun _ c =>
    let w := c.cur.w
    if (warpAt c w).kernel then raiseIll c
    else
      let c := issued c 1 (entryMask c)
      let c := holdIssue (modWarp c w fun x => { x with body := none }) w (c.cycle + 4) 14
      endIssue (endIfDone c w)) s

/-! ## Traps (R45, R240, R407, R408) -/

/-- A clause header from bits [37:6] held in TVEC or TEPC, in the region of a program counter (R69). -/
def vecAddr (pc : W64) (v : W32) : W64 := BitVec.ofNat 64 (pc.toNat / 2 ^ 38 * 2 ^ 38 + v.toNat * 64)

/-- TCAUSE of a user trap (R45, R240). -/
def causeOf (code : BitVec 6) (n : Nat) (prio : BitVec 12) : W32 := BitVec.ofNat 32 (code.toNat + n * 64 + prio.toNat * 65536)

/-- TRAP (R240, R407). -/
def execTrap (n : Fin 2048) (s : State) : Ans := run (control fun m c =>
    let w := c.cur.w
    let x := warpAt c w
    let act := entryMask c
    let ret := afterBody c
    let prio := headerPrio m c w ret
    if x.kernel then raiseIll c
    else if n.val < 16 ∧ x.tvec ≠ 0 then
      let dest := vecAddr (curBody c).hdr x.tvec
      let c := modWarp c w fun x => { x with tepc := BitVec.ofNat 32 (ret.toNat / 64), tcause := causeOf cTRAPI n.val prio }
      goWith m c 1 4 act (fun _ => dest) fun _ => some 4095
    else
      let c := issued c 1 act
      let c := kernelTrap c w { code := cTRAPI, tmask := act, pc := c.cur.faultPc } { pc := ret, hdr := ret, prio := prio, mask := act }
      endIssue (holdIssue c w (c.cycle + 16) 14)) s

/-- TRET (R408). -/
def execTret (s : State) : Ans := run (control fun m c =>
    let x := warpAt c c.cur.w
    if x.kernel then raiseIll c
    else
      let dest := vecAddr (curBody c).hdr x.tepc
      goWith m c 1 4 (entryMask c) (fun _ => dest) fun _ => some (BitVec.ofNat 12 (x.tcause.toNat / 65536))) s

/-- The user timer's trap at a clause boundary: the entry that would run goes to TVEC, or to the Wheel while TVEC is 0
(R45). -/
def timerTrap (m : Memory) (c : Chip) (w : Nat) : Chip :=
  let x := warpAt c w
  match select x with
  | none => c
  | some e =>
    if x.tvec = 0 then
      let c := modWarp c w fun x => { dropEntry x e with tcmp := 0 }
      kernelTrap c w { code := cTIMER, tmask := e.mask, pc := e.pc } { pc := e.pc, hdr := e.hdr, prio := e.prio, mask := e.mask }
    else
      let v := vecAddr e.pc x.tvec
      let c := modWarp c w fun x =>
        { dropEntry x e with tcmp := 0, tepc := BitVec.ofNat 32 (e.pc.toNat / 64), tcause := causeOf cTIMER 0 e.prio }
      arrive m c w { pc := v, hdr := v, prio := 4095, mask := e.mask }

/-- USER_TIMER_EXPIRY (R45, R46): at a clause boundary at which the timer has expired. -/
def execUserTimerExpiry (w : WarpId) (s : State) : Ans := run (fun m c =>
    match warp? c w.val with
    | some x =>
      if timerDue c x && decide (x.body = none) && decide (x.wait = .none) && !x.halted then timerTrap m c w.val else c
    | none => c) s

/-- AGE_ESCAPE (R31): the entries of a warp whose count has reached 1,024 are due. -/
def execAgeEscape (w : WarpId) (s : State) : Ans := run (fun _ c =>
    modWarp c w.val fun x => { x with
      frontier := x.frontier.map fun e => if decide (1024 ≤ e.age) && !stands x e then { e with due := true } else e }) s

/-! ## Kernel mode (R241, R242, R339, R351) -/

/-- A kernel-only instruction: PRIV in worker mode (R64). -/
def kernelOnly (f : Act) : Act := fun m c => if (warpAt c c.cur.w).kernel then f m c else raise c cPRIV (entryMask c)

/-- Bits of code at an address, as memory holds them. -/
def codeBits (m : Memory) (c : Chip) (w : Nat) (va : W64) (n : Nat) : Option Nat :=
  match fetchX m c w va.toNat with
  | .ok x => some (readBits m c x.pa n)
  | .fault _ _ => none

/-- An address is that of an instruction reached by decoding a body from its start (R242). -/
def reaches (m : Memory) (c : Chip) (w : Nat) (target stop : W64) : Nat → W64 → Bool
  | 0, _ => false
  | n + 1, pc =>
    if stop.toNat ≤ pc.toNat then false
    else if pc = target then true
    else
      match codeBits m c w pc 16 with
      | some h => reaches m c w target stop n (pc + (if h % 2 = 0 then 16 else 32))
      | none => true

/-- A resume point that KRET may use (R242). Code that cannot be read is left to its fetch fault. -/
def resumeOk (m : Memory) (c : Chip) (w : Nat) (pc hdr : W64) : Bool :=
  hdr.toNat % 64 == 0 && (pc == hdr ||
    match codeBits m c w hdr 64 with
    | some v =>
      match readHeader hdr v with
      | some h => reaches m c w pc h.stop 33 (hdr + 64)
      | none => false
    | none => true)

/-- KRET (R242, R351). -/
def execKret (s : State) : Ans := run (control (kernelOnly fun m c =>
    let w := c.cur.w
    let act := entryMask c
    let pc := dev c (rKepc w)
    let hdr := dev c (rKhdr w)
    if !resumeOk m c w pc hdr then raise c cILL act (if hdr.toNat % 64 = 0 then pc else hdr)
    else
      let c := issued c 1 act
      let prio := BitVec.ofNat 12 (devFld c (rKprio w) 0 12)
      let c := modWarp c w fun x => { x with body := none }
      let c := arrive m c w { pc := pc, hdr := hdr, prio := prio, mask := act, kernel := false }
      endIssue (holdIssue (modWarp c w leaveKernel) w (c.cycle + 4) 14))) s

/-- HALT (R339): the warp stands at the next header and waits for a wake event. -/
def execHalt (s : State) : Ans := run (control (kernelOnly fun m c =>
    let w := c.cur.w
    let act := entryMask c
    let next := afterBody c
    let c := transfer m (issued c 1 act) act (fun _ => next) fun _ => none
    endIssue (if act = 0 then c else modWarp c w fun x => { x with wait := .halt }))) s

/-! ## The rest -/

/-- TMSET (R45, R406). -/
def execTmset (sa : SReg) (s : State) : Ans := run (
    once 1 (usesOf (.tmset sa) none) fun _ c => modWarp c c.cur.w fun x => { x with tcmp := sread x sa }) s

/-- NOP (R365). -/
def execNop (s : State) : Ans := run (once 1 {} fun _ c => c) s

/-- PREFIX (R61, R62): it governs the 32-bit instruction that follows it in its body. -/
def execPfx (o : Prefix) (s : State) : Ans := run (fun m c =>
    let stop := (curBody c).stop
    match c.cur.pfx with
    | some _ => raiseIll c
    | none =>
      if stop.toNat < c.cur.next.toNat + 32 then raiseIll c
      else
        match fetchBits m c c.cur.w c.cur.next 16 with
        | .val h => if h % 2 = 0 then raiseIll c else { c with cur := { c.cur with pfx := some o, pc := c.cur.next } }
        | _ => { c with cur := { c.cur with pfx := some o, pc := c.cur.next } }) s

/-- ENCODING_NOT_AN_INSTRUCTION (R57, R71): ILL at the instruction. -/
def execEncodingNotAnInstruction (s : State) : Ans := run (fun _ c => raiseIll c) s

end Sys2Proof.Machine
end

