-- ==== Sys2Proof/Machine/Reply.lean ====
section
/-!
DEFINITION. Sys2Proof/Machine/Reply.lean: the steps that end memory operations: LOAD_REPLY, STORE_AT_HOME, ATOMIC_AT_HOME,
HBM_SLOT_SERVE, HBM_REFRESH, UNCORRECTABLE_READ, PAGE_WALK_COMPLETE, ICACHE_LINE_FILL, and the faults that wait:
FAULT_BUFFER_ENTRY, FAULT_REPLAY and DEFERRED_FAULT_DELIVERY.
-/

namespace Sys2Proof.Machine
open Sys2Proof

/-! ## The end of an operation (R54, R127, R249) -/

/-- The registers that k bits fill. -/
def regsOf (w : Nat) : Nat := (w + 31) / 32

/-- A load whose last request has come back: its registers are written in the threads that met no error. -/
def endLoad (c : Chip) (o : Op) (d wc : Nat) : Chip :=
  modWarp c o.w fun x =>
    putLoad x d (regsOf o.width) (o.act &&& ~~~(o.poison ||| o.gone)) fun t => loaded wc (o.data[t.val] % 2 ^ o.width)

/-- An operation belongs to a command. -/
def opOfCmd (id : Nat) (o : Op) : Bool :=
  match o.kind with
  | .cmdRead k _ => k == id
  | .cmdWrite k => k == id
  | _ => false

/-- The requests of a command that have not left are given up. -/
def dropUnsent (c : Chip) (id : Nat) : Chip :=
  let mine := fun (k : Nat) => ((sget c.ops k).map (opOfCmd id)).getD false
  let held := c.ops.filterMap fun (k, o) =>
    if opOfCmd id o && (c.agenda.any (fun e => e.2 == .sendOp k) || (o.kind == .cmdWrite id
        && ((sget c.cmds id).map fun d => d.dst.contains k).getD false)) then some k else none
  let c := unschedule c fun e => match e with
    | .sendOp k => mine k
    | _ => false
  { c with ops := sfilter (fun k _ => !held.contains k) c.ops, reqs := sfilter (fun _ r => !held.contains r.op) c.reqs }

/-- A command ends with a status other than OK, with what an ERROR logs (R177, R191). It ends when the writes that it has
sent are performed. -/
def failCmd (c : Chip) (id : Nat) (status : Fin 4) (cause : Nat) : Chip :=
  match sget c.cmds id with
  | none => c
  | some d =>
    if d.finished.isSome then c
    else
      let c := dropUnsent c id
      let n := (c.ops.filter fun e => e.2.kind == .cmdWrite id).length
      let c := { c with cmds := sput c.cmds id { d with finished := some status, cause := cause, dst := [], writes := n } }
      let c := if cause = 0x3F then c
        else errLog c (if d.queue.val = 4 ∨ d.queue.val = 5 then rMxErr d.core else rCeErr d.core) cause 4 d.core d.part.toNat
      if n = 0 then after c 0 (.engineCommandComplete id) else c

/-- A write of a command has been performed, or has met an absent owner: the command ends 8 cycles after its last one
(R115, R170, R178). -/
def cmdWritten (c : Chip) (id : Nat) (gone : Bool) : Chip :=
  match sget c.cmds id with
  | none => c
  | some d =>
    let c := { c with cmds := sput c.cmds id { d with writes := d.writes - 1 } }
    if gone && d.finished.isNone then failCmd c id 2 cPEERGONE.toNat
    else if d.writes == 1 && d.dst.isEmpty then after c (if d.finished.isSome then 0 else 8) (.engineCommandComplete id)
    else c

/-- The physical address of a line. -/
def lineAddr (line : Nat) : PAddr :=
  let bit := line % 2 ^ 43 * 1024
  let n := line / 2 ^ 43
  ⟨if n = 0 then .hbm else if n = 1 then .lpddr else if n = 2 then .host else if n = 3 then .remote
    else if n < 196 then .spad (n - 4) else .bsram (n - 196), bit⟩

/-- Lines of an instruction cache: 128 KiB (R14). -/
def icLines : Nat := 1024

/-- Spills are performed when every one has found its home; a call of which one cannot performs none (R33, R305). -/
def spillAll (m : Memory) (c : Chip) (id : Nat) : Chip :=
  match sget c.ops id with
  | none => c
  | some o => if o.gone ≠ 0 then c else o.parts.foldl (fun c r => writePieces m c r o) c

/-- The line of instructions that an operation has read is present in its core's cache; the oldest line beyond the size of the
cache goes (R14, R431; log 12). A home whose owner has exited leaves no line but a fault for those that need it (R115). -/
def fillLine (c : Chip) (o : Op) (core line : Nat) : Chip :=
  let p : Piece := { t := 0, pos := 0, pa := lineAddr line, width := 1024 }
  let bad := badSectors c p
  modCore c core fun k =>
    let k := { k with icWait := k.icWait.filter fun r => r.line != line }
    if o.gone ≠ 0 then { k with icGone := line :: k.icGone }
    else
      let age := line :: k.icAge.filter (· != line)
      let old := age.drop icLines
      { k with icache := sput (sfilter (fun l _ => !old.contains l) k.icache) line (BitVec.ofNat 1024 o.data[0]),
               icAge := age.take icLines, icBad := bad ++ k.icBad.filter fun s => s / 4 != line }

/-- A call of which one spill has failed performs none, so that no watchpoint sees them (R268, R305). -/
def spillFails (o : Op) : Bool :=
  match o.kind with
  | .spill _ _ _ => o.gone != 0
  | _ => false

/-- An operation none of whose requests is open ends. -/
def endOp (m : Memory) (c : Chip) (id : Nat) (o : Op) : Chip :=
  let c := flagDown c o.w o.flag
  let c := reportLate (if spillFails o then c else watch c id o (opWidth o)) id
  match o.kind with
  | .load d wc _ _ => closeOp (endLoad c o d wc) id o
  | .lda d w64 core _ _ =>
    let c := closeOp (endLoad c o d (if w64 then 8 else 7)) id o
    if core then l1Flush c o.core else c
  | .atom (some d) _ _ => closeOp (endLoad c o d 8) id o
  | .refill => finishRefill m (closeOp c id o) o
  | .spill dest ret prio => finishSpill m (closeOp (spillAll m c id) id o) o dest ret prio
  | .cmdWrite cmd => cmdWritten (closeOp c id o) cmd (o.gone != 0)
  | .save st => after (closeOp c id o) 0 (.drainStepAdvance st)
  | .restore st => after c 8 (.restoreVerify st)
  | .line core line => fillLine (closeOp c id o) o core.val line
  | .table walk => tableBack (closeOp c id o) walk o
  | .atom none _ _ | .store | .strong | .pref _ | .cmdRead _ _ => closeOp c id o

/-- The window that a miss has fetched becomes valid in L2 (R130); a prefetch drops the poisoned sectors that it meets (R254, R372). -/
def fillWindow (c : Chip) (o : Op) (r : Req) : Chip :=
  let line := lineOf r.block
  match o.kind with
  | .pref _ =>
    let n := min r.grain 256
    (List.range (r.grain / n)).foldl (fun c i =>
      if (sget c.poison (4 * line + (r.off + n * i) / 256)).isSome then c else l2Fill c line (r.off + n * i) n) c
  | _ => l2Fill c line r.off r.grain

/-- A request ends: it has taken effect by now, and the last one ends its operation. -/
def endReq (m : Memory) (c : Chip) (id : Nat) : Chip :=
  let c := takeEffect m c id
  match sget c.reqs id with
  | none => c
  | some r =>
    match sget c.ops r.op with
    | none => { c with reqs := sdel c.reqs id }
    | some o =>
      let c := if r.missed then fillWindow c o r else c
      let (left, c) := closeReq c id r
      match sget c.ops r.op with
      | none => c
      | some o => if left = 0 then endOp m c r.op o else c

/-- The end of a store's request on the agenda. -/
def endOf (c : Chip) (id : Nat) : Option Nat :=
  (c.agenda.find? fun e => match e.2 with
    | .storeAtHome k => k == id
    | .atomicAtHome k => k == id
    | _ => false).map (·.1)

/-- The cluster at whose router a home stands. -/
def homeCluster (r : Req) : Nat :=
  match r.home with
  | .sram h => clusterOf h
  | _ => sliceCluster (reqSlice r)

/-- The cycle at which a request of a core that has left reaches its home: the spec gives no figure for the way there alone, and the
model takes one leg of R135 with its bridge (log 45). -/
def atHome (core : Nat) (r : Req) : Nat :=
  r.sent + leg (clusterOf core) (homeCluster r) + bridge (clusterOf core) (homeCluster r)

/-- A request has left its core. -/
def hasLeft (c : Chip) (op : Nat) : Bool := !hasEv c fun e => e == .sendOp op

/-- The cycles until the releases of core X at CORE scope that reached this home before a request of core Y have been performed
(R356). -/
def releaseWait (c : Chip) (y : Nat) (r : Req) (x : Nat) : Nat :=
  c.reqs.foldl (fun n (id, q) =>
    match sget c.ops q.op with
    | some o =>
      if o.core = x ∧ q.home = r.home ∧ hasLeft c q.op ∧ atHome x q < atHome y r ∧ (q.pieces.any fun p => lane o.recs p.t) then
        max n ((endOf c id).getD c.cycle - c.cycle) else n
    | none => n) 0

/-- What a promotion adds to a request of an LDA with REM = 1 that has reached its home, for the core that its location names
(R152, R356). -/
def promotion (c : Chip) (y : Nat) (r : Req) : Nat :=
  match r.home with
  | .sram h => 16 + releaseWait c y r h
  | .l2 s =>
    match sget c.releasedBy (lineOf r.block) with
    | some k => 16 + 2 * leg (sliceCluster s) (clusterOf k) + 2 * bridge (sliceCluster s) (clusterOf k) + releaseWait c y r k
    | none => 0
  | .mem => 0

/-- A request of an LDA with REM = 1 that has reached its home and not been promoted, with what its promotion adds. One that L1 serves,
at WARP or CORE scope, sends no request to the home: the spec does not say whether such a hit promotes, and the model promotes
nothing (log 39). -/
def promotes (c : Chip) (id : Nat) : Option (Req × Nat) :=
  match sget c.reqs id with
  | some r =>
    match sget c.ops r.op with
    | some o =>
      match o.kind with
      | .lda _ _ _ _ true => if r.done || !(decide (0 < promotion c o.core r)) then none else some (r, promotion c o.core r)
      | _ => none
    | none => none
  | none => none

/-- LOAD_REPLY (R354, R356, R381): a promotion delays the value that the home has given. -/
def execLoadReply (id : Nat) (s : State) : Ans := run (fun m c =>
    match promotes c id with
    | some (_, n) => after (takeEffect m c id) n (.loadReply id)
    | none => endReq m c id) s

/-- The place of a store or an atomic in the order in which those of one cycle are performed: the requester's core, then its WARP
(R125, R398). -/
def homeOrder (c : Chip) (id : Nat) : Nat :=
  match (sget c.reqs id).bind fun r => sget c.ops r.op with
  | some o => 256 * o.core + o.slot
  | none => 0

/-- A store or an atomic of this cycle that goes before another is still to be performed. -/
def homeFirst (c : Chip) (id : Nat) : Bool :=
  c.agenda.any fun e => match e with
    | (t, .storeAtHome k) => decide (t ≤ c.cycle) && decide (homeOrder c k < homeOrder c id)
    | (t, .atomicAtHome k) => decide (t ≤ c.cycle) && decide (homeOrder c k < homeOrder c id)
    | _ => false

/-- STORE_AT_HOME (R121, R125, R398). -/
def execStoreAtHome (id : Nat) (s : State) : Ans :=
  run (fun m c => if homeFirst c id then after c 0 (.storeAtHome id) else endReq m c id) s

/-- ATOMIC_AT_HOME (R121, R125, R292). -/
def execAtomicAtHome (id : Nat) (s : State) : Ans :=
  run (fun m c => if homeFirst c id then after c 0 (.atomicAtHome id) else endReq m c id) s

/-- A strong write leaves its core behind its warp's earlier stores (R400). -/
def fireSendOp (op : Nat) (s : State) : Ans := run (fun m c => sendAll m c op c.cycle) s

/-! ## Banks of SRAM (R124, R125) -/

/-- The events of a request moved later. -/
def delayReq (c : Chip) (id n : Nat) : Chip :=
  let mine := fun (e : Ev) => match e with
    | .loadReply k => k == id
    | .atomicAtHome k => k == id
    | .engineSourceReply k => k == id
    | .storeAtHome k => k == id
    | .icacheLineFill core line => ((coreAt c core.val).icWait.find? fun r => r.line == line).any fun r =>
        ((sget c.reqs id).map Req.op) == some r.op
    | _ => false
  let now := c.agenda.filter fun e => mine e.2
  now.foldl (fun c e => schedule c (e.1 + n) e.2) (unschedule c mine)

/-- The slice that a bank serves in a frame, of those that need it: the first in slice order after the one it served last. -/
def bankTurn (last : Option Nat) (slices : List Nat) : Option Nat :=
  let from_ := match last with
    | some k => k + 1
    | none => 0
  ((List.range 32).map fun i => (from_ + i) % 32).find? slices.contains

/-- The slice that each bank serves in a frame. -/
def bankTurns (k : Core) (use : List BankUse) : SMap Nat :=
  ((use.flatMap fun u => u.rows.map (·.1)).eraseDups).foldl (fun l b =>
    match bankTurn (sget k.bankLast b) ((use.filter fun u => (sget u.rows b).isSome).map BankUse.slice) with
    | some s => sput l b s
    | none => l) []

/-- A deferred load's registers wait for the bank from the cycle at which they would have been there (R266). -/
def noteDeferral (c : Chip) (id : Nat) : Chip :=
  match (sget c.reqs id).bind fun r => sget c.ops r.op with
  | none => c
  | some o =>
    let t := ((c.agenda.find? fun e => e.2 == .loadReply id || e.2 == .atomicAtHome id).map (·.1)).getD c.cycle
    modWarp c o.w fun x => { x with
      deferral := (opRegs o).foldl (fun l n => if (sget l n).isSome then l else sput l n t) x.deferral }

/-- The banks of a core's SRAM serve one row each in the frame that ends; an instruction that another slice kept from a bank is
deferred by 4 cycles, once in a frame (R125; log 6). Two instructions of one slice that need one bank are both served in its frame,
a row each: R124 and R125 order the slots of an instruction and the slices, not these (log 39). -/
def fireBankFrame (core : Nat) (s : State) : Ans := run (fun _ c =>
    let k := coreAt c core
    let use := k.banks.filter fun u => u.frame < c.cycle / 4
    let turns := bankTurns k use
    let lost := fun (u : BankUse) => u.rows.any fun e => sget turns e.1 != some u.slice
    let left := fun (u : BankUse) (b n : Nat) =>
      if sget turns b = some u.slice then (if n ≤ 1 then none else some (b, n - 1)) else some (b, n)
    let served := fun (u : BankUse) => { u with rows := u.rows.filterMap fun (b, n) => left u b n }
    let c := (use.filter lost).foldl (fun c u => delayReq (noteDeferral c u.req) u.req 4) c
    let c := modCore c core fun k => { k with
      banks := (k.banks.map fun u => if u.frame < c.cycle / 4 then served u else u).filter fun u => !u.rows.isEmpty,
      bankLast := turns.foldl (fun l (b, s) => sput l b s) k.bankLast }
    if (coreAt c core).banks.isEmpty then c else after c 4 (.bankFrame core)) s

/-! ## HBM (R275, R430, R131) -/

/-- The requests whose slot starts now, and the one that arrived first among those of the same stack and partition. -/
def firstArrived (c : Chip) (id : Nat) : Nat :=
  let stackOf := fun (k : Nat) => (sget c.reqs k).bind fun r => (sget c.ops r.op).map fun o => (hbmStack r.block.bit, o.part)
  let when_ := fun (k : Nat) => ((sget c.reqs k).map Req.arrive).getD 0
  (c.agenda.filterMap fun e => match e with
    | (t, .hbmSlotServe k) => if t = c.cycle ∧ stackOf k = stackOf id then some k else none
    | _ => none).foldl (fun a k => if when_ k < when_ a then k else a) id

/-- A request is served in the slot that starts now. -/
def serveSlot (c : Chip) (id : Nat) : Chip :=
  match sget c.reqs id with
  | none => c
  | some r =>
    match sget c.ops r.op with
    | none => c
    | some o =>
      let a := r.block.bit
      let e := c.cycle + hbmFigure c a c.cycle + r.route + r.extra
      schedule (leaveRow c a r.lu) (if isStore o.kind then e else max e (o.issued + o.occ)) (reqEvent o.kind id)

/-- HBM_SLOT_SERVE (R275, R430): within a partition the request that arrived first is served first. -/
def execHbmSlotServe (id : Nat) (s : State) : Ans := run (fun _ c =>
    let k := firstArrived c id
    if k = id then serveSlot c id
    else
      let c := unschedule c fun e => match e with
        | .hbmSlotServe j => j == k
        | _ => false
      after (serveSlot c k) 0 (.hbmSlotServe id)) s

/-- Requests that wait for their partition to hold slots, those of walkers and of fetches among them, find their slots by their own
arrival (R275). -/
def retrySlots (c : Chip) : Chip :=
  c.hbmQ.foldl (fun c id =>
    match (sget c.reqs id).bind fun r => (sget c.ops r.op).map fun o => (r, o) with
    | none => c
    | some (r, o) =>
      match slotAt c o.part.toNat (max c.cycle r.arrive) with
      | some t => schedule { c with reqs := sput c.reqs id { r with waiting := false } } t (.hbmSlotServe id)
      | none => { c with hbmQ := c.hbmQ ++ [id] }) { c with hbmQ := [] }

/-- HBM_REFRESH (R430): bank b of every pseudo-channel of every stack has no open row. -/
def execHbmRefresh (bank : Nat) (s : State) : Ans := run (fun _ c =>
    { c with rows := sfilter (fun k _ => k % 32 != bank) c.rows }) s

/-! ## Errors of reads (R253 to R255) -/

/-- A request reads a sector and has not taken effect. -/
def readsSector (s : Nat) (r : Req) : Bool :=
  !r.done && !r.write && r.pieces.any fun p => (sectorsOf p).contains s

/-- The latency of a request's class, with its ring or bridge cost (R132, R136). -/
def classLatency (c : Chip) (o : Op) (r : Req) : Nat :=
  let mem := if r.block.space = .hbm then ownClock c (rowFigure c r.block.bit) else missFigure c r.block
  if r.block.space = .remote ∧ (r.missed ∨ r.home = .mem) then figC7 c o.core r.block
  else match r.home with
  | .sram h => figSram o.core h (rowsF r.pieces) (clsOf r.block.space == 4)
  | .l2 s => figC4 o.core s + (if r.missed then mem + r.route else 0)
  | .mem => figC4 o.core (reqSlice r) + mem

/-- The unit and number that a record names for a request (R255). -/
def errUnit (r : Req) : Nat × Nat :=
  match r.home with
  | .sram h => (2, h)
  | .l2 s => if r.missed && r.block.space = .hbm then (0, hbmStack r.block.bit) else (1, s)
  | .mem => (0, hbmStack r.block.bit)

/-- A sector's physical bit address, as a record gives it. -/
def sectorAddr (s : Nat) : Nat := s % 2 ^ 45 * 256

/-- A number beside those of sectors names a part of a file of registers that a warp reads: its register file (R254, SUB 2), or its
core's accumulator file (SUB 3). -/
def fileError (key : Nat) : Option (Nat × BitVec 6) :=
  if 2 ^ 56 ≤ key ∧ key < 2 ^ 56 + 49152 then some ((key - 2 ^ 56) % 24576, if key < 2 ^ 56 + 24576 then 2 else 3) else none

/-- An instruction of a warp has read poison of a register file: POISON in the threads of its entry (R248, R253, R254). -/
def filePoison (c : Chip) (w : Nat) (sub : BitVec 6) : Chip :=
  match warp? c w with
  | none => c
  | some x =>
    let (key, c) := freshId c
    let at_ := resumeOf c w
    let d : Deferred := { code := cPOISON, sub := sub, addr := 0, tmask := at_.mask, pc := at_.pc, seq := x.issued - 1, cycle := c.cycle,
                          kernel := x.kernel, key := key, cone := none, rcl := x.rcl, drn := x.drn }
    stampFor (modWarp c w fun x => { x with deferred := x.deferred ++ [d] }) w (.late w key)

/-- The unit and number that a record names for a sector that no request of a core reads: the Kiln, the array or a walker does
(R255). -/
def sectorUnit (s : Nat) : Nat × Nat :=
  let p := lineAddr (s / 4)
  match p.space with
  | .hbm => (0, hbmStack p.bit)
  | .spad k | .bsram k => (2, k)
  | _ => (1, sliceOfLine (s / 4))

/-- The partition that owns the memory of a sector, whose log record an error there is where no request tells (R255, R272, R273): that
of the core of an SRAM, or of the share of HBM or LPDDR; function 0 where none does. -/
def sectorPart (c : Chip) (s : Nat) : Nat :=
  let p := lineAddr (s / 4)
  let owns := fun (q : Nat) => match p.space with
    | .hbm => inShare c q 0 p.bit
    | .lpddr => inShare c q 1 p.bit
    | .spad k | .bsram k => bit (dev c (rPtn q 1)).toNat (clusterOf k)
    | _ => false
  ((List.range 16).find? fun q => bit (dev c (rPtn q 0)).toNat 0 && owns q).getD 0

/-- A sector is poisoned: no L1 holds it (R254). -/
def poisonSector (c : Chip) (key core : Nat) : Chip :=
  { c with poison := sput c.poison key core, cores := smap (fun _ k => { k with l1 := sdel k.l1 key }) c.cores }

/-- A request's home reads again, which takes one more class latency: its end comes later, or is to come later where it waits for
a slot of HBM (R253). -/
def rereadReq (c : Chip) (id : Nat) (r : Req) (n : Nat) : Chip :=
  if r.waiting || hasEv c (fun e => e == .hbmSlotServe id) then
    { c with reqs := sput c.reqs id { r with extra := r.extra + n } }
  else delayReq c id n

/-- UNCORRECTABLE_READ (R253 to R255): an error of the sector met by the request that reads it, or by a reader whose read takes
no time in the model; or one of a register or accumulator file. -/
def execUncorrectableRead (key : Nat) (e : ReadError) (s : State) : Ans := run (fun _ c =>
    match fileError key, e with
    | some _, .single => bumpStick c rCeCnt 1
    | some (w, sub), _ => filePoison c w sub
    | none, _ =>
      let found := (c.reqs.find? fun (_, r) => readsSector key r).bind fun (id, r) => (sget c.ops r.op).map fun o => (id, r, o)
      let u := (found.map fun f => errUnit f.2.1).getD (sectorUnit key)
      let part := (found.map fun f => f.2.2.part.toNat).getD (sectorPart c key)
      let late := fun (c : Chip) => match found with
        | some (id, r, o) => rereadReq c id r (classLatency c o r)
        | none => c
      match e with
      | .single => bumpStick c rCeCnt 1
      | .transient => logRecord (late c) (sectorAddr key) u.1 u.2 1 1 part
      | .lasting =>
        let c := poisonSector (late c) key ((found.map fun f => f.2.2.core).getD 192)
        logRecord c (sectorAddr key) u.1 u.2 1 2 part) s

/-! ## Translation and instruction lines -/

/-- One request for the line of instructions that holds an address, at the latency of a load of that line from the core, with
nothing of L1; where its page must be walked it leaves behind the walk (R138, R431). -/
def requestLine (m : Memory) (c : Chip) (w : Nat) (x : Xlat) (va : W64) : Chip :=
  let core := coreOf w
  let part := (warpAt c w).part
  let line := lineOf x.pa
  if (coreAt c core).icWait.any fun r => r.line == line then c
  else
    match needWalk m c core part.toNat false [va.toNat] with
    | p :: _ => joinWalk c core part.toNat p fun k => if k.lines.contains (w, va) then k else { k with lines := k.lines ++ [(w, va)] }
    | [] =>
      if h : core < 192 then
        let o := deviceOp c (.line ⟨core, h⟩ line) core part 1 (fun _ => BitVec.ofNat 64 (va.toNat / 1024 * 1024)) 1024
          (fun _ => 0) va
        let p : Piece := { t := 0, pos := 0, pa := { x.pa with bit := x.pa.bit / 1024 * 1024 }, width := 1024 }
        let (id, c) := openOp c o [(line, x, [p])] false false fun _ => 0
        let c := modCore c core fun k => { k with icWait := { line := line, op := id } :: k.icWait }
        (reqsOf c id).foldl (fun c r => sendReq c r c.cycle) c
      else c

/-- A TLB of so many entries with an entry; the one filled longest ago gives way (R138; log 12). -/
def tlbPut (n : Nat) (e : TlbEntry) (l : List TlbEntry) : List TlbEntry :=
  (e :: l.filter fun f => !(f.part == e.part && f.base == e.base && f.size == e.size)).take n

/-- Those that have waited for a walk go on: prefetches and lines at once, and warps that wait for no other walk. -/
def walkDone (m : Memory) (c : Chip) (k : Walk) : Chip :=
  let waits := fun (c : Chip) (w : Nat) => c.walks.any fun e => e.2.warps.contains w
  let c := k.prefs.foldl (fun c id =>
    match sget c.ops id with
    | some o => if c.walks.any fun e => e.2.prefs.contains id then c else sendPref m c id o
    | none => c) c
  let c := k.lines.foldl (fun c (w, va) =>
    match fetchX m c w va.toNat with
    | .ok x => requestLine m c w x va
    | .fault _ _ => c) c
  k.warps.foldl (fun c w => if waits c w then c else wakeAt c w c.cycle 0) c

/-- PAGE_WALK_COMPLETE (R138): the core's TLB and the cluster's hold the leaf, if there is one. -/
def execPageWalkComplete (id : Nat) (s : State) : Ans := run (fun m c =>
    match sget c.walks id with
    | none => c
    | some k =>
      let c := { c with walks := sdel c.walks id }
      let c := match k.entry with
        | none => c
        | some e =>
          let cl := clusterOf k.core
          modCore { c with ctlb := sput c.ctlb cl (tlbPut 4096 e ((sget c.ctlb cl).getD [])) } k.core fun x =>
            { x with tlb := tlbPut 256 e x.tlb }
      walkDone m c k) s

/-- ICACHE_LINE_FILL (R431): the read of the line has come back to its core. -/
def execIcacheLineFill (core : CoreId) (line : Nat) (s : State) : Ans := run (fun m c =>
    match (coreAt c core.val).icWait.find? fun r => r.line == line with
    | none => c
    | some r => (reqsOf c r.op).foldl (fun c id => endReq m c id) c) s

/-! ## The fault buffer (R141, R142) -/

/-- The lowest entry of the fault buffer that is free. -/
def freeFault (c : Chip) : Option Nat := (List.range 4096).find? fun i => (sget c.faults i).isNone

/-- The device writes a handover record of a partition and raises its vector 2 (R162, R163, R274). -/
def handoverOut (c : Chip) (part kind seq : Nat) (page : W64) : Chip :=
  let c := setDev c (rPtn part 10) page
  let c := setDev c (rPtn part 11) (BitVec.ofNat 64 (kind + seq % 65536 * 65536))
  msix c part 2

/-- A release request for a page that the host owns, with the next request number (R162). -/
def askHost (c : Chip) (part : Nat) (page : W64) : Chip :=
  handoverOut c part 0 (devFld c (rPtn part 11) 16 16 + 1) page

/-- A page belongs to the host (R162). -/
def hostOwns (m : Memory) (c : Chip) (part va : Nat) : Bool :=
  match walk m c part va with
  | .leaf e _ => pteOwn e
  | _ => false

/-- What is to be done about an entry whose page was the host's: the Wheel asks for the page, but where the page has come back since
the accesses replay; while a page of the partition goes to the host the request waits (R162, R163). -/
def askFor (m : Memory) (c : Chip) (i : Nat) (f : FaultEntry) : Chip :=
  let part := f.part.toNat
  if !f.migration then c
  else if !hostOwns m c part f.addr.toNat then
    if h : i < 4096 then after c 0 (.faultReplay ⟨i, h⟩ true) else c
  else if (sget c.giving part).isSome then c
  else askHost { c with faults := sput c.faults i { f with migration := false } } part (BitVec.ofNat 64 f.page)

/-- Two entries of one page become one; its warps wait in the order of their faults (R141, R142). -/
def joinFault (f e : FaultEntry) : FaultEntry :=
  { f with
    warps := f.warps ++ e.warps, cmds := f.cmds ++ e.cmds, streams := f.streams ++ e.streams,
    what := e.what.foldl (fun l (w, x) => sput l w x) f.what }

/-- FAULT_BUFFER_ENTRY (R141): a fault joins the entry of its page, or takes a free one, or waits for one. -/
def execFaultBufferEntry (id : Nat) (s : State) : Ans := run (fun m c =>
    match sget c.faulting id with
    | none => c
    | some e =>
      let gone := { c with faulting := sdel c.faulting id }
      match c.faults.find? fun (_, f) => f.part == e.part && f.page == e.page && f.bits == e.bits with
      | some (i, f) => { gone with faults := sput c.faults i (joinFault f e) }
      | none =>
        match freeFault c with
        | some i => askFor m { gone with faults := sput c.faults i e } i e
        | none => c) s

/-- Faults that wait for room go on. -/
def faultRoom (c : Chip) : Chip := c.faulting.foldl (fun c (id, _) =>
  if hasEv c (fun e => match e with
    | .faultBufferEntry k => k == id
    | _ => false) then c else after c 0 (.faultBufferEntry id)) c

/-- A warp still waits on another page. -/
def stillWaits (c : Chip) (w : Nat) : Bool :=
  (c.faults.any fun (_, f) => f.warps.contains w) || c.faulting.any fun (_, f) => f.warps.contains w

/-- A command still waits on another page. -/
def cmdWaits (c : Chip) (id : Nat) : Bool :=
  (c.faults.any fun (_, f) => f.cmds.contains id) || c.faulting.any fun (_, f) => f.cmds.contains id

/-- The unresolved fault of a waiting warp: PAGE, or COILF for a Coil access, as a trap (R142). -/
def giveUp (c : Chip) (f : FaultEntry) (w : Nat) : Chip :=
  let x := warpAt c w
  let (tmask, addr, _) := (sget f.what w).getD (0, f.addr, 0)
  let coil := decide (x.wait = .replay true)
  let c := modWarp (endReplay (dropFaults c w) w) w fun x => { x with wait := .none }
  faultNow c w { code := if coil then cCOILF else cPAGE, sub := if coil then cPAGE else 0, addr := addr, tmask := tmask,
                 pc := (resumeOf c w).pc } false

/-- FAULT_REPLAY (R142): the Wheel has resolved an entry, or cannot; each access that waited replays in the order of the
faults. -/
def execFaultReplay (idx : Fin 4096) (ok : Bool) (s : State) : Ans := run (fun _ c =>
    match sget c.faults idx.val with
    | none => c
    | some f =>
      let c := { c with faults := sdel c.faults idx.val }
      let c := if ok then
          let c := f.warps.foldl (fun c w => if stillWaits c w then c else wakeAt c w c.cycle 0) c
          let c := f.cmds.foldl (fun c id => if cmdWaits c id then c else after c 1 (.cmdStart id)) c
          f.streams.foldl (fun c st => after c 0 (.streamReplay st true)) c
        else
          let c := f.warps.foldl (fun c w => giveUp c f w) c
          let c := f.cmds.foldl (fun c id => after c 0 (.cmdFault id)) c
          f.streams.foldl (fun c st => after c 0 (.streamReplay st false)) c
      faultRoom c) s

/-! ## Deferred faults (R247 to R249) -/

/-- A warp's late fault that may be delivered now: at its next issue opportunity (R248). -/
def dueDeferred (x : Warp) : Option Deferred := if x.wait = .none then x.deferred.head? else none

/-- A POISON is a hardware-error fault: its source is a register file, accumulator file or instruction fetch, or its sector
became poisoned on the faulting core's own read (R253). -/
def isHardware (m : Memory) (c : Chip) (w : Nat) (d : Deferred) : Bool :=
  let x := warpAt c w
  d.code == cPOISON &&
    (d.sub == 2 || d.sub == 3 || d.sub == 5 ||
      match translate m c (coreOf w) x.part.toNat true .load d.addr.toNat with
      | .ok a => sget c.poison (sectorOf a.pa) == some (coreOf w)
      | .fault _ _ => false)

/-- A stamp that a late fault was to take in this cycle is left to its record. -/
def dropLate (c : Chip) (w key : Nat) : Chip :=
  { c with stamps := c.stamps.filter fun e => e.2 != .late w key }

/-- DEFERRED_FAULT_DELIVERY (R248): a fault of worker mode that comes due in kernel mode is taken there (R244, R248; log 40). -/
def execDeferredFaultDelivery (w : WarpId) (s : State) : Ans := run (fun m c =>
    let x := warpAt c w.val
    match dueDeferred x with
    | none => c
    | some d =>
      let hw := isHardware m c w.val d
      let c := modWarp c w.val fun x => { x with deferred := x.deferred.drop 1 }
      let c := if d.cone.isSome then c else dropLate c w.val d.key
      let r : Report := { code := d.code, sub := d.sub, addr := d.addr, tmask := d.tmask, pc := d.pc,
                          nlater := x.issued - (d.seq + 1), seen := d.cone.map fun s => (s, d.rcl, d.drn) }
      if d.kernel then kernelFault c w.val r (resumeOf c w.val) else lateFault c w.val r hw) s

end Sys2Proof.Machine
end

