-- ==== Sys2Proof/Machine/Sync.lean ====
section
/-!
DEFINITION. Sys2Proof/Machine/Sync.lean: barriers (R296 to R298), PHADV (R235, R236, R368), the tag instructions (R171,
R403), messages (R231 to R234, R373) and resources (R36, R196, R374, R375), with the steps that belong to them.
-/

namespace Sys2Proof.Machine
open Sys2Proof

/-! ## Barriers -/

/-- An instruction that names a group of which the warp is a member, else ILL (R41, R64). What the warp has abandoned in this cycle
has withdrawn its arrival before (R298, R368). -/
def inGroup (g : Fin 256) (f : Act) : Act := withPfx none fun m c =>
  if isMember c c.cur.w g.val then f m (settleWarpWaits c c.cur.w) else raiseIll c

/-- BARA (R296, R297). -/
def execBara (g : Fin 256) (s : State) : Ans := run (inGroup g fun m c =>
    let c := if hasArrived c c.cur.w g.val then c else arriveAt c c.cur.w g
    advance m (issued c 1 (entryMask c))) s

/-- The warp waits in a BAR that has made its arrival. -/
def ownsBar (x : Warp) : Bool :=
  match x.wait with
  | .bar _ _ own => own
  | _ => false

/-- BAR (R296, R297): it arrives unless its warp has, and waits for the generation. -/
def execBar (g : Fin 256) (s : State) : Ans := run (inGroup g fun _ c =>
    let w := c.cur.w
    let first := !hasArrived c w g.val
    let wait : Wait := .bar g (gGen c g.val) (first || ownsBar (warpAt c w))
    if first then arriveAt (waitHere c wait) w g else waitHere c wait) s

/-- BARW (R296, R297). -/
def execBarw (g : Fin 256) (s : State) : Ans := run (inGroup g fun m c =>
    let w := c.cur.w
    if hasArrived c w g.val then waitHere c (.bar g (gGen c g.val) false)
    else advance m (holdIssue (issued c 1 (entryMask c)) w (c.cycle + 4) 14)) s

/-- An arrival takes effect (R298). -/
def fireArrive (w : Nat) (g : Fin 256) (s : State) : Ans := run (fun _ c =>
    checkBarrier (setArrived c g.val (gArrived c g.val + 1)) g (coreOf w)) s

/-- BARRIER_COMPLETE (R297, R298): BGEN toggles, ARRIVED is 0 and the waiters of the generation return, each with its leg
from the completing core; the value 1 tells a waiter that it acquires beyond its own warp (R155). -/
def execBarrierComplete (g : Fin 256) (s : State) : Ans := run (fun _ c =>
    if gArrived c g.val = gMembers c g.val ∧ 0 < gMembers c g.val then
      let gen := gGen c g.val
      let from_ := (sget c.barCore g.val).getD 0
      let v : W64 := if 1 < gMembers c g.val then 1 else 0
      let c := setGrpFld (setArrived c g.val 0) g.val 36 1 (b1 !gen)
      c.warps.foldl (fun c (w, x) =>
        match x.wait with
        | .bar h n _ =>
          if h = g ∧ n = gen then wakeAt c w (c.cycle + 16 + trip (clusterOf from_) (clusterOf (coreOf w))) v else c
        | _ => c) c
    else c) s

/-! ## PHADV -/

/-- PHADV (R235, R368). -/
def execPhadv (g : Fin 256) (s : State) : Ans := run (inGroup g fun _ c =>
    let w := c.cur.w
    release (waitHere c (.phadv g)) (warpAt c w).stores 0 (.phaseReady w)) s

/-- The arrival of a warp at PHADV has its earlier stores performed (R235). -/
def firePhaseReady (w : Nat) (s : State) : Ans := run (fun _ c =>
    checkPhase (modWarp c w fun x => { x with phaseReady := true }) (coreOf w)) s

/-- PHASE of a core advances by one for a group, and its arrived warps return 4 cycles later. -/
def advancePhase (c : Chip) (core : CoreId) (g : Fin 256) : Chip :=
  if phaseHolds c core.val g then
    let ws := phaseWaiters c core.val g
    let v := (coreAt c core.val).phase + 1
    let c := modCore { c with abandoned := c.abandoned.filter fun e => !(coreOf e.1 == core.val && e.2 == .phadv g) } core.val
      fun k => { k with phase := v }
    let c := ws.foldl (fun c w => wakeAt (modWarp c w fun x => { x with phaseReady := false }) w (c.cycle + 4) 0) c
    sendPhase c core v
  else c

/-- PHASE_ADVANCE (R235): group by group, in ascending order. -/
def execPhaseAdvance (core : CoreId) (s : State) : Ans := run (fun _ c =>
    (List.finRange 256).foldl (fun c g => advancePhase c core g) c) s

/-- PHASE_VALUE_ARRIVAL (R236). -/
def execPhaseValueArrival (src dst : CoreId) (value : BitVec 32) (s : State) : Ans := run (fun _ c =>
    checkPhase (modCore c dst.val fun k => { k with seen := sput k.seen src.val value }) dst.val) s

/-! ## Tags (R171) -/

/-- A tag is complete. -/
def Tag.isDone (t : Tag) : Bool :=
  match t with
  | .done _ => true
  | _ => false

/-- A tag is complete with a status other than OK. -/
def Tag.isBad (t : Tag) : Bool :=
  match t with
  | .done k => k.val != 0
  | _ => false

/-- The tags of a mask that pass a test, lowest first. -/
def tagsWith (view : Fin 64 → Tag) (mask : W64) (f : Tag → Bool) : List (Fin 64) :=
  (List.finRange 64).filter fun i => mask.getLsbD i.val && f (view i)

/-- The value of SD for a tag found, or none. -/
def tagValue (l : List (Fin 64)) : W64 :=
  match l with
  | i :: _ => BitVec.ofNat 64 i.val
  | [] => BitVec.allOnes 64

/-- The condition of a tag wait, and the value it returns. -/
def tagHolds (view : Fin 64 → Tag) (x : Wait) : Option W64 :=
  match x with
  | .tagwa mask => if (tagsWith view mask (· == .busy)).isEmpty then some 0 else none
  | .tagwy _ mask =>
    let done := tagsWith view mask Tag.isDone
    if !done.isEmpty || (tagsWith view mask (· == .busy)).isEmpty then some (tagValue done) else none
  | .tagff _ mask =>
    let bad := tagsWith view mask Tag.isBad
    if !bad.isEmpty || (tagsWith view mask (· == .busy)).isEmpty then some (tagValue bad) else none
  | _ => none

/-- A tag wait of the issuing warp: it returns 4 cycles after its condition holds. What it does not see, because the tag has
changed in this cycle, it sees in the next. -/
def tagWait (x : Warp → Wait) : Act := withPfx none fun _ c =>
  let w := c.cur.w
  let wait := x (warpAt c w)
  let c := waitHere c wait
  match tagHolds (tagView c (coreOf w)) wait with
  | some v => wakeAt c w (c.cycle + 4) v
  | none => after c 1 (.tagCheck (coreOf w))

/-- TAGWA (R171). -/
def execTagwa (sa : SReg) (s : State) : Ans := run (tagWait fun x => .tagwa (sread x sa)) s

/-- TAGWY (R171). -/
def execTagwy (sd sa : SReg) (s : State) : Ans := run (tagWait fun x => .tagwy sd (sread x sa)) s

/-- TAGFF (R171). -/
def execTagff (sd sa : SReg) (s : State) : Ans := run (tagWait fun x => .tagff sd (sread x sa)) s

/-- TAGCLR (R171, R403): a tag that a GO has made busy in this cycle stays busy. -/
def execTagclr (sa : SReg) (s : State) : Ans := run (
    once 4 (usesOf (.tagclr sa) none) fun _ c =>
      let core := coreOf c.cur.w
      let mask := sread (warpAt c c.cur.w) sa
      (List.finRange 64).foldl (fun c i =>
        let now := (coreAt c core).tags[i.val]
        if mask.getLsbD i.val && now.isDone && (tagView c core i).isDone then setTag c core i .idle else c) c) s

/-- What TAGRD reads of a tag. -/
def tagWord (t : Tag) : W64 :=
  match t with
  | .idle => 0
  | .busy => 8
  | .done k => BitVec.ofNat 64 (4 + k.val)

/-- TAGRD (R171): the read of a complete tag is an acquire (R155). -/
def execTagrd (sd : SReg) (tag : Fin 64) (s : State) : Ans := run (
    once 4 (usesOf (.tagrd sd tag) none) fun _ c =>
      let w := c.cur.w
      let t := tagView c (coreOf w) tag
      let c := if t.isDone then l1Flush c (coreOf w) else c
      modWarp c w fun x => swrite x sd (tagWord t)) s

/-- The waits on the tags of a core are looked at in the cycle after one has changed: those that hold with the tags at the end of
that cycle return 4 cycles behind it. -/
def fireTagCheck (core : Nat) (s : State) : Ans := run (fun _ c =>
    (warpsOfCore c core).foldl (fun c w =>
      match tagHolds (tagView c core) (warpAt c w).wait with
      | some v => if hasEv c (isWake w) then c else wakeAt c w (c.cycle + 3) v
      | none => c) c) s

/-! ## Messages (R231 to R234) -/

/-- The number of a pair of sender core and destination queue. -/
def pairKey (src dst : Nat) (q : Nat) : Nat := (src * 256 + dst) * 4 + q

/-- A pair that has sent nothing. -/
def Pair.blank : Pair := { next := 0, window := [], blocked := none, expect := 0, linkFree := 0 }

def pairAt (c : Chip) (k : Nat) : Pair := (sget c.pairs k).getD Pair.blank

def modPair (c : Chip) (k : Nat) (f : Pair → Pair) : Chip := { c with pairs := sput c.pairs k (f (pairAt c k)) }

/-- The time of a message from its core to its queue (R232). -/
def msgTime (src dst : Nat) : Nat := 10 + leg (clusterOf src) (clusterOf dst) + bridge (clusterOf src) (clusterOf dst)

/-- The time of its acknowledgement or NACK. -/
def ackTime (src dst : Nat) : Nat := leg (clusterOf dst) (clusterOf src) + bridge (clusterOf dst) (clusterOf src)

def Msg.key (g : Msg) : Nat := pairKey g.src g.dst g.q.val

/-- QSND (R231 to R233, R373). -/
def execQsnd (sd sa : SReg) (s : State) : Ans := run (withPfx none fun m c =>
    let w := c.cur.w
    let x := warpAt c w
    let d := (sread x sd).toNat
    let dst := d % 256
    if 1024 ≤ d ∨ 191 < dst ∨ !bit (dev c (rPtn x.part.toNat 1)).toNat (clusterOf dst) then raise c cQDEST (entryMask c)
    else
      let flag := bodyFlag c .setB
      let (id, c) := freshId c
      let g : Msg := { src := coreOf w, dst := dst, q := Fin.ofNat 4 (d / 256), num := 0, value := sread x sa, w := w,
                       flag := flag, nacks := 0, left := false }
      let c := { c with msgs := sput c.msgs id g }
      let c := modPair c g.key fun p => { p with window := p.window ++ [id] }
      let c := release (flagUp c w flag) x.stores 0 (.sendMsg id)
      advance m (issued c 1 (entryMask c))) s

/-- A message leaves its core, behind the resends of its pair, and takes the pair's next number. -/
def fireSendMsg (id : Nat) (s : State) : Ans := run (fun _ c =>
    match sget c.msgs id with
    | none => c
    | some g =>
      let p := pairAt c g.key
      if c.cycle < p.linkFree then schedule c p.linkFree (.sendMsg id)
      else
        let c := { c with msgs := sput c.msgs id { g with num := p.next, left := true } }
        let c := modPair c g.key fun p => { p with next := p.next + 1, linkFree := c.cycle }
        after c (msgTime g.src g.dst) (.queueMessageArrival id)) s

/-- QUEUE_MESSAGE_ARRIVAL (R233, R339): it is taken and wakes the warps in HALT, or refused with a NACK by a full queue, or dropped while the pair waits for
the message that was refused. -/
def execQueueMessageArrival (id : Nat) (s : State) : Ans := run (fun _ c =>
    match sget c.msgs id with
    | none => c
    | some g =>
      let p := pairAt c g.key
      if p.expect = g.num ∧ (p.blocked = none ∨ p.blocked = some g.num) then
        if ((coreAt c g.dst).queues[g.q.val]).length < 32 then
          let c := modPair c g.key fun p => { p with expect := p.expect + 1, blocked := none }
          let c := modCore c g.dst fun k =>
            { k with queues := k.queues.set g.q.val (k.queues[g.q.val] ++ [{ value := g.value, at_ := c.cycle }]) }
          let c := wakeHalted c g.dst 24576
          checkQueue (after c (ackTime g.src g.dst) (.queueAck id)) g.dst g.q
        else
          let c := modPair c g.key fun p => { p with blocked := some g.num }
          after c (ackTime g.src g.dst) (.queueNack id)
      else c) s

/-- The back-off before the n-th resend of a message (R233, R234). -/
def backoff (c : Chip) (n : Nat) : Nat :=
  let r := (dev c rBackoff).toNat
  let base := max 1 (fld r 0 16)
  min (max base (fld r 16 16)) (base * 2 ^ (n - 1))

/-- QUEUE_NACK (R233). -/
def execQueueNack (id : Nat) (s : State) : Ans := run (fun _ c =>
    match sget c.msgs id with
    | none => c
    | some g =>
      let c := pmEvent { c with msgs := sput c.msgs id { g with nacks := g.nacks + 1 } } g.src 0x38 1
      after c (backoff c (g.nacks + 1)) (.queueBackoffResend id)) s

/-- QUEUE_BACKOFF_RESEND (R233): the refused message and every later one of its window go again, one in each cycle. -/
def execQueueBackoffResend (id : Nat) (s : State) : Ans := run (fun _ c =>
    match sget c.msgs id with
    | none => c
    | some g =>
      let numOf := fun k => ((sget c.msgs k).map Msg.num).getD 0
      let again := sortBy numOf ((pairAt c g.key).window.filter fun k =>
        ((sget c.msgs k).map fun h => h.left && decide (g.num ≤ h.num)).getD false)
      let (n, c) := again.foldl (fun (n, c) k => (n + 1, after c (n + msgTime g.src g.dst) (.queueMessageArrival k))) (0, c)
      modPair c g.key fun p => { p with linkFree := c.cycle + n }) s

/-- QUEUE_ACK (R54, R233): the count of the QSND drops, and its window slot is free. -/
def execQueueAck (id : Nat) (s : State) : Ans := run (fun _ c =>
    match sget c.msgs id with
    | none => c
    | some g =>
      let c := flagDown { c with msgs := sdel c.msgs id } g.w g.flag
      modPair c g.key fun p => { p with window := p.window.filter (· != id) }) s

/-- QRCV (R231, R232, R373). -/
def execQrcv (sd : SReg) (q : Fin 4) (s : State) : Ans := run (withPfx none fun _ c =>
    let w := c.cur.w
    let flag := bodyFlag c .setA
    checkQueue (waitHere (flagUp c w flag) (.qrcv sd q flag)) (coreOf w) q) s

/-- The message at a place of a queue taken out. -/
def takeMsg (c : Chip) (core : Nat) (q : Fin 4) (k : Nat) : Chip :=
  modCore c core fun z => { z with queues := z.queues.set q.val ((z.queues[q.val]).eraseIdx k) }

/-- QPOLL (R231, R232, R373): the messages that stand for the QRCVs waiting before it are theirs. -/
def execQpoll (sd : SReg) (q : Fin 4) (p : PReg) (s : State) : Ans := run (
    once 12 (usesOf (.qpoll sd q p) none) fun _ c =>
      let w := c.cur.w
      let core := coreOf w
      let act := entryMask c
      let k := (queueWaiters c core q).length
      match (coreAt c core).queues[q.val][k]? with
      | some h =>
        if h.at_ < c.cycle then
          modWarp (l1Flush (takeMsg c core q k) core) w fun x => pwrite (swrite x sd h.value) p act fun _ => true
        else modWarp c w fun x => pwrite (swrite x sd 0) p act fun _ => false
      | none => modWarp c w fun x => pwrite (swrite x sd 0) p act fun _ => false) s

/-- A QRCV returns with the oldest message. -/
def qrcvReturn (m : Memory) (c : Chip) (w : Nat) (sd : SReg) (q : Fin 4) (flag : Option (Fin 12)) : Chip :=
  let core := coreOf w
  let v := (((coreAt c core).queues[q.val]).head?.map Held.value).getD 0
  finishWait m (l1Flush (takeMsg (flagDown c w flag) core q 0) core) w fun x => swrite x sd v

/-! ## Resources (R36, R196, R374, R375) -/

/-- The count or id of a request is one that its kind takes. -/
def racqOk (x : Warp) (kind : Fin 4) (k : Nat) : Bool :=
  match kind.val with
  | 0 => k % 4 == 0 && decide (x.floor.toNat + x.headroom.toNat + k ≤ 96)
  | 1 => decide (k < 4) || k == 511
  | 2 => decide (k < 8) || k == 511
  | _ => decide (1 ≤ k) && decide (k ≤ 64)

/-- The block holds the id already. -/
def racqHeld (c : Chip) (w : Nat) (kind : Fin 4) (k : Nat) : Bool :=
  let b := (warpAt c w).block
  (kind.val == 1 && decide (k < 4) && holdsTile c (coreOf w) b k) || (kind.val == 2 && decide (k < 8) && holdsPlane c (coreOf w) b k)

/-- RACQ (R374, R375): granted at issue when nothing before it waits and the resource is there. -/
def execRacq (sd : SReg) (kind : Fin 4) (k : Fin 512) (s : State) : Ans := run (withPfx none fun m c =>
    let w := c.cur.w
    if !racqOk (warpAt c w) kind k.val then raiseIll c
    else if racqHeld c w kind k.val then
      let c := modWarp c w fun x => writeLate x sd (BitVec.ofNat 64 k.val) (c.cycle + 8)
      advance m (issued c 1 (entryMask c))
    else
      let queue := racqQueue w kind
      let before := (racqWaiters c (coreOf w)).any fun u => ((racqOf c u).map fun r => racqQueue u r.1) == some queue
      match if before then none else racqTry c w kind k.val with
      | some (v, c) =>
        let c := modWarp c w fun x => writeLate x sd v (c.cycle + 8)
        advance m (issued c 1 (entryMask c))
      | none => waitHere c (.racq sd kind k c.cycle)) s

/-- RACQ_GRANT (R36, R196, R375): the waiting request is granted, and SD is there 8 cycles later. -/
def execRacqGrant (w : WarpId) (s : State) : Ans := run (fun m c =>
    match (warpAt c w.val).wait with
    | .racq sd kind k _ =>
      let x := warpAt c w.val
      let was : Grant := { at_ := c.cycle, seq := x.issued, sd := sd, was := sread x sd, late := sget x.ready (codeS sd.val),
                           body := x.body, frontier := x.frontier }
      match racqTry c w.val kind k.val with
      | some (v, c) =>
        checkRacq (finishWait m c w.val fun x => { writeLate x sd v (c.cycle + 8) with granted := some was }) (coreOf w.val)
      | none => c
    | _ => c) s

/-- RREL (R36, R196, R374, R375). -/
def execRrel (kind : Fin 4) (k : Fin 512) (s : State) : Ans := run (withPfx none fun m c =>
    let w := c.cur.w
    let core := coreOf w
    let go := fun (c : Chip) => checkRacq (advance m (issued c 1 (entryMask c))) core
    match kind.val with
    | 0 =>
      if k.val % 4 ≠ 0 then raiseIll c
      else go (modWarp c w fun x => { x with headroom := x.headroom - BitVec.ofNat 7 (min k.val x.headroom.toNat) })
    | 3 =>
      if 64 ≤ k.val ∧ k.val ≠ 511 then raiseIll c
      else
        let b := (warpAt c w).block
        go (modCore c core fun z => { z with poolHolder := Vector.ofFn fun i =>
          if b.isSome && z.poolHolder[i.val] == b && (k.val == 511 || k.val == i.val) then none else z.poolHolder[i.val] })
    | _ =>
      let ids := rrelIds c w kind k.val
      if ids.any fun i => accBusy c core (warpAt c w).block kind.val i then waitHere c (.rrel kind k)
      else go (freeIds c core kind.val ids)) s

/-- RREL_FREE (R196): no command names the ids any longer; they are free and the RREL returns. -/
def execRrelFree (w : WarpId) (s : State) : Ans := run (fun m c =>
    match (warpAt c w.val).wait with
    | .rrel kind k =>
      let core := coreOf w.val
      let ids := rrelIds c w.val kind k.val
      if ids.any fun i => accBusy c core (warpAt c w.val).block kind.val i then c
      else checkRacq (finishWait m (freeIds c core kind.val ids) w.val id) core
    | _ => c) s

/-- What RQRY reads (R374). -/
def rqryValue (c : Chip) (w : Nat) (kind : Fin 4) : W64 :=
  let core := coreOf w
  match kind.val with
  | 0 => BitVec.ofNat 64 (4 * freeRegs c core (sliceOf w))
  | 1 => bitmap ((freeTiles c core).map Fin.val)
  | 2 => bitmap ((freePlanes c core).map Fin.val)
  | _ => bitmap ((freePages c core).map Fin.val)

/-- RQRY (R374, R375). -/
def execRqry (sd : SReg) (kind : Fin 4) (s : State) : Ans := run (
    once 8 (usesOf (.rqry sd kind) none) fun _ c =>
      modWarp c c.cur.w fun x => swrite x sd (rqryValue c c.cur.w kind)) s

end Sys2Proof.Machine
end

