-- ==== Sys2Proof/Machine/Kiln.lean ====
section
/-!
DEFINITION. Sys2Proof/Machine/Kiln.lean: the event table (R212 to R217), reclamation (R160, R185, R217, R220), mailboxes
and job starts (R42, R43, R216, R218), and the conditions on which streams and FWAITs wait.
-/

namespace Sys2Proof.Machine
open Sys2Proof

/-! ## Entries -/

/-- States of an entry (R214). -/
def sFREE : Fin 8 := 0
def sWAITING : Fin 8 := 1
def sREADY : Fin 8 := 2
def sRUNNING : Fin 8 := 3
def sDONE : Fin 8 := 4
def sRECLAIMED : Fin 8 := 5
def sFAILED : Fin 8 := 6
def sCOUNTER : Fin 8 := 7

/-- The chip of a name, and whether it is this one (R214). -/
def chipOf (n : BitVec 26) : Nat := n.toNat / 65536
def isLocal (c : Chip) (n : BitVec 26) : Bool := chipOf n == c.chipNo.toNat
def localName (c : Chip) (i : Nat) : BitVec 26 := BitVec.ofNat 26 (c.chipNo.toNat * 65536 + i % 65536)

/-- An index lies in a partition's event range (R212). -/
def inRange (c : Chip) (part i : Nat) : Bool :=
  let r := (dev c (rPevr part)).toNat
  decide (fld r 0 16 ≤ i) && decide (i < fld r 0 16 + fld r 16 16)

/-- An event logged in KLN_ERRLOG (R271). -/
def kilnLog (c : Chip) (cause part : Nat) : Chip := errLog c rKlnErr cause 5 0 part

/-- An entry may be taken (R215). -/
def reusable (e : Event) : Bool :=
  e.state == sFREE || ((e.state == sDONE || e.state == sRECLAIMED || e.state == sFAILED) && e.cnt == 0 && decide (e.info.block = none))

/-- FWAIT on the entry blocks (R219). -/
def holds (e : Event) : Bool :=
  e.state == sWAITING || e.state == sREADY || e.state == sRUNNING || (e.state == sCOUNTER && e.cval == 0)

/-- FWAIT or FPOLL of the entry acquires (R219). -/
def succeeds (e : Event) : Bool := e.state == sDONE || (e.state == sCOUNTER && e.cval != 0)

/-- A stream (R202). -/
def streamAt (c : Chip) (n : Nat) : Stream := (sget c.streams n).getD Stream.blank

def modStream (c : Chip) (n : Nat) (f : Stream → Stream) : Chip := { c with streams := sput c.streams n (f (streamAt c n)) }

/-- The lowest core of a partition (R263). -/
def partCore (c : Chip) (part : Nat) : Nat :=
  (((List.range 48).find? fun k => bit (dev c (rPtn part 1)).toNat k).map (4 * ·)).getD 0

/-- The payload of a job's trace record. -/
def jobPayload (c : Chip) (i : Nat) (e : Event) : Nat :=
  (localName c i).toNat + e.tpl.toNat * 2 ^ 26 + e.x.toNat * 2 ^ 38 + e.y.toNat * 2 ^ 54 + e.gen.toNat * 2 ^ 70

/-- The record of a job's end (R263). -/
def traceEnd (c : Chip) (i : Nat) (w : Option Nat) : Chip :=
  let e := eventAt c i
  trace c (if e.info.popped then e.core.toNat else partCore c e.info.part.toNat) 1 7 (jobPayload c i e + e.state.val * 2 ^ 78) w

/-- What is to be done to the table in this cycle (R216, R217). -/
def tableNext (c : Chip) (a : TableAct) : Chip := after c 0 (.table a)

/-- The output region of a job becomes undefined to every reader (R160). -/
def undefine (c : Chip) (e : Event) : Chip :=
  let n := tplOutSz c e.tpl.toNat
  if n = 0 then c else tableNext c (.undefine e.info.part e.info.out.toNat n)

/-- The places of a region of virtual addresses are undefined, page by page (R160). -/
def undefineRegion (m : Memory) (c : Chip) (part : BitVec 4) (lo n : Nat) : Chip :=
  (List.range ((lo % 2 ^ 19 + n + 2 ^ 19 - 1) / 2 ^ 19)).foldl (fun c k =>
    let a := if k = 0 then lo else (lo / 2 ^ 19 + k) * 2 ^ 19
    let b := min (lo + n) ((lo / 2 ^ 19 + k + 1) * 2 ^ 19)
    match translate m c 192 part.toNat true .load (a % 2 ^ 64) with
    | .ok x => { c with undef := (x.pa.space, x.pa.bit, x.pa.bit + (b - a)) :: c.undef }
    | .fault _ _ => c) c

/-- An increment of a count, which sticks at 65,535 (R216). -/
def addCnt (c : Chip) (i n : Nat) : Chip :=
  let e := eventAt c i
  let k := e.cnt.toNat + n
  let c := modEvent c i fun e => { e with cnt := BitVec.ofNat 16 (min 65535 k) }
  if 65535 < k then kilnLog c 0x3F e.info.part.toNat else c

/-! ## Waiters -/

/-- The owner's answer goes to a subscriber on another chip (R221); `held` where the entry holds its stencil reference. -/
def sendAnswer (c : Chip) (key : Nat) (e : Event) (held : Bool) : Chip :=
  stampFor c ownStamp (.send (.answer (key % 1024) 0
    { token := key / 1024, state := e.state, gen := e.gen, cval := e.cval, held := held, stamp := 0 }))

/-- An entry does not yet meet what a waiter of it waits for (R207, R219, R221). -/
def subWaits (e : Event) : Sub → Bool
  | .warp _ | .chip _ => holds e
  | .chipWaitev _ cons => !(e.state == sDONE || e.state == sRECLAIMED || e.state == sFAILED
      || (e.state == sCOUNTER && decide (cons ≤ e.cval.toNat)))

/-- A waiter gets its answer. A producer that has ended holds the reference of a consumer that waited for it; a COUNTER never
does (R213). -/
def answerSub (c : Chip) (e : Event) : Sub → Chip
  | .warp w => wakeAt c w (c.cycle + 24) (if succeeds e then 1 else 0)
  | .chip key => sendAnswer c key e (e.state == sDONE || e.state == sRECLAIMED || e.state == sFAILED)
  | .chipWaitev key _ => sendAnswer c key e false

/-- Those who wait for a change of an entry. -/
def subsOf (c : Chip) (i : Nat) : List Sub := (sget c.subs i).getD []

def setSubs (c : Chip) (i : Nat) (l : List Sub) : Chip :=
  { c with subs := if l.isEmpty then sdel c.subs i else sput c.subs i l }

/-- Those who wait for an entry that no longer holds them get their answer (R219, R221, R336). -/
def notify (c : Chip) (i : Nat) : Chip :=
  let e := eventAt c i
  let l := subsOf c i
  (l.filter fun k => !subWaits e k).foldl (fun c k => answerSub c e k) (setSubs c i (l.filter (subWaits e)))

/-! ## Reclamation (R185, R217, R220) -/

/-- A warp that waits in FWAIT returns at once when a bit of RECLAIM is set (R220). -/
def kickFwait (c : Chip) (w : Nat) : Chip :=
  match (warpAt c w).wait with
  | .fwait _ => wakeAt (cancelEv (dropWait c w) (isWake w)) w c.cycle 0
  | _ => c

/-- The warps of a job's block. -/
def jobWarps (c : Chip) (e : Event) : List Nat :=
  match e.info.block with
  | some (core, g) => warpsOfBlock c core g
  | none => []

/-- A command belongs to a job: to its event's name and generation (R184, R185). -/
def ofJob (d : Cmd) (name : BitVec 26) (gen : BitVec 8) : Bool := d.job == some name && d.gen == gen

/-- The J = 1 commands of a job that have not started are discarded (R185). -/
def cancelBound (c : Chip) (name : BitVec 26) (gen : BitVec 8) : Chip :=
  c.cmds.foldl (fun c (id, d) =>
    if d.bound && ofJob d name gen && !d.started && decide (d.finished = none) then
      let c := { c with cmds := sput c.cmds id { d with finished := some 1 } }
      if d.accepted.isSome then after c 0 (.engineCommandComplete id) else c
    else c) c

/-- What the commands of a reclaimed job still write to its output region stays undefined (R160, R185). -/
def markDead (c : Chip) (name : BitVec 26) (gen : BitVec 8) : Chip :=
  { c with cmds := smap (fun _ d => if ofJob d name gen then { d with dead := true } else d) c.cmds }

/-- The elements of the tiles and planes that a block holds are undefined (R201). -/
def undefineAcc (c : Chip) (b : Option (Nat × Fin 256)) : Chip :=
  match b with
  | none => c
  | some (core, g) =>
    let k := coreAt c core
    let units := ((List.finRange 4).filter fun i => k.tileHolder[i.val] == some g).map Fin.val
      ++ ((List.finRange 8).filter fun i => k.planeHolder[i.val] == some g).map fun i => 4 + i.val
    modCore { c with free := c.free + 1 } core fun k => { k with
      acc := sfilter (fun e _ => !units.contains (e / 16384)) k.acc, accFree := units.foldl (fun l u => sput l u c.free) k.accFree }

/-- A reclaimed warp that waits on a replay is released, and its access discarded (R142). -/
def dropReplay (m : Memory) (c : Chip) (w : Nat) : Chip :=
  match (warpAt c w).wait with
  | .replay _ => finishWait m (cancelEv (dropFaults (endReplay c w) w) (isWake w)) w id
  | .fetch => modWarp (cancelEv (dropFaults c w) (isWake w)) w fun x => { x with wait := .none }
  | _ => c

/-- A running job's reclaim becomes pending (R216, R220). -/
def markReclaim (m : Memory) (c : Chip) (i : Nat) : Chip :=
  let e := eventAt c i
  if e.info.reclaim then c
  else
    let c := modEvent c i fun e => { e with info := { e.info with reclaim := true } }
    let c := cancelBound c (localName c i) e.gen
    (jobWarps c e).foldl (fun c w => kickFwait (dropReplay m (modWarp c w fun x => { x with rcl := true }) w) w) c

/-- A job's entry leaves its mailbox, or its push is given up. -/
def unqueue (c : Chip) (i : Nat) : Chip :=
  match (eventAt c i).info.queued with
  | none => c
  | some (core, mb) =>
    let c := unschedule c fun e => match e with
      | .mailboxPush k => k == i
      | _ => false
    let c := modCore c core fun k => { k with
      mail := k.mail.set (mb % 8) (k.mail[mb % 8].filter fun z => z.idx != i) }
    modEvent c i fun e => { e with info := { e.info with queued := none, pushing := false } }

/-- A message of the Kiln leaves for another chip with a stamp (R221, R258); none leaves without a route (R238). -/
def sendKiln (c : Chip) (name : BitVec 26) (part : BitVec 4) (op : RemoteOp) : Chip :=
  if routed c (chipOf name) then
    stampFor c ownStamp (.send (.kiln (chipOf name) 0
      { chip := Fin.ofNat 1024 c.chipNo.toNat, part := Fin.ofNat 16 part.toNat, idx := Fin.ofNat 65536 name.toNat, op := op,
        stamp := 0 }))
  else c

/-- The subscription of a consumer at a producer on another chip that has not been answered (R213, R221; log 42). -/
def subscription (c : Chip) (i : Nat) (gen : BitVec 8) (name : BitVec 26) : Option Nat :=
  (c.kreqs.find? fun (_, r) => r.name == name && r.op == .stencil i gen).map (·.1)

/-- A job that ends drops its stencil references and those of its children (R213, R217). -/
def dropAll (c : Chip) (i : Nat) (e : Event) : Chip :=
  (e.info.refs ++ e.info.children).foldl (fun c (name, gen) =>
    match if isLocal c name then none else subscription c i e.gen name with
    | some id => sendKiln c name e.info.part (.unsubscribe id)
    | none => tableNext c (.drop name gen e.info.part)) c

/-- A job ends RECLAIMED or FAILED: it publishes nothing and drops its references, and its consumers fail (R160, R216). -/
def endBad (c : Chip) (i : Nat) (st : Fin 8) (w : Option Nat) : Chip :=
  let c := unqueue c i
  let e := eventAt c i
  let name := localName c i
  let c := if st = sRECLAIMED then undefine (markDead (cancelBound c name e.gen) name e.gen) e else c
  let c := modEvent c i fun e => { e with state := st, pend := 0, info := { e.info with
    refs := [], children := [], prods := [], reclaim := false, jdone := false, blocked := none } }
  tableNext (dropAll (notify (traceEnd c i w) i) i e) (.failed name e.gen)

/-- A job ends DONE (R216): its consumers see the retirement, its references drop, and a result that is due to be discarded is. -/
def endDone (c : Chip) (i : Nat) (w : Option Nat) : Chip :=
  let e := eventAt c i
  let c := if e.info.discard then undefine c e else c
  let c := modEvent c i fun e => { e with state := sDONE, pend := 0, info := { e.info with
    refs := [], children := [], jdone := false, reclaim := false } }
  let c := notify (traceEnd c i w) i
  let c := match e.info.retried, e.info.excluded with
    | true, some k => logRecord c 0 4 k 3 1 e.info.part.toNat
    | _, _ => c
  tableNext (dropAll c i e) (.retired (localName c i) e.gen)

/-- A job becomes READY (R216): what a run of it before has left pending is gone. -/
def makeReady (c : Chip) (i : Nat) : Chip :=
  modEvent c i fun e => { e with state := sREADY, pend := 0, info := { e.info with
    prods := [], blocked := none, reclaim := false, failed := false, yieldTo := none } }

/-- The count of an entry lowered by n (R216); what follows when it reaches zero: a committed job that runs is to lose its result at
its retirement, and one behind its last JDONE goes on as it is. -/
def lower (m : Memory) (c : Chip) (i n : Nat) : Chip :=
  let e := eventAt c i
  if e.cnt = 0 ∨ e.state = sFREE ∨ e.state = sCOUNTER then c
  else
    let c := modEvent c i fun e => { e with cnt := BitVec.ofNat 16 (e.cnt.toNat - n) }
    if n < e.cnt.toNat then c
    else if e.state = sWAITING ∨ e.state = sREADY then endBad c i sRECLAIMED none
    else if e.state = sRUNNING ∧ !e.info.jdone then
      if e.cmt then modEvent c i fun e => { e with info := { e.info with discard := true } } else markReclaim m c i
    else c

/-- The waiting consumers of a producer: those that name it in their stencils. -/
def consumersOf (c : Chip) (name : BitVec 26) (gen : BitVec 8) : List Nat :=
  (c.events.filter fun (_, e) => e.state == sWAITING && e.info.prods.contains (name, gen)).map (·.1)

/-- A consumer without a producer that has retired; READY when it was the last (R213, R216). -/
def retireFor (c : Chip) (name : BitVec 26) (gen : BitVec 8) (i : Nat) : Chip :=
  let left := (eventAt c i).info.prods.filter (· != (name, gen))
  let c := modEvent c i fun e => { e with pend := BitVec.ofNat 8 left.length, info := { e.info with prods := left } }
  if left.isEmpty then makeReady c i else c

/-- A thing done to the table in the cycle in which a job has ended (R216, R217). -/
def tableAct (m : Memory) (c : Chip) (a : TableAct) : Chip :=
  match a with
  | .drop name gen part =>
    if isLocal c name then
      if (eventAt c (evIdx name)).gen = gen then lower m c (evIdx name) 1 else c
    else sendKiln c name part (.fdrop 1 false)
  | .retired name gen => (consumersOf c name gen).foldl (fun c i => retireFor c name gen i) c
  | .failed name gen => (consumersOf c name gen).foldl (fun c i => endBad c i sFAILED none) c
  | .undefine part first bits => undefineRegion m c part first bits

/-- A COUNTER freed: its waiters get their answer, and the consumers that waited for it go on (R213, R214). -/
def freeCounter (c : Chip) (i : Nat) : Chip :=
  let e := eventAt c i
  tableNext (notify { c with events := sput c.events i { Event.blank with gen := e.gen } } i) (.retired (localName c i) e.gen)

/-- The drop of n references to a local entry; a DROP word makes a COUNTER FREE (R214, R216). -/
def dropRefs (m : Memory) (c : Chip) (i n : Nat) (word : Bool) : Chip :=
  if word && (eventAt c i).state == sCOUNTER then freeCounter c i else lower m c i n

/-- SIGEV or EVSIG at a local entry (R214); false when the entry takes none. -/
def signalAt (c : Chip) (i n : Nat) : Bool × Chip :=
  let e := eventAt c i
  if e.state = sCOUNTER then
    let v := e.cval + BitVec.ofNat 32 n
    let c := notify (modEvent c i fun e => { e with cval := v }) i
    (true, if e.cval = 0 ∧ v ≠ 0 then tableNext c (.retired (localName c i) e.gen) else c)
  else if reusable e then
    let e' : Event := { Event.blank with gen := e.gen + 1, state := sCOUNTER, cval := BitVec.ofNat 32 n }
    (true, notify { c with events := sput c.events i e' } i)
  else (false, c)

/-! ## Streams that wait (R203, R207, R223) -/

/-- A stream has an event that is WAITING, READY or RUNNING, or a copy that has not completed (R207). -/
def streamBusy (c : Chip) (n : Nat) : Bool :=
  decide ((streamAt c n).copies ≠ 0) || c.events.any fun (_, e) =>
    e.stream.toNat == n && (e.state == sWAITING || e.state == sREADY || e.state == sRUNNING)

/-- A stream enters a state, with its trace record (R203, R263). -/
def toState (c : Chip) (n : Nat) (st : Fin 7) (code : Nat) : Chip :=
  let x := streamAt c n
  let wait := if st = 0 ∨ st = 5 ∨ st = 6 then StreamWait.none else x.wait
  let c := modStream c n fun x => { x with state := st, code := BitVec.ofNat 8 code, wait := wait }
  let c := if st = 6 then msix c x.part.toNat 1 else c
  trace c (partCore c x.part.toNat) 1 8 (n + st.val * 2 ^ 6 + code * 2 ^ 9) none

/-- The condition of a WAITING stream: it holds, it does not yet, or its producer has failed (R207). -/
inductive Cond where
  | yes | no | bad
deriving DecidableEq, Repr

def streamCond (c : Chip) (n : Nat) : Cond :=
  match (streamAt c n).wait with
  | .none => .yes
  | .waitev prod cons =>
    let e := eventAt c (evIdx prod)
    if !isLocal c prod then .no
    else if e.state = sFAILED ∨ e.state = sRECLAIMED then .bad
    else if e.state = sDONE ∨ (e.state = sCOUNTER ∧ cons.toNat ≤ e.cval.toNat) then .yes
    else .no
  | .fence => if streamBusy c n then .no else .yes
  | .handover => .no

/-- A WAITING stream goes on behind its word. -/
def streamOn (c : Chip) (n : Nat) : Chip :=
  after (modStream (toState c n 1 0) n fun x => { x with wait := .none, pc := x.pc + 256 }) 0 .fetch

/-- A WAITING stream goes on behind its word when its condition holds (R203). -/
def pokeStream (c : Chip) (n : Nat) : Chip :=
  if (streamAt c n).state = 2 then
    match streamCond c n with
    | .yes => streamOn c n
    | .bad => toState c n 6 0x07
    | .no => c
  else c

/-- No stream of higher PRIO holds a job that is READY or RUNNING (R224). -/
def mayResume (c : Chip) (n : Nat) : Bool :=
  !c.events.any fun (_, e) => (e.state == sREADY || e.state == sRUNNING)
    && decide ((streamAt c n).prio.toNat < (streamAt c e.stream.toNat).prio.toNat)

/-- The streams that are saved and may go on, and those that wait, looked at (R203, R224). -/
def pokeStreams (c : Chip) : Chip :=
  c.streams.foldl (fun c (n, x) =>
    if x.state = 2 then pokeStream c n
    else if x.state = 4 ∧ !x.resuming ∧ mayResume c n then
      if h : n < 64 then after (modStream c n fun x => { x with resuming := true }) 0 (.streamResume ⟨n, h⟩) else c
    else c) c

/-! ## Pushes (R42, R216, R218, R222) -/

/-- The entries that a mailbox holds or will hold. -/
def boxCount (c : Chip) (core mb : Nat) : Nat := (c.events.filter fun (_, e) => e.info.queued == some (core, mb)).length

/-- A core is fenced (R253). -/
def fenced (c : Chip) (core : Nat) : Bool := bit (dev c (rFence (core / 64))).toNat (core % 64)

/-- A worker block runs a job's template, for its partition (R210). -/
def runsTemplate (c : Chip) (e : Event) (x : Warp) (g : Fin 256) : Bool :=
  gValid c g.val && gWorker c g.val && gTemplate c g.val == e.tpl.toNat && x.part == e.info.part

/-- A core other than one runs a job's template, whether or not it takes pushes (R225). -/
def runsElsewhere (c : Chip) (e : Event) (core : Nat) : Bool :=
  c.warps.any fun (w, x) => coreOf w != core && x.block.any fun g => runsTemplate c e x g

/-- The pairs of core and mailbox that run a job's template and take pushes of it (R210, R218, R225, R246, R253). -/
def pairsOf (c : Chip) (e : Event) : List (Nat × Nat) :=
  (c.warps.filterMap fun (w, x) => x.block.bind fun g =>
    if runsTemplate c e x g && e.info.excluded != some (coreOf w) && !(coreAt c (coreOf w)).noPush && !fenced c (coreOf w)
    then some (coreOf w, gMbox c g.val) else none).eraseDups

/-- The mailbox that holds the fewest entries, then the lower core and the lower mailbox, of those with room. -/
def bestPair (c : Chip) (l : List (Nat × Nat)) : Option (Nat × Nat) :=
  (l.filter fun p => decide (boxCount c p.1 p.2 < 64)).foldl (fun a p =>
    match a with
    | none => some p
    | some q => if boxCount c p.1 p.2 * 2048 + p.1 * 8 + p.2 < boxCount c q.1 q.2 * 2048 + q.1 * 8 + q.2 then some p else some q) none

/-- A drain keeps back the pushes of the stream that it drains, until its restore, and of the one that it favours
(R222, R224). -/
def kept (c : Chip) (n : Nat) : Bool :=
  (streamAt c n).frozen || c.streams.any fun (_, x) =>
    match x.drain with
    | some d => d.favour.val == n
    | none => false

/-- A READY job may be pushed now (R218, R222, R281). -/
def mayPush (c : Chip) (e : Event) : Bool :=
  e.state == sREADY && decide (e.info.queued = none) && !kept c e.stream.toNat
    && decide (((sget c.withheld e.info.part.toNat).getD 0) ≤ c.cycle) && decide ((sget c.resets e.info.part.toNat) = none)

/-- The order of R218 among READY jobs that wait for a mailbox. -/
def pushOrder (c : Chip) (e : Event) (p : Nat × Nat) : Nat :=
  let last := (sget c.pushLast (p.1 * 8 + p.2)).getD 63
  ((7 - (streamAt c e.stream.toNat).prio.toNat) * 64 + (e.stream.toNat + 63 - last) % 64) * 2 ^ 64 + e.info.created

/-- The next push, if there is one: a job and its mailbox. -/
def nextPush (c : Chip) : Option (Nat × Nat × Nat) :=
  (c.events.filterMap fun (i, e) =>
      if mayPush c e then (bestPair c (pairsOf c e)).map fun p => (pushOrder c e p, i, p) else none).foldl
    (fun a (k, i, p) => match a with
      | none => some (k, i, p)
      | some (k', i', p') => if k < k' then some (k, i, p) else some (k', i', p')) (none : Option (Nat × Nat × Nat × Nat))
    |>.map fun (_, i, p) => (i, p)

/-- Jobs pushed while there is one that may be: each is present 40 cycles later (R216). -/
def pushLoop : Nat → Chip → Chip
  | 0, c => c
  | n + 1, c =>
    match nextPush c with
    | none => c
    | some (i, core, mb) =>
      let s := (eventAt c i).stream.toNat
      let c := modEvent c i fun e => { e with info := { e.info with queued := some (core, mb), pushing := true, blocked := none } }
      let c := { c with pushLast := sput c.pushLast (core * 8 + mb) s }
      pushLoop n (after c 40 (.mailboxPush i))

/-- A stream of lower PRIO holds entries in the mailboxes that a job waits for, or running jobs on those cores (R222). -/
def inTheWay (c : Chip) (e : Event) (n : Nat) : Bool :=
  let ps := pairsOf c e
  let x := streamAt c n
  decide (x.prio.toNat < (streamAt c e.stream.toNat).prio.toNat) && decide (x.state.val < 3)
    && c.events.any fun (_, f) => f.stream.toNat == n
      && ((f.info.queued.map fun q => ps.contains q).getD false
        || (f.state == sRUNNING && decide (f.info.block ≠ none) && ps.any fun p => p.1 == f.core.toNat))

/-- The stream that an automatic pre-emption for a job drains: the lowest PRIO, then the higher number (R222). -/
def victim (c : Chip) (e : Event) : Option Nat :=
  ((List.range 64).filter (inTheWay c e)).foldl (fun a n =>
    match a with
    | none => some n
    | some b => if (streamAt c n).prio.toNat ≤ (streamAt c b).prio.toNat then some n else some b) none

/-- A job has waited KLN_PREWAIT cycles for a mailbox, and a stream can be drained for it (R222). -/
def preemptDue (c : Chip) (e : Event) : Bool :=
  let wait := (dev c rPrewait).toNat
  decide (wait ≠ 0) && mayPush c e && (victim c e).isSome
    && match e.info.blocked with
       | some t => decide (t + wait ≤ c.cycle)
       | none => false

/-- Jobs that no mailbox of their template has room for wait for KLN_PREWAIT (R222). -/
def markBlocked (c : Chip) : Chip :=
  c.events.foldl (fun c (i, e) =>
    if mayPush c e && decide (e.info.blocked = none) && !(pairsOf c e).isEmpty then
      after (modEvent c i fun e => { e with info := { e.info with blocked := some c.cycle } })
        (dev c rPrewait).toNat (.preemptAutomatic i)
    else if preemptDue c e && !hasEv c (fun d => match d with
        | .preemptAutomatic k => k == i
        | _ => false) then after c 0 (.preemptAutomatic i)
    else c) c

/-- The Kiln looks at its table after a change: pushes, streams that wait and streams that are saved. -/
def look1 (c : Chip) : Chip :=
  let n := (c.events.filter fun (_, e) => mayPush c e).length
  pokeStreams (markBlocked (pushLoop n c))

/-- The drain of a job's stream looks at its step (R222). -/
def drainLook (c : Chip) (n : Nat) : Chip :=
  if (streamAt c n).drain.isSome then
    if h : n < 64 then after c 0 (.drainStepAdvance ⟨n, h⟩) else c
  else c

/-- The Kiln looks at its table at the end of the present cycle's changes. -/
def askLook (c : Chip) : Chip :=
  let asked := c.agenda.any fun e => match e.2 with
    | .kilnLook => decide (e.1 ≤ c.cycle)
    | _ => false
  if asked then c else after c 0 .kilnLook

/-- A change to the table, which the Kiln looks at when the cycle's changes have been made. -/
def kilnRun (f : Act) : Act := fun m c => askLook (f m c)

/-- The Kiln's look. -/
def fireKilnLook (s : State) : Ans := run (fun _ c => look1 c) s

/-- What follows from the end of a job, in its cycle. -/
def fireTable (a : TableAct) (s : State) : Ans := run (kilnRun fun m c => tableAct m c a) s

/-! ## Ends of jobs (R43, R184, R216, R225) -/

/-- The last part of a job has ended, by a JDONE or JYIELD, or by the exit of its last warp (R216, R317). A yield is recorded as an
end is (R269). -/
def endJob (c : Chip) (i : Nat) (w : Option Nat) : Chip :=
  let e := eventAt c i
  let c := modEvent c i fun e => { e with info := { e.info with block := none } }
  let c :=
    if e.info.reclaim then endBad (undefineAcc c e.info.block) i sRECLAIMED w
    else if e.info.failed then endBad c i sFAILED w
    else
      match e.info.yieldTo with
      | some cont => traceEnd (makeReady (modEvent c i fun e => { e with info := { e.info with arg := cont, cont := true } }) i) i w
      | none =>
        let c := modEvent c i fun e => { e with pend := BitVec.ofNat 8 e.info.cmds, info := { e.info with jdone := true } }
        if e.info.cmds = 0 then endDone c i w else c
  drainLook c e.stream.toNat

/-- A job whose parts have all ended ends. -/
def checkJob (c : Chip) (i : Nat) (w : Option Nat) : Chip :=
  let e := eventAt c i
  if e.state = sRUNNING ∧ !e.info.jdone ∧ e.info.parts = 0 ∧ e.info.popped then endJob c i w else c

/-- An N = 1 command of a job has ended (R184): its event retires with the last of them, behind its last JDONE. -/
def cmdEnded (c : Chip) (name : BitVec 26) (gen : BitVec 8) : Chip :=
  let i := evIdx name
  if (eventAt c i).gen ≠ gen then c
  else
    let c := modEvent c i fun e => { e with info := { e.info with cmds := e.info.cmds - 1 } }
    let e := eventAt c i
    if e.state = sRUNNING ∧ e.info.jdone then
      let c := modEvent c i fun e => { e with pend := BitVec.ofNat 8 e.info.cmds }
      if e.info.cmds = 0 then drainLook (endDone c i e.info.last) e.stream.toNat else c
    else c

/-- A job halted by a fault moves (R216, R225): rerun once elsewhere after a hardware error, else FAILED. -/
def haltJob (c : Chip) (i : Nat) (hw : Bool) : Chip :=
  let e := eventAt c i
  let core := e.core.toNat
  let c := modEvent c i fun e => { e with info := { e.info with block := none } }
  let again := hw && !e.cmt && !e.info.retried
  let c :=
    if again && runsElsewhere c e core then
      makeReady (modEvent c i fun e => { e with info := { e.info with excluded := some core, retried := true } }) i
    else
      let c := if hw && e.info.retried then
          let first := e.info.excluded.getD 0
          let c := setDev c (rFence (first / 64)) (dev c (rFence (first / 64)) ||| BitVec.ofNat 64 (2 ^ (first % 64)))
          logRecord c 0 4 first 3 2 e.info.part.toNat
        else c
      endBad c i sFAILED none
  drainLook c e.stream.toNat

/-- The Kiln looks at an entry whose block has changed (R317), or whose pop has had no effect: a count that has reached zero
reclaims it, and a drain keeps it out of its mailbox (R216, R222). -/
def fireKiln (i : Nat) (s : State) : Ans := run (kilnRun fun _ c =>
    let e := eventAt c i
    if e.state = sREADY ∧ e.info.reclaim then endBad c i sRECLAIMED none
    else if e.state = sREADY ∧ (streamAt c e.stream.toNat).frozen then drainLook (unqueue c i) e.stream.toNat
    else checkJob c i none) s

/-! ## Creation (R211 to R213) -/

/-- A run that a unit of the device reads at once comes to its home as an access does: a miss in L2 makes its grain valid (R128, R130),
an access to HBM leaves its row (R430), a read of another chip leaves as a packet, and its answer's stamp is merged (R237, R258). That
it takes no time of its own, meets no slot and no refresh is the model's choice (log 46). -/
def readThrough (c : Chip) (core : Nat) (part : BitVec 4) (f : Found) : Chip :=
  let p := pieceOf f
  let (off, grain) := fetchWindow [p]
  let win : Piece := { p with pos := 0, pa := { p.pa with bit := p.pa.bit / 1024 * 1024 + off }, width := grain }
  let far := fun (c : Chip) => match p.pa.space with
    | .hbm => leaveRow c p.pa.bit false
    | .remote => mergeAnswer (farSend c (128 * core) win.pa.bit (.read (chipFin c) (Fin.ofNat _ win.pa.bit) (Fin.ofNat _ grain)))
    | _ => c
  match homeOf f.x with
  | .l2 _ =>
    if l2Hit c [p] then c
    else l2Fill (far (noteView c f.x.enc part.toNat (unitsOf p ++ unitsOf win).eraseDups)) (lineOf p.pa) off grain
  | .mem => far c
  | .sram _ => c

/-- Bits at a virtual address as a unit of the device reads them at their home for a partition, or the faults that it takes
(R115, R254). Lines of HOME = 01 are pinned (R129). -/
def deviceRead (m : Memory) (c : Chip) (core : Nat) (part : BitVec 4) (kernel : Bool) (va n : Nat) :
    Except (List AFault) (Nat × Chip) :=
  let l := findThread m c core part.toNat kernel { acc := .load } 0 va n
  let found := foundOf l
  let fault := fun (code : BitVec 6) => Except.error [({ code := code, t := 0, addr := va, again := false } : AFault)]
  if !(faultsOf l).isEmpty then .error (faultsOf l)
  else if found.any fun f => homeGone c (homeOf f.x) then fault cPEERGONE
  else if found.any fun f => !(badSectors c (pieceOf f)).isEmpty then fault cPOISON
  else
    let c := found.foldl (fun c f => if f.x.home = 1 then pinLine c (lineOf f.x.pa) else c) c
    .ok (found.foldl (fun (v, c) f =>
      let p := pieceOf f
      let (x, c) := blur c p (homeRead m c (homeOf f.x).isL2 f.x.enc part.toNat p)
      (v + x * 2 ^ p.pos, readThrough c core part f)) (0, c))

/-- Bits at a virtual address as the Kiln reads them for a partition, or the fault it takes. The Kiln's accesses are not
worker mode's (R113). -/
def kilnRead (m : Memory) (c : Chip) (part : BitVec 4) (va n : Nat) : Except AFault (Nat × Chip) :=
  match deviceRead m c 192 part true va n with
  | .ok r => .ok r
  | .error l => .error ((worst l).getD { code := cPAGE, t := 0, addr := va, again := false })

/-- The page that holds an address of the Kiln waits in the fault buffer (R141). -/
def kilnFault (m : Memory) (c : Chip) (part : BitVec 4) (f : AFault) (cmds : List Nat) (streams : List (Fin 64)) : Chip :=
  sendFaults m c 192 0 part [] cmds streams [f]

/-- What a new job is made of. -/
structure NewJob where
  tpl : BitVec 12
  x : BitVec 16
  y : BitVec 16
  stream : BitVec 6
  cons : Nat
  prods : List (BitVec 26)
  arg : W64
  part : BitVec 4
  parent : Option (BitVec 26)
  /-- The linear tile index of R211. -/
  lin : Nat

/-- How a creation ends. -/
inductive Made where
  | ok (c : Chip)
  | busy
  | fault (f : AFault)

/-- One producer of a new job taken into account (R213): it may take a reference, and the job may wait for it or fail. -/
def addProd (c : Chip) (i : Nat) (part : BitVec 4) (gen : BitVec 8) (bad : Bool) (p : BitVec 26) : Bool × Chip :=
  if isLocal c p then
    let e := eventAt c (evIdx p)
    let live := e.state == sWAITING || e.state == sREADY || e.state == sRUNNING
    let c := if live || e.state == sDONE then
        modEvent (addCnt c (evIdx p) 1) i fun n => { n with info := { n.info with refs := n.info.refs ++ [(p, e.gen)] } }
      else c
    let c := if live || (e.state == sCOUNTER && e.cval == 0) then
        modEvent c i fun n => { n with info := { n.info with prods := n.info.prods ++ [(p, e.gen)] } }
      else c
    (bad || e.state == sFAILED || e.state == sRECLAIMED, c)
  else if routed c (chipOf p) then
    let (id, c) := freshId c
    let c := { c with kreqs := sput c.kreqs id { w := 24576, part := part, name := p, op := .stencil i gen, issued := c.cycle } }
    let c := sendKiln c p part (.subscribe id)
    (bad, modEvent c i fun n => { n with info := { n.info with
      refs := n.info.refs ++ [(p, 0)], prods := n.info.prods ++ [(p, 0)] } })
  else (bad, c)

/-- A job's event created at a local index (R211 to R213, R219). -/
def create (m : Memory) (c : Chip) (i : Nat) (j : NewJob) : Made :=
  let old := eventAt c i
  if !reusable old then .busy
  else
    match kilnRead m c j.part j.arg.toNat 64 with
    | .error f => .fault f
    | .ok (ob, c) =>
      let (n, c) := freshId c
      let gen := old.gen + 1
      let info := { JobInfo.blank with
        arg := j.arg, out := BitVec.ofNat 64 (ob + j.lin * tplOutSz c j.tpl.toNat), child := j.parent.isSome,
        parent := j.parent.getD 0, part := j.part, created := n }
      let e := { Event.blank with
        gen := gen, stream := j.stream, y := j.y, x := j.x, tpl := j.tpl, cnt := BitVec.ofNat 16 (min 65535 j.cons),
        state := sWAITING, info := info }
      let c := { c with events := sput c.events i e }
      let c := if 65535 < j.cons then kilnLog c 0x3F j.part.toNat else c
      let (bad, c) := j.prods.foldl (fun (bad, c) p => addProd c i j.part gen bad p) (false, c)
      if bad then .ok (endBad c i sFAILED none)
      else
        let k := (eventAt c i).info.prods.length
        if k = 0 then .ok (makeReady c i) else .ok (modEvent c i fun e => { e with pend := BitVec.ofNat 8 k })

end Sys2Proof.Machine
end

