-- ==== Sys2Proof/Machine/Jobs.lean ====
section
/-!
DEFINITION. Sys2Proof/Machine/Jobs.lean: the job instructions (R219, R314, R322, R327, R333, R335, R336, R347 to R349), their
arrival at the event table, mailboxes and pops (R43, R218), the requests and answers of other chips (R221), the freeing of
entries (R214), and the return of a waiting instruction.
-/

namespace Sys2Proof.Machine
open Sys2Proof

/-! ## The instructions -/

/-- An event at a cycle, or when tokens have gone if that is later (R315, R328, R335, R348). -/
def whenDone (c : Chip) (deps : List Nat) (t : Nat) (e : Ev) : Chip :=
  if deps.isEmpty then schedule c t e else { c with rel := c.rel ++ [{ deps := deps, base := t, add := 0, ev := e }] }

/-- A request of the issuing warp to the event table: it arrives 16 cycles later, or when the tokens have gone. -/
def jobReq (c : Chip) (name : BitVec 26) (op : KilnOp) (deps : List Nat) : Chip :=
  let x := warpAt c c.cur.w
  let (id, c) := freshId c
  let c := { c with kreqs := sput c.kreqs id { w := c.cur.w, part := x.part, name := name, op := op, issued := c.cycle } }
  whenDone c deps (c.cycle + 16) (.eventRequestArrival id)

/-- The event name of s(SA): ILL for bits above it, PROT for a local name outside the partition's range (R219). -/
def named (sa : SReg) (f : BitVec 26 → Act) : Act := withPfx none fun m c =>
  let x := warpAt c c.cur.w
  let v := sread x sa
  let name := v.setWidth 26
  if v.toNat / 2 ^ 26 ≠ 0 then raiseIll c
  else if isLocal c name && !inRange c x.part.toNat (evIdx name) then raise c cPROT (entryMask c)
  else f name m c

/-- An instruction that needs a current job (R64). -/
def needsJob (f : BitVec 26 → Act) : Act := withPfx none fun m c =>
  match (warpAt c c.cur.w).job with
  | some n => f n m c
  | none => raise c cJSTATE (entryMask c)

/-- The instruction has issued, with occupancy 1, and the body goes on. -/
def goes (m : Memory) (c : Chip) : Chip := advance m (issued c 1 (entryMask c))

/-- JPOP (R43, R349): the warp's arrival for its block's next job. -/
def execJpop (sd : SReg) (mb : Fin 8) (s : State) : Ans := run (withPfx none fun _ c =>
    let w := c.cur.w
    let x := warpAt c w
    match x.block with
    | none => raiseIll c
    | some g =>
      if x.kernel || mb.val != gMbox c g.val then raiseIll c
      else if x.job.isSome then raise c cJSTATE (entryMask c)
      else checkPop (waitHere c (.jpop sd)) (coreOf w) g) s

/-- The block of a warp as core x 256 + group. -/
def blockKey (c : Chip) (w : Nat) : Nat := coreOf w * 256 + ((warpAt c w).block.map Fin.val).getD 0

/-- The warp's part in its job ends at issue; the entry hears of it when its stores are performed (R347, R348). -/
def partOver (op : Warp → Nat → KilnOp) : Act := needsJob fun name m c =>
  let w := c.cur.w
  let x := warpAt c w
  let c := jobReq c name (op x (blockKey c w)) x.stores
  goes m (modWarp c w fun x => { x with job := none })

/-- JDONE (R267, R347, R348). -/
def execJdone (s : State) : Ans :=
  run (needsJob fun _ m c => partOver (fun _ g => .jdone g) m (pmEvent c (coreOf c.cur.w) 0x31 1)) s

/-- JYIELD (R347, R348). -/
def execJyield (sa : SReg) (s : State) : Ans := run (partOver fun x g => .jyield g (sread x sa)) s

/-- FSPAWN (R219, R335): SD is there 8 cycles after the creation, whenever that is. -/
def execFspawn (sd sa : SReg) (s : State) : Ans := run (needsJob fun name m c =>
    let w := c.cur.w
    let x := warpAt c w
    let words : Vector W64 4 := Vector.ofFn fun i => sread x (Fin.ofNat 32 (sa.val + i.val))
    let stream := (eventAt c (evIdx name)).stream
    let c := jobReq c (words[0].setWidth 26) (.fspawn sd words stream name false) x.stores
    goes m (modWarp c w fun x => setReady x [codeS sd.val] (some (2 ^ 64)))) s

/-- FREF (R327, R328). -/
def execFref (sa : SReg) (n : Fin 2048) (s : State) : Ans := run (
    if n.val = 0 then withPfx none fun _ c => raiseIll c
    else named sa fun name m c => goes m (jobReq c name (.fref n.val) [])) s

/-- FDROP (R327, R328): behind every earlier load, atomic and store of the warp. -/
def execFdrop (sa : SReg) (n : Fin 2048) (s : State) : Ans := run (
    if n.val = 0 then withPfx none fun _ c => raiseIll c
    else named sa fun name m c =>
      let x := warpAt c c.cur.w
      goes m (jobReq c name (.fdrop n.val) (x.stores ++ x.loads))) s

/-- EVSIG (R314, R315). -/
def execEvsig (sa : SReg) (n : Fin 2048) (s : State) : Ans := run (
    if n.val = 0 then withPfx none fun _ c => raiseIll c
    else named sa fun name m c => goes m (jobReq c name (.evsig n.val) (warpAt c c.cur.w).stores)) s

/-- FWAIT (R219, R220, R336): a set RECLAIM bit lets it return at once. -/
def execFwait (sa : SReg) (s : State) : Ans := run (named sa fun name m c =>
    let x := warpAt c c.cur.w
    if x.rcl || x.drn then goes m c else jobReq (waitHere c (.fwait name)) name .fwait []) s

/-- FPOLL (R219, R333). -/
def execFpoll (sd sa : SReg) (p : PReg) (s : State) : Ans := run (named sa fun name m c =>
    let w := c.cur.w
    let c := jobReq c name (.fpoll sd p (entryMask c)) []
    let t := if isLocal c name then c.cycle + 24 else 2 ^ 64
    let c := modWarp c w fun x => { setReady x [codeS sd.val, codeP p.val] (some t) with polls := x.polls + 1 }
    goes m c) s

/-- FCOMMIT (R219, R322): the warp issues again when the commit has reached the entry. -/
def execFcommit (s : State) : Ans := run (needsJob fun name m c =>
    let w := c.cur.w
    goes m (holdIssue (jobReq c name .fcommit []) w (c.cycle + 16) 14)) s

/-! ## At the event table (R216, R219) -/

/-- The order in which effects of one cycle apply (R160, R216). -/
def KilnOp.rank (op : KilnOp) : Nat :=
  match op with
  | .fcommit | .fspawn _ _ _ _ _ => 0
  | .jdone _ | .jyield _ _ => 1
  | .fref _ => 2
  | .evsig _ | .stencil _ _ | .waitev _ _ | .sigev _ => 3
  | .fdrop _ => 4
  | .fwait | .fpoll _ _ _ => 5

def remoteRank (op : RemoteOp) : Nat :=
  match op with
  | .fref _ => 2
  | .evsig _ | .sigev _ _ | .subscribe _ => 3
  | .fdrop _ _ | .unsubscribe _ => 4
  | .query _ _ | .waitev _ _ => 5

/-- The place of an event among those of its cycle: the changes of the event table in the order of R216, with the drops that an end
brings about behind every JDONE and before every pop, then the Kiln's look at its table and the fetcher; at the accumulator file a
drain's writes, then the instructions in ascending WARP (R197, R388). -/
def turnOf (c : Chip) (e : Ev) : Nat :=
  match e with
  | .halted _ _ | .table (.undefine _ _ _) => 0
  | .eventRequestArrival id => ((sget c.kreqs id).map fun r => 2 + r.op.rank).getD 2
  | .kilnRemoteRequest r => 2 + remoteRank r.op
  | .kiln _ | .table (.retired _ _) | .table (.failed _ _) => 3
  | .table (.drop _ _ _) | .drop _ => 6
  | .jobPop _ _ => 8
  | .kilnLook => 9
  | .fetch => 10
  | .matrixBlockStep _ => 11
  | .accWrite w _ _ _ => 12 + slotOf w
  | .scaccPerform core => 12 + slotOf (((coreAt c core.val).scaccs.head?.map Scacc.w).getD 0)
  | _ => 1

/-- The word that FPOLL writes to SD (R219). -/
def pollWord (x : Warp) (state : Nat) (gen : BitVec 8) (cval : W32) : W64 :=
  BitVec.ofNat 64 (state + b1 x.rcl * 8 + b1 x.drn * 16 + gen.toNat * 256 + cval.toNat * 2 ^ 32)

/-- FPOLL's answer: SD and the predicate, and the acquire of one that reports success (R219, R333). -/
def pollAnswer (c : Chip) (w : Nat) (sd : SReg) (p : PReg) (act : BitVec 32) (state : Nat) (gen : BitVec 8) (cval : W32)
    (t : Nat) : Chip :=
  let x := warpAt c w
  let ok := (state == 4 || (state == 7 && cval != 0)) && !x.rcl && !x.drn
  let c := if ok then l1Flush c (coreOf w) else c
  modWarp c w fun x =>
    let x := setReady (swrite x sd (pollWord x state gen cval)) [codeS sd.val, codeP p.val] (some t)
    { pwrite x p act (fun _ => ok) with polls := x.polls - 1 }

/-- FWAIT at a local entry: it returns 24 cycles later, or waits for a change (R336). -/
def waitAt (c : Chip) (w i : Nat) : Chip :=
  let e := eventAt c i
  if holds e then setSubs c i (subsOf c i ++ [.warp w])
  else wakeAt c w (c.cycle + 24) (if succeeds e then 1 else 0)

/-- FSPAWN's result (R335). -/
def spawnEnd (c : Chip) (w : Nat) (sd : SReg) (v : W64) : Chip := modWarp c w fun x => writeLate x sd v (c.cycle + 8)

/-- FSPAWN at the entry (R211, R219): the child is created, or SD receives all ones. -/
def spawnAt (m : Memory) (c : Chip) (id : Nat) (r : KilnReq) (sd : SReg) (words : Vector W64 4) (stream : BitVec 6)
    (parent : BitVec 26) (fail : Bool) : Chip :=
  let x := warpAt c r.w
  let tpl := fld words[0].toNat 26 12
  let pi := evIdx parent
  let bad := words[0].toNat / 2 ^ 38 ≠ 0 ∨ words[1].toNat / 2 ^ 48 ≠ 0 ∨ words[3] ≠ 0 ∨ !isLocal c r.name
    ∨ !inRange c r.part.toNat (evIdx r.name) ∨ !tplValid c tpl ∨ 64 ≤ (eventAt c pi).info.children.length ∨ x.rcl ∨ x.drn
  let gone := fun (c : Chip) => spawnEnd { c with kreqs := sdel c.kreqs id } r.w sd (BitVec.allOnes 64)
  if bad then gone c
  else if fail then gone (kilnLog c cPAGE.toNat r.part.toNat)
  else
    let w1 := words[1].toNat
    match create m c (evIdx r.name)
        { tpl := BitVec.ofNat 12 tpl, x := BitVec.ofNat 16 w1, y := BitVec.ofNat 16 (w1 / 2 ^ 16), stream := stream,
          cons := fld w1 32 16 + 1, prods := [], arg := words[2], part := r.part, parent := some parent, lin := 0 } with
    | .busy => gone c
    | .fault f =>
      if f.again then
        kilnFault m { c with kreqs := sput c.kreqs id { r with op := .fspawn sd words stream parent true } } r.part f [id] []
      else gone (kilnLog c f.code.toNat r.part.toNat)
    | .ok c =>
      let g := (eventAt c (evIdx r.name)).gen
      let c := modEvent c pi fun e => { e with info := { e.info with children := e.info.children ++ [(r.name, g)] } }
      spawnEnd { c with kreqs := sdel c.kreqs id } r.w sd (r.name.setWidth 64)

/-- FCOMMIT at the entry (R219, R220): with a reclaim pending the job is one whose count has reached zero. -/
def commitAt (c : Chip) (i : Nat) : Chip :=
  let e := eventAt c i
  let c := modEvent c i fun e => { e with
    cmt := true, info := { e.info with reclaim := false, discard := e.info.discard || e.info.reclaim } }
  if e.info.reclaim then (jobWarps c e).foldl (fun c w => modWarp c w fun x => { x with rcl := false }) c else c

/-- A part of a job has ended at the entry (R216, R347). -/
def partAt (c : Chip) (i b w : Nat) (cont : Option W64) : Chip :=
  if ((eventAt c i).info.block.map fun p => p.1 * 256 + p.2.val) ≠ some b then c
  else
    let who := if w < 24576 then some w else none
    let c := modEvent c i fun e => { e with info := { e.info with
      parts := e.info.parts - 1, yieldTo := if cont.isSome then cont else e.info.yieldTo, last := who } }
    checkJob c i who

/-- A request for another chip's event goes on its way (R221); without a route it is answered as by a FREE entry. -/
def forward (c : Chip) (id : Nat) (r : KilnReq) : Chip :=
  let gone := { c with kreqs := sdel c.kreqs id }
  match r.op with
  | .fref n => sendKiln gone r.name r.part (.fref (Fin.ofNat 65536 n))
  | .fdrop n => sendKiln gone r.name r.part (.fdrop (Fin.ofNat 65536 n) false)
  | .evsig n => sendKiln gone r.name r.part (.evsig (Fin.ofNat 65536 n))
  | .fwait =>
    if routed c (chipOf r.name) then sendKiln c r.name r.part (.query id true) else wakeAt gone r.w (c.cycle + 24) 0
  | .fpoll sd p act =>
    if routed c (chipOf r.name) then sendKiln c r.name r.part (.query id false)
    else pollAnswer gone r.w sd p act 0 0 0 (r.issued + 24)
  | _ => gone

/-- A request takes effect at its entry. -/
def requestAt (m : Memory) (c : Chip) (id : Nat) (r : KilnReq) : Chip :=
  let i := evIdx r.name
  let gone := { c with kreqs := sdel c.kreqs id }
  match r.op with
  | .jdone b => partAt gone i b r.w none
  | .jyield b cont => partAt gone i b r.w (some cont)
  | .fcommit => commitAt gone i
  | .fspawn sd words stream parent _ => spawnAt m c id r sd words stream parent false
  | .stencil _ _ | .waitev _ _ | .sigev _ => c
  | op =>
    if !isLocal c r.name then forward c id r
    else
      match op with
      | .fref n =>
        let e := eventAt c i
        if e.state = sWAITING ∨ e.state = sREADY ∨ e.state = sRUNNING ∨ e.state = sDONE then addCnt gone i n else gone
      | .fdrop n => dropRefs m gone i n false
      | .evsig n =>
        match signalAt gone i n with
        | (true, c) => c
        | (false, c) => kilnLog c 0x3F r.part.toNat
      | .fwait => waitAt gone r.w i
      | .fpoll sd p act =>
        let e := eventAt c i
        pollAnswer gone r.w sd p act e.state.val e.gen e.cval (r.issued + 24)
      | _ => gone

/-- EVENT_REQUEST_ARRIVAL (R216, R219). -/
def execEventRequestArrival (id : Nat) (s : State) : Ans := run (kilnRun fun m c =>
    match sget c.kreqs id with
    | some r => requestAt m c id r
    | none => c) s

/-- A Kiln request that a fault on its argument block held goes on, or fails (R211). -/
def retrySpawn (m : Memory) (c : Chip) (id : Nat) (ok : Bool) : Chip :=
  match sget c.kreqs id with
  | some r =>
    match r.op with
    | .fspawn sd words stream parent _ => askLook (spawnAt m c id r sd words stream parent (!ok))
    | _ => c
  | none => c

/-! ## Mailboxes (R42, R43, R218) -/

/-- The four words of a job's mailbox entry (R218). -/
def jobWords (c : Chip) (i : Nat) (e : Event) : Vector W64 4 :=
  let f := fun (k : Fin 4) => BitVec.ofNat 64 (
    match k.val with
    | 0 => (localName c i).toNat + e.tpl.toNat * 2 ^ 26
    | 1 => e.x.toNat + e.y.toNat * 2 ^ 16 + e.gen.toNat * 2 ^ 32 + e.stream.toNat * 2 ^ 40
        + (streamAt c e.stream.toNat).prio.toNat * 2 ^ 46
    | 2 => e.info.arg.toNat
    | _ => (if e.info.child then e.info.parent.toNat else 0) + b1 e.info.child * 2 ^ 26 + b1 e.info.cont * 2 ^ 27)
  Vector.ofFn f

/-- MAILBOX_PUSH (R216, R218): the job is present in its mailbox, unless its core takes no push any more (R246, R253). -/
def execMailboxPush (id : Nat) (s : State) : Ans := run (kilnRun fun _ c =>
    let e := eventAt c id
    match e.info.queued with
    | none => c
    | some (core, mb) =>
      if (coreAt c core).noPush || fenced c core then unqueue c id
      else
      let z : MboxEntry := { idx := id, words := jobWords c id e }
      let c := modEvent c id fun e => { e with info := { e.info with pushing := false } }
      let c := modCore c core fun k => { k with mail := k.mail.set (mb % 8) (k.mail[mb % 8] ++ [z]) }
      if h : core < 192 then after c 0 (.jobPop ⟨core, h⟩ (Fin.ofNat 8 mb)) else c) s

/-- The blocks of a core that wait for a mailbox, in the order of their last arrivals (R43). -/
def waitingBlocks (c : Chip) (core : Nat) (mb : Fin 8) : List Nat :=
  let gs := ((warpsOfCore c core).filterMap fun w => (warpAt c w).block.map Fin.val).eraseDups
  let last := fun g => (warpsOfBlock c core (Fin.ofNat 256 g)).foldl (fun a w => max a ((warpAt c w).lastIssue * 128 + slotOf w)) 0
  sortBy last (gs.filter fun g => gMbox c g == mb.val && blockWaits c core (Fin.ofNat 256 g))

/-- The warp of a block that arrived last. -/
def lastArrived (c : Chip) (ws : List Nat) : Option Nat :=
  ws.foldl (fun a w => match a with
    | none => some w
    | some v => if (warpAt c v).lastIssue ≤ (warpAt c w).lastIssue then some w else some v) none

/-- A drain of the job's stream has begun: its warps read RECLAIM[1] (R222). -/
def draining (c : Chip) (e : Event) : Bool := (streamAt c e.stream.toNat).drain.isSome

/-- A JPOP returns: the record in its s registers and the state of the new job (R43, R219, R349). -/
def jpopReturn (c : Chip) (sd : SReg) (x : Warp) : Warp :=
  match x.job with
  | none => x
  | some n =>
    let e := eventAt c (evIdx n)
    let x := (List.finRange 4).foldl
      (fun x k => writeLate x (Fin.ofNat 32 (sd.val + k.val)) e.info.words[k.val] c.cycle) x
    { x with tile := BitVec.ofNat 32 (e.x.toNat + e.y.toNat * 65536), rcl := e.info.reclaim, drn := draining c e, jobGen := e.gen,
             xfer := false }

/-- The record of a job pop (R263; log 27). -/
def firePopRecord (core payload : Nat) (warp : Option Nat) (s : State) : Ans := run (fun _ c => trace c core 1 6 payload warp) s

/-- A block pops the oldest entry of its mailbox: the job runs there, and its record is written as the JPOPs return, 12 cycles later
(R43, R216, R349; log 27). -/
def popJob (c : Chip) (core : Nat) (mb : Fin 8) (g : Fin 256) (z : MboxEntry) : Chip :=
  let ws := warpsOfBlock c core g
  let c := modCore c core fun k => { k with mail := k.mail.set mb.val ((k.mail[mb.val]).drop 1) }
  let c := modEvent c z.idx fun e => { e with
    state := sRUNNING, core := BitVec.ofNat 8 core, info := { e.info with
      queued := none, pushing := false, popped := true, block := some (core, g), parts := ws.length, failed := false,
      jdone := false, words := z.words } }
  let c := schedule c (c.cycle + 12) (.popRecord core (jobPayload c z.idx (eventAt c z.idx)) (lastArrived c ws))
  ws.foldl (fun c w => wakeAt (modWarp c w fun x => { x with job := some (localName c z.idx) }) w (c.cycle + 12) 0) c

/-- JOB_POP (R43, R44): the first block that waits takes the first entry. -/
def execJobPop (core : CoreId) (mb : Fin 8) (s : State) : Ans := run (kilnRun fun _ c =>
    match waitingBlocks c core.val mb, (coreAt c core.val).mail[mb.val] with
    | g :: _, z :: _ => after (popJob c core.val mb (Fin.ofNat 256 g) z) 0 (.jobPop core mb)
    | _, _ => c) s

/-! ## Other chips (R221) -/

/-- An entry takes the stencil reference of a consumer (R213). -/
def takesRef (e : Event) : Bool := e.state == sWAITING || e.state == sREADY || e.state == sRUNNING || e.state == sDONE

/-- What another chip sends reaches this one with its stamp (R258); in recovery nothing of it works (R279). -/
def received (stamp : W64) (f : Act) : Act := fun m c => if c.recovery then c else f m (mergeStamp c stamp)

/-- KILN_REMOTE_REQUEST (R221): a request of another chip for an event of this one. -/
def execKilnRemoteRequest (r : RemoteReq) (s : State) : Ans := run (received r.stamp (kilnRun fun m c =>
    let i := r.idx.val
    let ok := inRange c r.part.val i
    let e := eventAt c i
    let key := fun (token : Nat) => token * 1024 + r.chip.val
    let later := fun (c : Chip) (k : Sub) => setSubs c i (subsOf c i ++ [k])
    let answer := fun (c : Chip) (token : Nat) (e : Event) => sendAnswer c (key token) e false
    if !ok then
      let c := kilnLog c 0x3F r.part.val
      match r.op with
      | .query token _ | .subscribe token | .sigev token _ => answer c token Event.blank
      | _ => c
    else
      match r.op with
      | .fref n => if takesRef e then addCnt c i n.val else c
      | .fdrop n word => dropRefs m c i n.val word
      | .evsig n =>
        match signalAt c i n.val with
        | (true, c) => c
        | (false, c) => kilnLog c 0x3F r.part.val
      | .sigev token n => let c := (signalAt c i n.val).2; answer c token (eventAt c i)
      | .query token wait => if wait && holds e then later c (.chip (key token)) else answer c token e
      | .waitev token cons =>
        let k := Sub.chipWaitev (key token) cons.val
        if subWaits e k then later c k else answerSub c e k
      | .subscribe token =>
        let c := if takesRef e then addCnt c i 1 else c
        if holds e then later c (.chip (key token)) else sendAnswer c (key token) e (takesRef e)
      | .unsubscribe token =>
        if (subsOf c i).contains (.chip (key token)) then
          let c := setSubs c i ((subsOf c i).filter (· != .chip (key token)))
          answer (if takesRef e then lower m c i 1 else c) token e
        else c)) s

/-- A producer on another chip answers a consumer of this chip: it has retired, or failed (R213, R221). A consumer that has ended
meanwhile drops the reference that the producer still holds, whatever its entry holds since. -/
def stencilAnswer (c : Chip) (q : KilnReq) (i : Nat) (gen : BitVec 8) (r : RemoteAns) : Chip :=
  let e := eventAt c i
  if e.gen ≠ gen ∨ e.state ≠ sWAITING then
    if r.held then sendKiln c q.name q.part (.fdrop 1 false) else c
  else
    let c := if r.held then c
      else modEvent c i fun e => { e with info := { e.info with refs := e.info.refs.filter (· != (q.name, 0)) } }
    if r.state.val = 5 ∨ r.state.val = 6 then endBad c i sFAILED none else retireFor c q.name 0 i

/-- The answer to a stream's WAITEV on another chip's event: it goes on, or ends FAULTED (R207). -/
def waitevAnswer (c : Chip) (q : KilnReq) (st : Fin 64) (cons : BitVec 16) (state : Nat) : Chip :=
  if (streamAt c st.val).state ≠ 2 ∨ (streamAt c st.val).wait ≠ .waitev q.name cons then c
  else if state = 5 ∨ state = 6 then toState c st.val 6 0x07
  else streamOn c st.val

/-- The fetcher is free: a stream that was asked to stop does so at this boundary (R203, R205). -/
def freeFetcher (c : Chip) (n : Nat) : Chip :=
  let c := { c with fetcher := { c.fetcher with busy := none, begun := false, index := 0 } }
  let x := streamAt c n
  let c :=
    if x.stopping then
      let c := modStream c n fun x => { x with stopping := false }
      if x.state = 1 ∨ x.state = 2 then toState c n 0 0 else c
    else c
  drainLook (after c 0 .fetch) n

/-- The answer to a stream's SIGEV at another chip: the stream goes on where the entry has taken it (R207, R214; log 42). -/
def sigevAnswer (c : Chip) (st : Fin 64) (state : Nat) : Chip :=
  if c.fetcher.busy ≠ some st then c
  else if state = 0 ∨ state = 7 then freeFetcher (modStream c st.val fun x => { x with pc := x.pc + 256 }) st.val
  else freeFetcher (if (streamAt c st.val).state = 1 then toState c st.val 6 0x04 else c) st.val

/-- KILN_REMOTE_ANSWER (R221): an owner's answer reaches the warp, the consumer or the stream that asked. FWAIT and FPOLL return 24
cycles and two link times after the answer was formed, one link time of which is over. -/
def execKilnRemoteAnswer (r : RemoteAns) (s : State) : Ans := run (received r.stamp (kilnRun fun _ c =>
    match sget c.kreqs r.token with
    | none => c
    | some q =>
      let gone := { c with kreqs := sdel c.kreqs r.token }
      let t := c.cycle + 24 + linkOw c (chipOf q.name)
      match q.op with
      | .fwait => wakeAt gone q.w t (if r.state.val = 4 ∨ (r.state.val = 7 ∧ r.cval ≠ 0) then 1 else 0)
      | .fpoll sd p act => pollAnswer gone q.w sd p act r.state.val r.gen r.cval t
      | .stencil i gen => stencilAnswer gone q i gen r
      | .waitev st cons => waitevAnswer gone q st cons r.state.val
      | .sigev st => sigevAnswer gone st r.state.val
      | _ => c)) s

/-! ## The Wheel's write of an entry (R214) -/

/-- The partition whose range holds an event index; function 0 where none does (R212). -/
def eventPart (c : Chip) (i : Nat) : Nat := ((List.range 16).find? fun p => inRange c p i).getD 0

/-- A write of an entry (R214): STATE = FREE clears every field but GEN; any other write changes nothing and is logged. -/
def freeWrite (c : Chip) (i : Nat) (v : BitVec 128) : Chip :=
  let old := eventAt c i
  if fld v.toNat 2 3 ≠ 0 then kilnLog c 0x3F (eventPart c i)
  else if old.state = sCOUNTER then freeCounter c i
  else
    let c := unqueue c i
    drainLook (notify { c with events := sput c.events i { Event.blank with gen := old.gen } } i) old.stream.toNat

/-- KLN_EV_FREE_WRITE (R214). -/
def execKlnEvFreeWrite (e : Fin 65536) (v : BitVec 128) (s : State) : Ans := run (kilnRun fun _ c => freeWrite c e.val v) s

/-! ## Faults of fetches (R47, R50, R141) -/

/-- A fetch has met a line whose home's owner has exited: the next fetch asks again (R115). -/
def forgetGone (m : Memory) (c : Chip) (w : Nat) (va : W64) : Chip :=
  match fetchX m c w va.toNat with
  | .ok x => modCore c (coreOf w) fun k => { k with icGone := k.icGone.filter (· != lineOf x.pa) }
  | .fault _ _ => c

/-- A fetch of the body `b` that faults: a final fault as a trap at the clause or instruction that would run, a replayable
one in the fault buffer while the warp waits. -/
def fetchFaultNow (m : Memory) (c : Chip) (w : Nat) (b : Body) (code : BitVec 6) (addr pc : W64) (again : Bool) : Chip :=
  let x := warpAt c w
  if again then
    let l := ((List.finRange 32).filter (lane b.mask)).map fun t : Fin 32 =>
      ({ code := code, t := t, addr := addr.toNat, again := true } : AFault)
    modWarp (sendFaults m c (coreOf w) 0 x.part [w] [] [] l) w fun x => { x with wait := .fetch }
  else
    let r : Report := { code := code, sub := if code = cPOISON then 5 else 0, addr := addr, tmask := b.mask, pc := pc }
    let c := if code = cPEERGONE then forgetGone m c w addr else c
    faultNow c w r (code == cPOISON)

/-- A fetch that faults by its translation does so behind the walk of its page (R138, R248). -/
def fetchFault (m : Memory) (c : Chip) (w : Nat) (b : Body) (code : BitVec 6) (addr pc : W64) (again : Bool) : Chip :=
  let x := warpAt c w
  match needWalk m c (coreOf w) x.part.toNat false [addr.toNat] with
  | [] => fetchFaultNow m c w b code addr pc again
  | p :: _ =>
    if code = cPAGE ∨ code = cPROT then
      joinWalk (modWarp c w fun x => { x with wait := .xlate }) (coreOf w) x.part.toNat p fun k =>
        { k with warps := k.warps.filter (· != w) ++ [w] }
    else fetchFaultNow m c w b code addr pc again

/-- The walk of a fetch that was to fault has ended: it faults, where it still does. -/
def fetchWalked (m : Memory) (c : Chip) (w : Nat) : Chip :=
  let c := modWarp c w fun x => { x with wait := .none }
  match look m c w with
  | .fault b code addr pc again => fetchFaultNow m c w b code addr pc again
  | _ => c

/-! ## A waiting instruction returns -/

/-- A warp can issue. -/
def isReady (l : Look) : Bool :=
  match l with
  | .ready _ _ _ _ => true
  | _ => false

/-- An issue opportunity of a slice with so many eligible warps is counted (R27, R267). -/
def countElig (c : Chip) (core slice n : Nat) : Chip :=
  pmEvent (bumpStick c (rElig core slice n) 1) core (0x20 + n) 1

/-- The warp's instruction, held by a replayable fault, replays from translation (R142): in the order in
which the warps are woken, each when its slice is not busy (R26). It takes the slice's issue opportunity of the cycle, which counts
it beside the warps that are eligible; it needs no scalar slot, and the next round starts behind it (log 26). -/
def replay (m : Memory) (c : Chip) (w : Nat) : Chip :=
  let core := coreOf w
  let slice := sliceOf w
  let busy := (sliceAt c core slice).busy
  if c.cycle < busy then schedule c busy (.wake w 0)
  else
  let others := ((List.range 4).map fun i => core * 128 + slice * 4 + i).filter fun u => u != w && isReady (look m c u)
  let c := if c.pos ≤ core * 32 + slice then countElig c core slice (others.length + 1) else c
  let c := modSlice c core slice fun k => { k with last := w % 4 }
  let c := modWarp (endReplay c w) w fun x => { x with wait := .none }
  match (warpAt c w).body with
  | none => c
  | some b => { c with cur := { w := w, pc := b.pc, faultPc := b.pc, next := b.pc, pfx := none }, phase := .issue }

/-- The walks of the warp's instruction have ended: it goes on from its translation (R138). -/
def goWalked (c : Chip) (w : Nat) (since : Option Nat) : Chip :=
  let c := modWarp c w fun x => { x with wait := .none }
  match (warpAt c w).body with
  | none => c
  | some b =>
    { c with cur := { w := w, pc := b.pc, faultPc := b.pc, next := b.pc, pfx := none, walked := true, since := since }, phase := .issue }

/-- The return of a waiting instruction, with the value it has waited for. -/
def fireWake (w : Nat) (v : W64) (s : State) : Ans := run (fun m c =>
    let core := coreOf w
    match (warpAt c w).wait with
    | .bar _ _ _ => leaveBars m (finishWait m (if v = 0 then c else l1Flush c core) w id) w true
    | .phadv _ => finishWait m (l1Flush c core) w id
    | .jpop sd => finishWait m (pmEvent (l1Flush c core) core 0x30 1) w (jpopReturn c sd)
    | .fwait _ => finishWait m (if v = 0 then c else l1Flush c core) w id
    | .qrcv sd q flag => qrcvReturn m c w sd q flag
    | .tagwa _ => finishWait m (l1Flush c core) w id
    | .tagwy sd _ | .tagff sd _ => finishWait m (l1Flush c core) w fun x => writeLate x sd v c.cycle
    | .halt | .fetch => modWarp c w fun x => { x with wait := .none }
    | .replay _ => replay m c w
    | .walk since => goWalked c w since
    | .xlate => fetchWalked m c w
    | .none | .racq _ _ _ _ | .rrel _ _ | .sysw | .tlbi _ _ _ | .coil _ | .stopped => c) s

end Sys2Proof.Machine
end

