-- ==== Sys2Proof/Machine/Streams.lean ====
section
/-!
DEFINITION. Sys2Proof/Machine/Streams.lean: operator streams: the fetcher (R204, R205), the operator words (R206 to R209,
R211 to R213), the writes that start, stop and set a stream (R202, R203), and drains, saves and restores (R222 to R224, R278).
-/

namespace Sys2Proof.Machine
open Sys2Proof

/-! ## The fetcher (R204, R205) -/

/-- Fields of an operator word (R206). -/
def wF (w : BitVec 256) (lo n : Nat) : Nat := fld w.toNat lo n
def wGx (w : BitVec 256) : Nat := wF w 32 16
def wGy (w : BitVec 256) : Nat := wF w 48 16
def wTpl (w : BitVec 256) : Nat := wF w 16 12
def wEb (w : BitVec 256) : Nat := wF w 64 32
def wCons (w : BitVec 256) : Nat := wF w 96 16
def wArg (w : BitVec 256) : W64 := BitVec.ofNat 64 (wF w 128 64)
def wProd (w : BitVec 256) : BitVec 26 := BitVec.ofNat 26 (wF w 192 26)
def wSten (w : BitVec 256) : Nat := wF w 218 25
def wLen (w : BitVec 256) : Nat := wF w 192 51

/-- The step of a KOP for a stream; BADKOP for a code that R207 does not list. -/
def kopEv (kop : Nat) (st : StreamId) : Ev :=
  match kop with
  | 1 => .tile st
  | 2 => .waitev st
  | 3 => .sigev st
  | 4 => .jump st
  | 5 => .loop st
  | 6 => .kopFence st
  | 7 => .yield st
  | 8 => .hostsig st
  | 9 => .pin st
  | 10 => .kopUnpin st
  | 11 => .prefetch st
  | 12 => .drop st
  | 13 => .endStream st
  | _ => .badkop st

/-- The fields that a KOP uses, each by its lowest bit and its width (R207, R208). -/
def kopFields (kop : Nat) : List (Nat × Nat) :=
  match kop with
  | 1 => [(8, 1), (16, 16), (32, 16), (48, 16), (64, 32), (96, 16), (128, 64), (192, 26), (218, 25)]
  | 2 => [(96, 16), (192, 26)]
  | 3 => [(96, 16), (192, 26)]
  | 4 => [(128, 64)]
  | 5 => [(8, 2), (96, 16), (128, 64)]
  | 8 => [(96, 16), (128, 64)]
  | 9 => [(32, 16), (128, 64), (192, 51)]
  | 10 => [(32, 16), (128, 64), (192, 51)]
  | 11 => [(32, 16), (64, 32), (128, 64)]
  | 12 => [(8, 1), (32, 16), (48, 16), (64, 32), (96, 16)]
  | _ => []

/-- No bit stands outside the fields that a word's KOP uses. -/
def wordOk (w : BitVec 256) : Bool :=
  let used := (kopFields (wF w 0 8)).foldl (fun n f => n + wF w f.1 f.2 * 2 ^ f.1) (wF w 0 8)
  used == w.toNat

/-- Streams that may win the fetcher: not those of a partition in reset (R276). -/
def mayFetch (c : Chip) : List Nat :=
  (List.range 64).filter fun n =>
    (streamAt c n).state == 1 && !(streamAt c n).held && (sget c.resets (streamAt c n).part.toNat).isNone

/-- The order of R205: partitions short of their TURNS first, then PRIO, then round-robin after the last winner. -/
def fetchOrder (c : Chip) (n : Nat) : Nat :=
  let x := streamAt c n
  let won := (sget c.fetcher.won x.part.toNat).getD 0
  let turns := devFld c (rPtn x.part.toNat 4) 0 7
  b1 (decide (turns ≤ won)) * 4096 + (7 - x.prio.toNat) * 64 + (n + 63 - c.fetcher.last) % 64

/-- The winner of an arbitration. -/
def winner (c : Chip) : Option Nat :=
  let l := mayFetch c
  let others := l.filter fun n => (c.fetcher.yielded.map Fin.val) != some n
  (if others.isEmpty then l else others).foldl (fun a n =>
    match a with
    | none => some n
    | some b => if fetchOrder c n < fetchOrder c b then some n else some b) none

/-- The page of a stream's word is on its way from the host: the stream is WAITING for it (R204, R223). -/
def awaitPage (m : Memory) (c : Chip) (st : StreamId) (f : AFault) : Chip :=
  let c := modStream c st.val fun x => { x with wait := .handover }
  toState (kilnFault m c (streamAt c st.val).part f [] [st]) st.val 2 0

/-- A stream's word is fetched: it executes 8 cycles later, or its page faults (R204, R205). -/
def fetchWord (m : Memory) (c : Chip) (st : StreamId) : Chip :=
  let x := streamAt c st.val
  match kilnRead m c x.part x.pc.toNat 256 with
  | .ok (v, c) =>
    let w := BitVec.ofNat 256 v
    let c := { c with fetcher := { c.fetcher with busy := some st, word := w, begun := false, index := 0 } }
    after c 8 (kopEv (wF w 0 8) st)
  | .error f =>
    let c := { c with fetcher := { c.fetcher with busy := some st, word := 0, begun := false, index := 0 } }
    if !f.again then after c 0 (.operatorWordFetchFault st)
    else if isMigration m c 192 x.part.toNat x.pc.toNat then freeFetcher (awaitPage m c st f) st.val
    else kilnFault m (modStream c st.val fun x => { x with held := true }) x.part f [] [st]

/-- The fetcher arbitrates (R205); the turns won are counted afresh in each window of 64 arbitrations. -/
def fireFetch (s : State) : Ans := run (fun m c =>
    let f := { c.fetcher with won := if c.fetcher.count % 64 = 0 then [] else c.fetcher.won }
    match f.busy, winner { c with fetcher := f } with
    | none, some n =>
      let p := (streamAt c n).part.toNat
      let f := { f with
        last := n, count := f.count + 1, won := sput f.won p ((sget f.won p).getD 0 + 1), yielded := none }
      fetchWord m { c with fetcher := f } (Fin.ofNat 64 n)
    | _, _ => c) s

/-- OPERATOR_WORD_FETCH_FAULT (R204): the stream is FAULTED with CODE 0x06. -/
def execOperatorWordFetchFault (st : StreamId) (s : State) : Ans := run (fun _ c =>
    let c := modStream c st.val fun x => { x with held := false }
    let c := if (streamAt c st.val).state = 1 ∨ (streamAt c st.val).state = 2 then toState c st.val 6 0x06 else c
    if c.fetcher.busy = some st then freeFetcher c st.val else c) s

/-! ## Operator words (R207) -/

/-- What a word does to its stream: it ends, and the stream goes on at an address; it faults; the stream waits; or the word
goes on in later cycles. -/
inductive Done where
  | go (pc : W64) (c : Chip)
  | bad (code : Nat) (c : Chip)
  | wait (c : Chip)
  | hold (c : Chip)

/-- A stream that waits under a condition, or goes on at once; it faults when the producer has failed (R207). -/
def waitOn (c : Chip) (n : Nat) (w : StreamWait) : Done :=
  let x := streamAt c n
  let c := modStream c n fun x => { x with wait := w }
  match streamCond c n with
  | .yes => .go (x.pc + 256) (modStream c n fun x => { x with wait := .none })
  | .bad => .bad 0x07 c
  | .no =>
    let c := toState c n 2 0
    match w with
    | .waitev prod cons =>
      if isLocal c prod then .wait c
      else if routed c (chipOf prod) then
        let (id, c) := freshId c
        let q : KilnReq := { w := 24576, part := x.part, name := prod, op := .waitev (Fin.ofNat 64 n) cons, issued := c.cycle }
        .wait (sendKiln { c with kreqs := sput c.kreqs id q } prod x.part (.waitev id (Fin.ofNat 65536 cons.toNat)))
      else .wait c
    | _ => .wait c

/-- The word of a stream executes, if the fetcher holds it: nothing comes of it when the stream is no longer RUNNING, and
CODE 0x02 when a field that it does not use is not zero. `stopped` acts on a word that a drain stops. -/
def wordOf (st : StreamId) (stopped : Chip → Chip) (f : Memory → Chip → Stream → BitVec 256 → Done) : Act := kilnRun fun m c =>
  if c.fetcher.busy ≠ some st then c
  else
    let x := streamAt c st.val
    if x.state ≠ 1 then freeFetcher (stopped c) st.val
    else if !wordOk c.fetcher.word then freeFetcher (toState c st.val 6 0x02) st.val
    else
      match f m c x c.fetcher.word with
      | .go pc c => freeFetcher (modStream c st.val fun x => { x with pc := pc }) st.val
      | .bad code c => freeFetcher (toState c st.val 6 code) st.val
      | .wait c => freeFetcher c st.val
      | .hold c => c

/-- BADKOP (R207). -/
def execBadkop (st : StreamId) (s : State) : Ans := run (kilnRun fun _ c =>
    if c.fetcher.busy ≠ some st then c
    else if (streamAt c st.val).state ≠ 1 then freeFetcher c st.val
    else freeFetcher (toState c st.val 6 0x01) st.val) s

/-- WAITEV (R207). -/
def execWaitev (st : StreamId) (s : State) : Ans := run (wordOf st id fun _ c _ w =>
    waitOn c st.val (.waitev (wProd w) (BitVec.ofNat 16 (wCons w)))) s

/-- FENCE of a stream (R207). -/
def execKopFence (st : StreamId) (s : State) : Ans := run (wordOf st id fun _ c _ _ => waitOn c st.val .fence) s

/-- SIGEV (R207, R214). One of another chip's event ends when its owner has answered, so that a fault finds the stream at the word
(log 42). -/
def execSigev (st : StreamId) (s : State) : Ans := run (wordOf st id fun _ c x w =>
    let prod := wProd w
    if isLocal c prod then
      match signalAt c (evIdx prod) (wCons w) with
      | (true, c) => .go (x.pc + 256) c
      | (false, c) => .bad 0x04 c
    else if routed c (chipOf prod) then
      let (id, c) := freshId c
      let q : KilnReq := { w := 24576, part := x.part, name := prod, op := .sigev st, issued := c.cycle }
      .hold (sendKiln { c with kreqs := sput c.kreqs id q } prod x.part (.sigev id (Fin.ofNat 65536 (wCons w))))
    else .go (x.pc + 256) c) s

/-- JUMP (R207). -/
def execJump (st : StreamId) (s : State) : Ans := run (wordOf st id fun _ c _ w =>
    if (wArg w).toNat % 256 = 0 then .go (wArg w) c else .bad 0x02 c) s

/-- LOOP (R208). -/
def execLoop (st : StreamId) (s : State) : Ans := run (wordOf st id fun _ c x w =>
    if (wArg w).toNat % 256 ≠ 0 then .bad 0x02 c
    else
      let k := wF w 8 2
      let old := fld x.loop.toNat (16 * k) 16
      let l := (if old = 0 then max 1 (wCons w) else old) - 1
      let c := modStream c st.val fun x =>
        { x with loop := BitVec.ofNat 64 (x.loop.toNat - old * 2 ^ (16 * k) + l * 2 ^ (16 * k)) }
      .go (if l = 0 then x.pc + 256 else wArg w) c) s

/-- YIELD (R205, R207). -/
def execYield (st : StreamId) (s : State) : Ans := run (wordOf st id fun _ c x _ =>
    .go (x.pc + 256) { c with fetcher := { c.fetcher with yielded := some st } }) s

/-- HOSTSIG (R207, R272). -/
def execHostsig (st : StreamId) (s : State) : Ans := run (wordOf st id fun _ c x w =>
    if 63 < wCons w then .bad 0x02 c
    else .go (x.pc + 256) (msix (modStream c st.val fun x => { x with host := wArg w }) x.part.toNat (wCons w))) s

/-- END (R203, R207). -/
def execEndStream (st : StreamId) (s : State) : Ans := run (wordOf st id fun _ c x _ =>
    .go (x.pc + 256) (toState c st.val 5 0)) s

/-- The offset that FLAGS[0] adds to event indices (R208). -/
def wordOff (x : Stream) (w : BitVec 256) : Nat := if bit w.toNat 8 then fld x.loop.toNat 0 16 * (wGx w * wGy w) else 0

/-- DROP (R207, R208, R214): the consumer count of each event falls. -/
def execDrop (st : StreamId) (s : State) : Ans := run (wordOf st id fun m c x w =>
    let off := wordOff x w
    let eb := wEb w % 2 ^ 26
    let c := (List.range (wGx w * wGy w)).foldl (fun c i =>
      let name := BitVec.ofNat 26 (eb / 65536 * 65536 + (eb + off + i) % 65536)
      if isLocal c name then dropRefs m c (evIdx name) (wCons w) true
      else sendKiln c name x.part (.fdrop (Fin.ofNat 65536 (wCons w)) true)) c
    .go (x.pc + 256) c) s

/-! ## Commands of the Kiln (R168, R207, R209) -/

/-- A command of a stream enters copy queue 3 of a core; it carries no tag. -/
def kilnCmd (c : Chip) (st : StreamId) (core : CoreId) (words : Vector W64 4) (signal : Option (BitVec 32)) : Chip :=
  let x := streamAt c st.val
  let (id, c) := freshId c
  let d : Cmd := { Cmd.blank with
    core := core.val, queue := 3, part := x.part, kernel := true, released := true, words := words, stream := some st,
    signal := signal }
  let c := { c with cmds := sput c.cmds id d }
  let c := modStream c st.val fun x => { x with copies := x.copies + 1 }
  let c := modCore c core.val fun k => { k with go := k.go.set 3 (k.go[3] ++ [(id, c.cycle)]) }
  after c 0 (.goAccept core 3)

/-- PIN or UNPIN: the operation of R173 on copy queue 3 of a core. -/
def pinWord (st : StreamId) (op : Nat) : Act := wordOf st id fun _ c x w =>
  if h : wGx w < 192 then
    let words : Vector W64 4 := #v[wArg w, BitVec.ofNat 64 (wLen w), 0, BitVec.ofNat 64 (op + 0xFF0)]
    .go (x.pc + 256) (kilnCmd c st ⟨wGx w, h⟩ words none)
  else .bad 0x02 c

/-- PIN (R207). -/
def execPin (st : StreamId) (s : State) : Ans := run (pinWord st 3) s

/-- UNPIN (R207). -/
def execKopUnpin (st : StreamId) (s : State) : Ans := run (pinWord st 4) s

/-- The word in execution waits on a page: the stream keeps the fetcher (R209, R211). -/
def holdWord (m : Memory) (c : Chip) (st : StreamId) (f : AFault) : Done :=
  .hold (kilnFault m (modStream c st.val fun x => { x with held := true }) (streamAt c st.val).part f [] [st])

/-- PREFETCH (R209). -/
def execPrefetch (st : StreamId) (s : State) : Ans := run (wordOf st id fun m c x w =>
    if h : wGx w < 192 then
      match kilnRead m c x.part (wArg w).toNat 256 with
      | .ok (v, c) =>
        let words : Vector W64 4 := Vector.ofFn fun i => BitVec.ofNat 64 (fld v (64 * i.val) 64)
        .go (x.pc + 256) (kilnCmd c st ⟨wGx w, h⟩ words (some (BitVec.ofNat 32 (wEb w))))
      | .error f => if f.again then holdWord m c st f else .bad 0x06 c
    else .bad 0x02 c) s

/-! ## TILE (R211 to R213) -/

/-- The producers that the stencil of a TILE names for tile (x, y). -/
def producers (w : BitVec 256) (off x y : Nat) : List (BitVec 26) :=
  (List.range 25).filterMap fun b =>
    let px := x + b % 5
    let py := y + b / 5
    if bit (wSten w) b && decide (2 ≤ px) && decide (px - 2 < wGx w) && decide (2 ≤ py) && decide (py - 2 < wGy w) then
      let i := ((wProd w).toNat + off + (py - 2) * wGx w + (px - 2)) % 65536
      some (BitVec.ofNat 26 ((wProd w).toNat / 65536 * 65536 + i))
    else none

/-- The checks of R210 and R212 on a TILE that begins: its fault code, if it has one. -/
def tileBad (c : Chip) (x : Stream) (w : BitVec 256) : Option Nat :=
  let n := wGx w * wGy w
  let base := wEb w % 65536 + wordOff x w
  let runs := c.warps.any fun (_, z) =>
    match z.block with
    | some g => gValid c g.val && gWorker c g.val && gTemplate c g.val == wF w 16 16 && z.part == x.part
    | none => false
  let part := x.part.toNat
  if wEb w / 65536 ≠ c.chipNo.toNat then some 0x02
  else if n = 0 then none
  else if 4096 ≤ wF w 16 16 ∨ !tplValid c (wF w 16 16) ∨ !runs then some 0x05
  else if 65536 ≤ base + n - 1 ∨ !inRange c part base ∨ !inRange c part (base + n - 1) then some 0x03
  else none

/-- A TILE stops at an index, which is recorded (R207, R212, R222). -/
def tileStop (c : Chip) (st : StreamId) : Chip :=
  if c.fetcher.begun then
    modStream c st.val fun x => { x with part_way := true, eidx := BitVec.ofNat 32 c.fetcher.index }
  else c

/-- A TILE creates the event of its next index (R212). -/
def tileStep (m : Memory) (c : Chip) (st : StreamId) (x : Stream) (w : BitVec 256) : Done :=
  let i := c.fetcher.index
  let gx := wGx w
  if gx * wGy w ≤ i then .go (x.pc + 256) (modStream c st.val fun x => { x with part_way := false, eidx := 0 })
  else
    let off := wordOff x w
    let j : NewJob :=
      { tpl := BitVec.ofNat 12 (wTpl w), x := BitVec.ofNat 16 (i % gx), y := BitVec.ofNat 16 (i / gx),
        stream := BitVec.ofNat 6 st.val, cons := wCons w, prods := producers w off (i % gx) (i / gx), arg := wArg w,
        part := x.part, parent := none, lin := i }
    match create m c ((wEb w + off + i) % 65536) j with
    | .ok c => .hold (after { c with fetcher := { c.fetcher with index := i + 1 } } 1 (.tile st))
    | .busy => .bad 0x04 (tileStop c st)
    | .fault f => if f.again then holdWord m c st f else .bad 0x06 (tileStop c st)

/-- TILE (R205, R212): one event a cycle, from the index at which an earlier execution stopped. -/
def execTile (st : StreamId) (s : State) : Ans := run (wordOf st (fun c => tileStop c st) fun m c x w =>
    if c.fetcher.begun then tileStep m c st x w
    else
      match tileBad c x w with
      | some code => .bad code c
      | none =>
        let f := c.fetcher
        tileStep m { c with fetcher := { f with begun := true, index := if x.part_way then x.eidx.toNat else 0 } } st x w) s

/-- The Wheel has resolved the page on which a stream waits, or cannot (R142, R204, R209, R211). -/
def fireStreamReplay (st : StreamId) (ok : Bool) (s : State) : Ans := run (kilnRun fun m c =>
    let x := streamAt c st.val
    if x.held then
      let c := modStream c st.val fun x => { x with held := false }
      if c.fetcher.busy ≠ some st then after c 0 .fetch
      else if x.state ≠ 1 then freeFetcher (tileStop c st) st.val
      else if !ok then freeFetcher (toState (tileStop c st) st.val 6 0x06) st.val
      else if c.fetcher.word = 0 then fetchWord m c st
      else after c 0 (kopEv (wF c.fetcher.word 0 8) st)
    else if x.state = 2 ∧ x.wait = .handover then
      if ok then after (toState (modStream c st.val fun x => { x with wait := .none }) st.val 1 0) 0 .fetch
      else toState c st.val 6 0x06
    else c) s

/-! ## Drains and saves (R222, R223) -/

/-- A drain of a stream begins (R222 step 1): it stops fetching, its entries leave their mailboxes, and the warps of its
running jobs read RECLAIM[1]. -/
def startDrain (c : Chip) (v h : Fin 64) : Chip :=
  let x := streamAt c v.val
  if v = h ∨ 3 ≤ x.state.val then c
  else
    let c := modStream (toState c v.val 3 0) v.val fun x => { x with
      drain := some { favour := h, step := 2, since := c.cycle, timedOut := false }, frozen := true, stopping := false }
    let c := if c.fetcher.busy = some v ∧ x.held then
        freeFetcher (modStream (tileStop c v) v.val fun x => { x with held := false }) v.val
      else c
    let mine := c.events.filter fun (_, e) => e.stream.toNat == v.val
    let c := mine.foldl (fun c (i, e) => if e.state = sREADY then unqueue c i else c) c
    let c := mine.foldl (fun c (_, e) =>
      if e.state = sRUNNING then
        (jobWarps c e).foldl (fun c w => kickFwait (modWarp c w fun x => { x with drn := true }) w) c
      else c) c
    let tmo := (dev c rDrainTmo).toNat
    let c := if tmo = 0 then c else after c tmo (.drainTimeout v)
    after c 0 (.drainStepAdvance v)

/-- KLN_PREEMPT (R222, R271): V is drained in favour of H; V = H is logged and nothing else. -/
def execKlnPreempt (v : BitVec 64) (s : State) : Ans := run (kilnRun fun _ c =>
    let a := Fin.ofNat 64 (fld v.toNat 0 6)
    let b := Fin.ofNat 64 (fld v.toNat 8 6)
    if a = b then logOnly c 5 0 (streamAt c a.val).part.toNat else startDrain (setDev c rPreempt (v &&& 0x3F3F)) a b) s

/-- PREEMPT_AUTOMATIC (R222): a READY job has waited KLN_PREWAIT cycles for room. -/
def execPreemptAutomatic (e : Nat) (s : State) : Ans := run (kilnRun fun _ c =>
    let j := eventAt c e
    if preemptDue c j then
      match victim c j with
      | some v => startDrain c (Fin.ofNat 64 v) (Fin.ofNat 64 j.stream.toNat)
      | none => c
    else c) s

/-- Every warp of a block has halted, or is in the hands of the Wheel in kernel mode (R142, R222, R244). -/
def blockHalted (c : Chip) (e : Event) : Bool :=
  (jobWarps c e).all fun w => (warpAt c w).halted || (warpAt c w).kernel || decide ((warpAt c w).wait = .stopped)

/-- A job that the timeout of a drain has halted moves (R216). -/
def endHalted (c : Chip) (i : Nat) (e : Event) : Chip :=
  let c := modEvent c i fun e => { e with info := { e.info with block := none } }
  if e.cmt then endBad c i sFAILED none else makeReady c i

/-- A halt of a block that no fault of its own brings about: its warps stop as a halt broadcast stops them (R222, R244, R276). -/
def haltBlock (c : Chip) (core : Nat) (g : Fin 256) : Chip :=
  (warpsOfBlock c core g).foldl (fun c w => if (warpAt c w).halted then c else haltSoon c w)
    { c with halts := sput c.halts (core * 256 + g.val) false }

/-- The timeout of a drain meets a job that runs: its block is halted, and one that a fault has halted before is discarded (R222,
R252). -/
def timeOut (c : Chip) (i : Nat) (e : Event) : Chip :=
  match e.info.block with
  | none => c
  | some (core, g) =>
    let key := core * 256 + g.val
    match sget c.halts key, decide (core < 192) with
    | some _, true => after (endHalted c i e) 0 (.blkctlDiscard (Fin.ofNat 192 core) g)
    | _, _ =>
      haltBlock c core g

/-- DRAIN_TIMEOUT (R222 step 2): blocks whose jobs have not ended are halted; a KLN_DRAINTMO of 0 gives no timeout (R271). -/
def execDrainTimeout (st : StreamId) (s : State) : Ans := run (fun _ c =>
    match (streamAt c st.val).drain with
    | some d =>
      if d.step = 2 ∧ !d.timedOut ∧ dev c rDrainTmo ≠ 0 ∧ d.since + (dev c rDrainTmo).toNat ≤ c.cycle then
        let c := modStream c st.val fun x => { x with drain := some { d with timedOut := true } }
        let c := c.events.foldl (fun c (i, e) => if e.stream.toNat = st.val ∧ e.state = sRUNNING then timeOut c i e else c) c
        after c 0 (.drainStepAdvance st)
      else c
    | none => c) s

/-- The bytes of a number, low byte first. -/
def natBytes : Nat → Nat → List Byte
  | 0, _ => []
  | n + 1, v => BitVec.ofNat 8 v :: natBytes n (v / 256)

/-- The tag of a 512-bit block of a save area (R278). -/
def saveTag (c : Chip) (x : Stream) (n : Nat) (at_ : Nat) (block : Nat) : Nat :=
  (kmac (Config.saveKey ((sget c.keys x.part.toNat).getD 0))
    (natBytes 64 block ++ natBytes 8 at_ ++ natBytes 1 n ++ natBytes 4 x.scount.toNat)).toNat

/-- The save record of a stream, 2,048 bits (R223). -/
def saveRecord (x : Stream) (n : Nat) : Nat :=
  let (kind, prod, cons) : Nat × Nat × Nat := match x.wait with
    | .none => (0, 0, 0)
    | .waitev p k => (1, p.toNat, k.toNat)
    | .fence => (2, 0, 0)
    | .handover => (3, 0, 0)
  x.pc.toNat + x.loop.toNat * 2 ^ 64
    + ((if x.part_way then x.eidx.toNat else 0) + b1 x.part_way * 2 ^ 32 + kind * 2 ^ 33) * 2 ^ 128
    + (prod + cons * 2 ^ 32) * 2 ^ 192 + x.stamp.toNat * 2 ^ 256
    + (x.scount.toNat + n * 2 ^ 32 + x.prio.toNat * 2 ^ 40 + x.part.toNat * 2 ^ 44) * 2 ^ 320

/-- The save area: the record and its four tags, 3,072 bits (R223). -/
def saveArea (c : Chip) (x : Stream) (n : Nat) : Nat :=
  let r := saveRecord x n
  (List.range 4).foldl (fun v b =>
    v + saveTag c x n (x.save.toNat + 512 * b) (fld r (512 * b) 512) * 2 ^ (2048 + 256 * b)) r

/-- What the Kiln finds in the three 1,024-bit blocks of a save area. -/
def saveFound (m : Memory) (c : Chip) (x : Stream) (acc : Access) : List (Except AFault Found) :=
  (List.range 3).flatMap fun j =>
    findThread m c 192 x.part.toNat true { acc := acc, bytes := false } (Fin.ofNat 32 j) (x.save.toNat + 1024 * j) 1024

/-- The save area lies on a device page of class HBM or LPDDR, without a fault. -/
def saveOk (l : List (Except AFault Found)) : Bool := (faultsOf l).isEmpty && (foundOf l).all fun f => decide (f.x.cls < 2)

/-- An access of the Kiln to a save area: three requests from router (0, 0), one a cycle. -/
def saveOp (m : Memory) (c : Chip) (x : Stream) (kind : OpKind) (l : List (Except AFault Found)) : Chip :=
  let o := deviceOp c kind 0 x.part 7 (fun j => x.save + BitVec.ofNat 64 (1024 * j.val)) 1024 (fun _ => 0) 0
  let (id, c) := openOp c o (gather (foundOf l)) false false fun _ => 0
  let c := { c with reqs := smap (fun _ r => if r.op = id ∧ r.write then { r with pieces := [] } else r) c.reqs }
  sendAll m c id c.cycle

/-- Step 5 of a drain (R222): the mailboxes and the fetcher pass to H. -/
def endDrain (c : Chip) (n : Nat) : Chip := after (modStream c n fun x => { x with drain := none }) 0 .fetch

/-- The record of a stream and its tags are written to its save area, with the stamp of its change to SAVED (R223, log 33). -/
def writeSave (m : Memory) (c : Chip) (n : Nat) : Chip :=
  let c := modStream c n fun x => { x with stamp := c.lastStamp }
  let x := streamAt c n
  let v := saveArea c x n
  (foundOf (saveFound m c x .store)).foldl (fun c f =>
    let p := pieceOf f
    let c := homeWrite m c (homeOf f.x).isL2 f.x.enc x.part.toNat p (fld v (1024 * f.t.val + p.pos) p.width)
    let c := clearPoison c [p]
    if f.x.home < 2 then l2Wrote c p else c) c

/-- Step 4 ends: the stream is SAVED, and its record is written once its stamp has been issued (R223). -/
def saved (m : Memory) (c : Chip) (n : Nat) : Chip :=
  let l := saveFound m c (streamAt c n) .store
  if saveOk l then
    let c := toState (modStream c n fun x => { x with scount := x.scount + 1 }) n 4 0
    endDrain (stampFor c (partCore c (streamAt c n).part.toNat * 128) (.save (Fin.ofNat 64 n))) n
  else endDrain (toState c n 6 0x06) n

/-- The steps of a drain (R222): each begins when the one before has ended. -/
def drainStep (m : Memory) (c : Chip) (n : Nat) (d : Drain) : Chip :=
  if d.step = 2 then
    let c := if d.timedOut then
        c.events.foldl (fun c (i, e) =>
          if e.stream.toNat = n ∧ e.state = sRUNNING ∧ e.info.block ≠ none ∧ blockHalted c e then endHalted c i e else c) c
      else c
    if c.events.any fun (_, e) => e.stream.toNat == n && e.state == sRUNNING then c
    else after (modStream c n fun x => { x with drain := some { d with step := 3 } }) 0 (.drainStepAdvance (Fin.ofNat 64 n))
  else if d.step = 3 then
    if (c.cmds.any fun (_, k) => (k.stream.map Fin.val) == some n) || c.fetcher.busy == some (Fin.ofNat 64 n) then c
    else
      let l := saveFound m c (streamAt c n) .store
      if saveOk l then
        saveOp m (modStream c n fun x => { x with drain := some { d with step := 4 } }) (streamAt c n) (.save (Fin.ofNat 64 n)) l
      else endDrain (toState c n 6 0x06) n
  else if c.ops.any fun (_, o) => o.kind == .save (Fin.ofNat 64 n) then c
  else saved m c n

/-- DRAIN_STEP_ADVANCE (R222). -/
def execDrainStepAdvance (st : StreamId) (s : State) : Ans := run (kilnRun fun m c =>
    match (streamAt c st.val).drain with
    | some d => drainStep m c st.val d
    | none => c) s

/-! ## Restores (R224) -/

/-- STREAM_RESUME (R224): the save area is read. Where it cannot be, the verification that fails follows 8 cycles later, as it follows
the reads (log 33). -/
def execStreamResume (st : StreamId) (s : State) : Ans := run (kilnRun fun m c =>
    let x := streamAt c st.val
    if x.state = 4 then
      let c := modStream c st.val fun x => { x with resuming := true }
      let l := saveFound m c x .load
      if saveOk l then saveOp m c x (.restore st) l else after c 8 (.restoreVerify st)
    else c) s

/-- The record that a restore has read, when every tag verifies and it is the stream's last save (R223, R224, R278). -/
def goodRecord (c : Chip) (x : Stream) (n : Nat) (o : Op) : Option Nat :=
  let v := o.data[0] + o.data[1] * 2 ^ 1024 + o.data[2] * 2 ^ 2048
  let tags := (List.range 4).all fun b =>
    fld v (2048 + 256 * b) 256 == saveTag c x n (x.save.toNat + 512 * b) (fld v (512 * b) 512)
  if o.poison = 0 ∧ tags ∧ fld v (320 + 32) 6 = n ∧ fld v 320 32 = x.scount.toNat then some (fld v 0 2048) else none

/-- A stream whose record names the handover of its word's page looks at the page at once (R223). -/
def lookAtPage (m : Memory) (c : Chip) (st : StreamId) : Chip :=
  let x := streamAt c st.val
  match kilnRead m c x.part x.pc.toNat 256 with
  | .error f => if f.again && isMigration m c 192 x.part.toNat x.pc.toNat then awaitPage m c st f else c
  | .ok _ => c

/-- A stream takes back what its record holds, and looks at the condition that it names (R223, R224). -/
def restored (m : Memory) (c : Chip) (n r : Nat) : Chip :=
  let c := mergeStamp c (BitVec.ofNat 64 (fld r 256 64))
  let exp := bit r (128 + 32)
  let c := modStream c n fun x => { x with
    pc := BitVec.ofNat 64 (fld r 0 64), loop := BitVec.ofNat 64 (fld r 64 64), part_way := exp,
    eidx := BitVec.ofNat 32 (if exp then fld r 128 32 else 0), wait := .none, frozen := false, resuming := false }
  let c := toState c n 1 0
  let kind := fld r (128 + 33) 2
  let w : StreamWait :=
    if kind = 1 then .waitev (BitVec.ofNat 26 (fld r 192 26)) (BitVec.ofNat 16 (fld r (192 + 32) 16))
    else if kind = 2 then .fence else .none
  let c := if kind = 3 then lookAtPage m c (Fin.ofNat 64 n)
    else if w = .none then c
    else
      match waitOn c n w with
      | .go pc c => modStream c n fun x => { x with pc := pc }
      | .bad code c => toState c n 6 code
      | .wait c | .hold c => c
  after c 0 .fetch

/-- RESTORE_VERIFY (R224): the restore takes effect, or the stream is FAULTED with CODE 0x16. -/
def execRestoreVerify (st : StreamId) (s : State) : Ans := run (kilnRun fun m c =>
    let x := streamAt c st.val
    let op := c.ops.find? fun (_, o) => o.kind == .restore st
    let c := match op with
      | some (id, o) => closeOp c id o
      | none => c
    if x.state ≠ 4 then modStream c st.val fun x => { x with resuming := false }
    else
      match op.bind fun p => goodRecord c x st.val p.2 with
      | some r => restored m c st.val r
      | none => toState (modStream c st.val fun x => { x with resuming := false }) st.val 6 0x16) s

/-! ## Register writes of a stream (R202, R203) -/

/-- RUN = 1 (R203, R224); a stream of a partition that is not yet accepted waits for that (R283). -/
def runStream (c : Chip) (st : StreamId) : Chip :=
  let c := modStream c st.val fun x => { x with run := true, stopping := false }
  let x := streamAt c st.val
  if !c.accepted.contains x.part.toNat then c
  else if x.state = 0 ∨ x.state = 5 ∨ x.state = 6 then
    after (modStream (toState c st.val 1 0) st.val fun x => { x with frozen := false }) 0 .fetch
  else if x.state = 4 ∧ !x.resuming then
    after (modStream c st.val fun x => { x with resuming := true }) 0 (.streamResume st)
  else c

/-- STREAM_RUN (R203). -/
def execStreamRun (st : StreamId) (s : State) : Ans := run (kilnRun fun _ c => runStream c st) s

/-- RUN = 0 (R203): at the next boundary the stream is IDLE. -/
def stopStream (c : Chip) (st : StreamId) : Chip :=
  let c := modStream c st.val fun x => { x with run := false }
  let x := streamAt c st.val
  if x.state = 1 ∨ x.state = 2 then
    if c.fetcher.busy = some st then modStream c st.val fun x => { x with stopping := true } else toState c st.val 0 0
  else c

/-- STREAM_STOP (R203). -/
def execStreamStop (st : StreamId) (s : State) : Ans := run (kilnRun fun _ c => stopStream c st) s

/-- A write that R202 allows only while a stream is IDLE, ENDED or FAULTED. -/
def streamWrite (st : StreamId) (ok : Bool) (f : Stream → Stream) : Act := fun _ c =>
  let x := streamAt c st.val
  if ok && (x.state == 0 || x.state == 5 || x.state == 6) then modStream c st.val f else kilnLog c 0x3F x.part.toNat

/-- KLN_SPC_WRITE (R202). -/
def execKlnSpcWrite (st : StreamId) (v : BitVec 64) (s : State) : Ans := run (
    streamWrite st (v.toNat % 256 == 0) fun x => { x with pc := v, part_way := false, eidx := 0 }) s

/-- KLN_SLOOP_WRITE (R202). -/
def execKlnSloopWrite (st : StreamId) (v : BitVec 64) (s : State) : Ans := run (
    streamWrite st true fun x => { x with loop := v }) s

/-- KLN_SSAVE_WRITE (R202). -/
def execKlnSsaveWrite (st : StreamId) (v : BitVec 64) (s : State) : Ans := run (
    streamWrite st (v.toNat % 4096 == 0) fun x => { x with save := v }) s

end Sys2Proof.Machine
end

