-- ==== Sys2Proof/Machine/Engines.lean ====
section
/-!
DEFINITION. Sys2Proof/Machine/Engines.lean: engine queues (R156, R168, R169), the ends of commands (R170, R184, R185), and
the copy engine (R172 to R178).
-/

namespace Sys2Proof.Machine
open Sys2Proof

/-! ## Queues (R156, R168, R169) -/

def modCmd (c : Chip) (id : Nat) (f : Cmd → Cmd) : Chip :=
  match sget c.cmds id with
  | some d => { c with cmds := sput c.cmds id (f d) }
  | none => c

/-- The step that starts a command. -/
def startEv (d : Cmd) (id : Nat) : Ev :=
  let w3 := d.words[3].toNat
  match engOf d.queue with
  | 0 =>
    match fld w3 0 4 with
    | 0 => .copy id
    | 1 => .fill id
    | 2 => .qfence id
    | 3 => .pinl2 id
    | 4 => .unpin id
    | 5 => .bcol id
    | _ => .accout id
  | 1 =>
    match fld d.words[1].toNat 0 2 with
    | 0 => .matrixAcc id
    | 1 => .matrixPlane id
    | _ => .matrixAccClear id
  | 2 => .gather id
  | _ => if fld w3 0 4 = 0 then .nred id else .bcast id

/-- Cycles from acceptance to the start of a command: R178 for copy, R193 for matrix; log 22 for gather and collective. -/
def lead (d : Cmd) : Nat := if engOf d.queue = 0 then 16 else if engOf d.queue = 1 then 24 else 0

/-- The command of a queue that starts next: the first that runs no K steps of a matrix queue, the oldest of another. -/
def nextOf (c : Chip) (core : Nat) (q : Fin 9) : Option (Nat × Cmd) :=
  let l := ((coreAt c core).eng[q.val]).filterMap fun id => (sget c.cmds id).map fun d => (id, d)
  if engOf q = 1 then l.find? fun e => e.2.mx == none && e.2.finished == none else l.head?

/-- The next command of a queue starts at a cycle, or later (R178, R193). -/
def pokeQueue (c : Chip) (core : Nat) (q : Fin 9) (t : Nat) : Chip :=
  match nextOf c core q with
  | some (id, d) =>
    match d.started, d.finished, d.accepted with
    | false, none, some a => schedule c (max t (a + lead d)) (startEv d id)
    | _, _, _ => c
  | none => c

/-- The start of a command, if it may start now: it is next in its queue, its lead has passed and it waits for nothing. -/
def atStart (id : Nat) (f : Cmd → Act) : Act := fun m c =>
  match sget c.cmds id with
  | none => c
  | some d =>
    let due := match d.accepted with
      | some a => decide (a + lead d ≤ c.cycle)
      | none => false
    if !due || d.started || d.waiting || d.finished.isSome || (nextOf c d.core d.queue).map (·.1) != some id then c
    else if !d.released then modCmd c id fun d => { d with waiting := true }
    else f d m c

/-- The faults of a command's accesses: a final one ends it, replayable ones hold it (R142, R177). -/
def cmdFaults (m : Memory) (c : Chip) (id : Nat) (d : Cmd) (l : List AFault) : Option Chip :=
  (worst l).map fun f =>
    if f.again then
      sendFaults m (modCmd c id fun d => { d with waiting := true }) d.core 0 d.part [] [id] [] (l.filter AFault.again)
    else failCmd c id 2 f.code.toNat

/-- The release of a command's GO has taken effect (R157). -/
def fireCmdReleased (id : Nat) (s : State) : Ans := run (fun _ c =>
    match sget c.cmds id with
    | none => c
    | some d =>
      let c := modCmd c id fun d => { d with released := true, waiting := false }
      if d.waiting then after c 0 (startEv d id) else c) s

/-- A command's page has been resolved: it goes on from its start, or where it stood (R142, R177); a matrix command in the next
cycle behind the resolution, as when it is released (R191). -/
def fireCmdStart (id : Nat) (s : State) : Ans := run (fun m c =>
    match sget c.cmds id with
    | some d =>
      if engOf d.queue = 1 then after c 0 (.cmdReleased id)
      else after (modCmd c id fun d => { d with waiting := false }) 0 (startEv d id)
    | none => retrySpawn m c id true) s

/-- A command's page cannot be resolved (R142, R177). -/
def fireCmdFault (id : Nat) (s : State) : Ans := run (fun m c =>
    match sget c.cmds id with
    | some _ => failCmd c id 2 cPAGE.toNat
    | none => retrySpawn m c id false) s

/-! ## Acceptance (R169, R173, R176, R179, R181, R189) -/

/-- The words of a copy command break R172, R173 or R176. W0[7:4] of an ACCOUT, which R172 neither names nor has zero, may hold
anything (log 39). -/
def copyBad (w : Vector W64 4) : Bool :=
  let w3 := w[3].toNat
  let op := fld w3 0 4
  let sf := fld w3 4 4
  let df := fld w3 8 4
  decide (6 < op) || w3 / 2 ^ 16 != 0 || (sf == 15) != (df == 15) || (op == 1 && sf != 15)
    || (op == 2 && (w[0].toNat / 2 ^ 9 != 0 || w[1] != 0 || w[2] != 0)) || ((op == 3 || op == 4) && w[2] != 0)
    || (op == 6 && w[0].toNat / 2 ^ 15 != 0)

/-- The words of a matrix command break R189. -/
def matrixBad (w : Vector W64 4) : Bool :=
  let w1 := w[1].toNat
  let mode := fld w1 0 2
  mode == 3 || decide (7 < fld w1 4 3 + fld w1 7 3) || w1 / 2 ^ 10 != 0 || w[2] != 0 || w[3] != 0
    || (mode == 1 && fld w1 2 2 != 0) || (mode != 1 && fld w1 4 6 != 0)

/-- The words of a gather command break R179. -/
def gatherBad (w : Vector W64 4) : Bool := w[3].toNat / 2 ^ 16 != 0 || fld w[3].toNat 0 2 == 3

/-- The words of a collective command break R181. -/
def collBad (c : Chip) (d : Cmd) : Bool :=
  let w2 := d.words[2].toNat
  let w3 := d.words[3].toNat
  let g := fld w2 0 8
  w2 / 2 ^ 52 != 0 || bit w2 31 || bit w2 23 || fld w2 32 20 == 0 || decide (10 < fld w2 24 7) || w3 / 2 ^ 5 != 0
    || decide (1 < fld w3 0 4) || !isMember c d.w g || decide (gMembers c g < fld w2 8 15)

/-- Fields of a collective command (R181). -/
def coCount (d : Cmd) : Nat := fld d.words[2].toNat 32 20
def coOp (d : Cmd) : Nat := fld d.words[2].toNat 24 7
def coP (d : Cmd) : Nat := fld d.words[2].toNat 8 15
def coGroup (d : Cmd) : Fin 256 := Fin.ofNat 256 (fld d.words[2].toNat 0 8)
def coBcast (d : Cmd) : Bool := fld d.words[3].toNat 0 4 == 1
def coRoot (d : Cmd) : Bool := bit d.words[3].toNat 4

/-- The open instance of a group (R182). -/
def openColl (c : Chip) (g : Fin 256) : Option (Nat × Coll) := c.colls.find? fun (_, k) => k.g == g && !k.closed

/-- The open instance of a command's group; the command opens one, whose time begins, where there is none (R182). -/
def takeColl (c : Chip) (d : Cmd) : Nat × Coll × Chip :=
  match openColl c (coGroup d) with
  | some (key, k) => (key, k, c)
  | none =>
    let (key, c) := freshId c
    let k : Coll := { g := coGroup d, p := coP d, members := [], closed := false, expired := false }
    let tmo := (dev c rCoTimeout).toNat
    let c := { c with colls := sput c.colls key k }
    (key, k, if tmo = 0 then c else after c tmo (.collectiveTimeout key))

/-- A command that ends without its result has left its instance, which is open again, unless its group has opened another since
(R177, R182, R185). -/
def leaveColl (c : Chip) (id : Nat) : Chip :=
  match c.colls.find? fun (_, k) => k.members.contains id with
  | none => c
  | some (key, k) =>
    let other := c.colls.any fun (j, e) => j != key && e.g == k.g && !e.closed
    let k := { k with members := k.members.filter (· != id), closed := k.closed && other }
    let c := { c with colls := sput c.colls key k }
    if k.expired then after c 0 (.collectiveTimeout key) else c

/-- A command's words fail a check at acceptance. -/
def wordsBad (c : Chip) (d : Cmd) : Bool :=
  match engOf d.queue with
  | 0 => copyBad d.words
  | 1 => matrixBad d.words
  | 2 => gatherBad d.words
  | _ => collBad c d

/-- The commands that a QFENCE waits for: those that the named queues hold when it is accepted (R156). -/
def fenceSet (c : Chip) (core id : Nat) (mask : Nat) : List Nat :=
  (List.finRange 9).flatMap fun q =>
    if bit mask q.val then ((coreAt c core).eng[q.val]).filter (· != id) else []

/-- What the acceptance of a command starts: an instance of a collective (R182), the checks of a matrix command, which do not wait
for its place in its queue (R191), and the command itself where it is next. -/
def beginCmd (c : Chip) (id : Nat) (d : Cmd) : Chip :=
  match engOf d.queue with
  | 1 => after c 24 (startEv d id)
  | 3 => pokeQueue (if 2 ≤ coP d then (takeColl c d).2.2 else c) d.core d.queue c.cycle
  | _ => pokeQueue c d.core d.queue c.cycle

/-- A command enters its queue (R169). -/
def acceptCmd (c : Chip) (core : CoreId) (q : Fin 9) (id : Nat) : Chip :=
  match sget c.cmds id with
  | none => c
  | some d =>
    let before := if engOf q = 0 ∧ fld d.words[3].toNat 0 4 = 2 then fenceSet c core.val id d.words[0].toNat else []
    let c := modCmd c id fun d => { d with accepted := some c.cycle, dst := before }
    let c := modCore c core.val fun k => { k with eng := k.eng.set q.val (k.eng[q.val] ++ [id]) }
    let c := pmEvent c core.val 0x37 1
    let c := doneToken (flagDown c d.w d.flag) d.w id
    let c := modWarp c d.w fun x => { x with goPending := false, goFree := c.cycle + 1 }
    if d.finished.isSome then after c 0 (.engineCommandComplete id)
    else if wordsBad c d then failCmd c id 3 0x3F
    else beginCmd c id { d with accepted := some c.cycle }

/-- GO_ACCEPT (R169): the first GO of a queue is accepted when its time has come and the queue has room. -/
def execGoAccept (core : CoreId) (eng : Fin 9) (s : State) : Ans := run (fun _ c =>
    match (coreAt c core.val).go[eng.val] with
    | [] => c
    | (id, t) :: r =>
      if c.cycle < t then c
      else if 16 ≤ ((coreAt c core.val).eng[eng.val]).length then c
      else
        let c := modCore c core.val fun k => { k with go := k.go.set eng.val r }
        let c := acceptCmd c core eng id
        if r = [] then c else after c 0 (.goAccept core eng)) s

/-! ## Ends (R170, R184, R186, R209) -/

/-- What a command without a tag reports to the Kiln (R207, R209). -/
def kilnReport (c : Chip) (d : Cmd) (st : Fin 64) (status : Fin 4) : Chip :=
  let c := modStream c st.val fun x => { x with copies := x.copies - 1 }
  match d.signal, status with
  | some e, 0 =>
    let name := e.setWidth 26
    if isLocal c name then
      match signalAt c (evIdx name) 1 with
      | (true, c) => c
      | (false, c) => kilnLog c 0x3F d.part.toNat
    else sendKiln c name d.part (.evsig 1)
  | none, 0 => c
  | _, _ => kilnLog c d.cause d.part.toNat

/-- A QFENCE of the core no longer waits for a command; one that waits for none ends (R156). -/
def fenceLook (c : Chip) (core id : Nat) : Chip :=
  c.cmds.foldl (fun c (k, d) =>
    if d.core = core ∧ engOf d.queue = 0 ∧ fld d.words[3].toNat 0 4 = 2 ∧ d.finished = none then
      let left := d.dst.filter (· != id)
      let c := modCmd c k fun d => { d with dst := left }
      if d.started ∧ left = [] then
        after (modCmd c k fun d => { d with finished := some 0 }) 0 (.engineCommandComplete k)
      else c
    else c) c

/-- A matrix command cancelled before its first K step leaves the array as it was (R185, R194). One that ends with ERROR in its run
keeps its place in the array's sequence, of which R193 says nothing (log 39). -/
def freeArray (c : Chip) (d : Cmd) : Chip :=
  match d.mx, d.started with
  | some r, false => modCore c d.core fun k => { k with mxC := r.prev.1, mxD1 := r.prev.2.1, mxD2 := r.prev.2.2 }
  | _, _ => c

/-- Both matrix queues of a core look for a command that may start. -/
def pokeArray (c : Chip) (core : Nat) : Chip :=
  let t := max c.cycle (coreAt c core).mxC
  pokeQueue (pokeQueue c core 4 t) core 5 t

/-- A command has ended: it leaves its queue, its tag is complete, and what waited for it goes on. -/
def endCmd (c : Chip) (id : Nat) (d : Cmd) : Chip :=
  let status := d.finished.getD 0
  let c := leaveColl { c with cmds := sdel c.cmds id } id
  let c := modCore c d.core fun k => { k with eng := k.eng.set d.queue.val (k.eng[d.queue.val].filter (· != id)) }
  let c := match d.tag with
    | some t => after (setTag c d.core t (.done status)) 1 (.tagCheck d.core)
    | none => c
  let c := match d.tag, d.stream with
    | none, some st => kilnReport c d st status
    | _, _ => c
  let c := match d.notify, d.job with
    | true, some n => cmdEnded c n d.gen
    | _, _ => c
  let c := match d.stream with
    | some st => drainLook c st.val
    | none => c
  let c := fenceLook (checkRrel c d.core) d.core id
  let c := if engOf d.queue = 1 then pokeArray (freeArray c d) d.core else pokeQueue c d.core d.queue (c.cycle + 1)
  if h : d.core < 192 then after c 0 (.goAccept ⟨d.core, h⟩ d.queue) else c

/-- ENGINE_COMMAND_COMPLETE (R170). -/
def execEngineCommandComplete (id : Nat) (s : State) : Ans := run (kilnRun fun _ c =>
    match sget c.cmds id with
    | none => c
    | some d => endCmd c id d) s

/-! ## The accumulator file (R196) -/

/-- The number of an element. -/
def accKey (unit row col : Nat) : Nat := unit * 16384 + row * 128 + col

/-- The value of an element of the accumulator file that draw n has left undefined (R201; log 4). -/
def freeElem (n key : Nat) : W32 := BitVec.ofNat 32 (Config.freeValue (2 ^ 64 * (n + 1) + key))

/-- An element: where nothing has been written it is +0 since bring-up (R196), or a free value since a reclamation (R201; log 4). -/
def accGet (c : Chip) (core key : Nat) : W32 :=
  let k := coreAt c core
  match sget k.acc key, sget k.accFree (key / 16384) with
  | some v, _ => v
  | none, some n => freeElem n key
  | none, none => 0

def accSet (c : Chip) (core key : Nat) (v : W32) : Chip := modCore c core fun k => { k with acc := sput k.acc key v }

/-- An element written by an instruction of a residency slot; what it replaces is kept for the reads of this cycle (R388). -/
def accPut (c : Chip) (core slot key : Nat) (v : W32) : Chip :=
  let old := accGet c core key
  modCore (accSet c core key v) core fun k =>
    { k with accPast := (slot, key, old) :: (if k.accPastAt = c.cycle then k.accPast else []), accPastAt := c.cycle }

/-- An element as an instruction of a residency slot reads it in this cycle: before the writes of higher WARPs (R388). -/
def accSeen (c : Chip) (core slot key : Nat) : W32 :=
  let k := coreAt c core
  (if k.accPastAt = c.cycle then k.accPast else []).foldl
    (fun v (s, e, old) => if slot < s ∧ e = key then old else v) (accGet c core key)

/-! ## Shapes (R174, R175) -/

/-- The bits of an aligned 1,024-bit block that a list of accesses touches, as a mask. -/
def blockMask (b : Nat) (l : List (Nat × Nat)) : Nat :=
  l.foldl (fun n (a, w) => (runsOf a w).foldl (fun n r =>
    if r.va / 1024 = b then n ||| (2 ^ r.width - 1) * 2 ^ (r.va % 1024) else n) n) 0

/-- The aligned blocks that a list of accesses touches, in the order of the first that touches each. -/
def blocksOf (l : List (Nat × Nat)) : List Nat :=
  ((l.flatMap fun (a, w) => (runsOf a w).map fun r => r.va / 1024)).eraseDups

/-- The runs of ones of a mask of n bits, from bit `i` on: start and width. -/
def onesFrom (mask : Nat) : Nat → Nat → Option Nat → List (Nat × Nat)
  | 0, i, some s => [(s, i - s)]
  | 0, _, none => []
  | n + 1, i, open_ =>
    match bit mask i, open_ with
    | true, some s => onesFrom mask n (i + 1) (some s)
    | true, none => onesFrom mask n (i + 1) (some i)
    | false, some s => (s, i - s) :: onesFrom mask n (i + 1) none
    | false, none => onesFrom mask n (i + 1) none

/-- A count of a shape block. -/
def shN (sh : Nat) (k : Nat) : Nat := fld sh (8 + 20 * k) 20
/-- A stride of a shape block. -/
def shS (sh : Nat) (src : Bool) (k : Nat) : Int := sgn 48 (fld sh ((if src then 96 else 288) + 48 * k) 48)
/-- The element width. -/
def shW (sh : Nat) : Nat := fld sh 0 6 + 1

/-- A shape block without a zero count or a reserved bit set. -/
def shapeOk (sh : Nat) : Bool :=
  (List.range 4).all (fun k => shN sh k != 0) && fld sh 480 32 == 0 && fld sh 88 8 == 0 && fld sh 6 2 == 0

/-- The indices of a linear element. -/
def shIdx (sh l : Nat) (k : Nat) : Nat :=
  match k with
  | 0 => l % shN sh 0
  | 1 => l / shN sh 0 % shN sh 1
  | 2 => l / (shN sh 0 * shN sh 1) % shN sh 2
  | _ => l / (shN sh 0 * shN sh 1 * shN sh 2)

/-- A base moved along the strides, modulo 2^64. -/
def shAddr (sh : Nat) (src : Bool) (base : W64) (l : Nat) : Nat :=
  (base + BitVec.ofInt 64 ((List.range 4).foldl (fun (n : Int) k => n + Int.ofNat (shIdx sh l k) * shS sh src k) 0)).toNat

def shCount (sh : Nat) : Nat := shN sh 0 * shN sh 1 * shN sh 2 * shN sh 3

/-- The operation of a copy command, and whether it converts. -/
def cpOp (d : Cmd) : Nat := fld d.words[3].toNat 0 4
def cpConv (d : Cmd) : Bool := fld d.words[3].toNat 4 4 != 15

/-- The width of an element at its source and at its destination. -/
def cpSrcW (d : Cmd) (sh : Nat) : Nat := if cpOp d = 6 then 32 else shW sh
def cpDstW (d : Cmd) (sh : Nat) : Nat := if cpConv d then codeWidth (fld d.words[3].toNat 8 4) else cpSrcW d sh

/-- Where an element comes from; an accumulator element by its number in its unit. -/
def cpSrc (d : Cmd) (sh l : Nat) : Nat :=
  if cpOp d = 6 then ((fld d.words[0].toNat 8 7 + shIdx sh l 1) * 128 + shIdx sh l 0) * 32
  else shAddr sh true d.words[0] l

/-- Where an element goes (R175, R176). R176 spaces the elements of a BCOL column by i1 x width, and R175 writes elements of the
width of DFMT when converting: the model spaces them by the width that it writes (log 39). -/
def cpDst (d : Cmd) (sh l : Nat) : Nat :=
  if cpOp d = 5 then
    (d.words[1] + BitVec.ofNat 64 (shIdx sh l 0 * 2 ^ 19 + shIdx sh l 1 * cpDstW d sh)).toNat
  else shAddr sh false d.words[1] l

/-- The accesses of a command to its sources and to its destinations, in linear order. -/
def cpReads (d : Cmd) (sh : Nat) : List (Nat × Nat) :=
  if cpOp d = 1 then [] else (List.range (shCount sh)).map fun l => (cpSrc d sh l, cpSrcW d sh)
def cpWrites (d : Cmd) (sh : Nat) : List (Nat × Nat) := (List.range (shCount sh)).map fun l => (cpDst d sh l, cpDstW d sh)

/-- The bits of an access among source blocks that have arrived. -/
def gotBits (src : SMap (Option Nat)) (a w : Nat) : Nat :=
  (runsOf a w).foldl (fun n r =>
    n + fld (((sget src (r.va / 1024)).bind id).getD 0) (r.va % 1024) r.width * 2 ^ r.pos) 0

/-- Every source bit of an access has arrived. -/
def gotAll (src : SMap (Option Nat)) (a w : Nat) : Bool :=
  (runsOf a w).all fun r => ((sget src (r.va / 1024)).bind id).isSome

/-- The value that an element writes (R175, R176). -/
def cpValue (d : Cmd) (sh l : Nat) : Nat :=
  let w3 := d.words[3].toNat
  let x := if cpOp d = 1 then d.words[0].toNat % 2 ^ shW sh else gotBits d.src (cpSrc d sh l) (cpSrcW d sh)
  if cpConv d then (roundCode (fld w3 8 4) rne (bit w3 12) (decodeCode (fld w3 4 4) x)).1 else x

/-- Accesses merged into one block, the later over the earlier: the block's bits. -/
def mergeBlock (b : Nat) (l : List (Nat × Nat × Nat)) : Nat :=
  l.foldl (fun n (a, w, v) => (runsOf a w).foldl (fun n r =>
    if r.va / 1024 = b then
      mixBits n ((2 ^ r.width - 1) * 2 ^ (r.va % 1024)) (fld v r.pos r.width * 2 ^ (r.va % 1024))
    else n) n) 0

/-! ## Requests of a command (R178) -/

/-- What a block of a command's access finds: each run of ones of its mask. The spec does not say whether an engine's translation is
charged under R138: in the model it adds no cycles and fills no TLB (log 39). -/
def findBlock (m : Memory) (c : Chip) (d : Cmd) (acc : Access) (b mask : Nat) : List (Except AFault Found) :=
  (onesFrom mask 1024 0 none).map fun (lo, n) =>
    findRun m c d.core d.part.toNat d.kernel { acc := acc } 0 (b * 1024 + lo) n { va := b * 1024 + lo, pos := lo, width := n }

/-- An operation of a command on one block, opened and not sent. -/
def openBlock (c : Chip) (d : Cmd) (core : Nat) (kind : OpKind) (b : Nat) (found : List Found) (lu nt : Bool) : Nat × Chip :=
  let o := deviceOp c kind core d.part 1 (fun _ => BitVec.ofNat 64 (b * 1024)) 1024 (fun _ => 0) 0
  openOp c { o with kernel := d.kernel } (gather found) lu nt fun _ => 0

/-- The block of an operation of a command. -/
def opBlock (o : Op) : Nat := o.addr[0].toNat / 1024

/-- Reads of blocks sent one a cycle from now on. -/
def sendReads (c : Chip) (id : Nat) (d : Cmd) (core : Nat) (l : List (Nat × List Found)) (lu : Bool) : Chip :=
  (l.foldl (fun (k, c) (b, found) =>
    let (op, c) := openBlock c d core (.cmdRead id b) b found lu false
    (k + 1, after c k (.sendOp op))) (0, c)).2

/-- Writes of blocks opened; each is sent when its data is there. -/
def openWrites (c : Chip) (id : Nat) (d : Cmd) (core : Nat) (l : List (Nat × List Found)) (lu nt : Bool) : Chip :=
  l.foldl (fun c (b, found) =>
    let (op, c) := openBlock c d core (.cmdWrite id) b found lu nt
    modCmd c id fun d => { d with dst := d.dst ++ [op] }) c

/-- A write of a command sent with its data, in the first free cycle from t on. -/
def sendWrite (c : Chip) (id op t v : Nat) : Chip :=
  match sget c.cmds id with
  | none => c
  | some d =>
    let at_ := max t d.nextSend
    let c := { c with ops := match sget c.ops op with
      | some o => sput c.ops op { o with data := o.data.set 0 v }
      | none => c.ops }
    let c := modCmd c id fun d => { d with dst := d.dst.filter (· != op), writes := d.writes + 1, nextSend := at_ + 1 }
    schedule c at_ (.sendOp op)

/-- The destination blocks of a copy command whose source bits have all arrived are written (R178). -/
def copyReady (c : Chip) (id : Nat) (d : Cmd) (sh : Nat) : Chip :=
  let w := cpDstW d sh
  let els := (List.range (shCount sh)).map fun l => (l, cpDst d sh l)
  d.dst.foldl (fun c op =>
    match sget c.ops op with
    | none => c
    | some o =>
      let b := opBlock o
      let mine := els.filter fun (_, a) => (runsOf a w).any fun r => r.va / 1024 == b
      if mine.all fun (l, _) => cpOp d == 1 || gotAll d.src (cpSrc d sh l) (cpSrcW d sh) then
        sendWrite c id op (c.cycle + (if cpConv d then 4 else 0)) (mergeBlock b (mine.map fun (l, a) => (a, w, cpValue d sh l)))
      else c) c

/-! ## The copy commands -/

/-- The shape block of a command, read at its home (R174): the fault it takes, or nothing where it is misaligned. -/
def readShape (m : Memory) (c : Chip) (d : Cmd) : Except (List AFault) (Option Nat × Chip) :=
  let a := d.words[2].toNat
  if a % 32 ≠ 0 then .ok (none, c)
  else
    match deviceRead m c d.core d.part d.kernel a 512 with
    | .error l => .error l
    | .ok (v, c) => .ok (some v, c)

/-- The shape suits the operation (R175, R176). R175 asks a converting COPY for the width of its SFMT; R176 does not say whether an
ACCOUT, whose elements are FP32 whatever WM1, is held to it: the model takes its shape with any WM1 (log 39). -/
def shapeSuits (d : Cmd) (sh : Nat) : Bool :=
  let sf := fld d.words[3].toNat 4 4
  let flat := shN sh 2 == 1 && shN sh 3 == 1 && decide (shN sh 0 ≤ 128)
  shapeOk sh && (cpOp d == 6 || !cpConv d || shW sh == codeWidth sf) && (cpOp d != 5 || flat)
    && (cpOp d != 6 || (flat && decide (fld d.words[0].toNat 8 7 + shN sh 1 ≤ 128) && sf == 14))

/-- A command's blocks with what they find. -/
def findAll (m : Memory) (c : Chip) (d : Cmd) (acc : Access) (l : List (Nat × Nat)) :
    List (Nat × List (Except AFault Found)) :=
  (blocksOf l).map fun b => (b, findBlock m c d acc b (blockMask b l))

/-- An ACCOUT reads 32 elements of one row in each request, which returns 12 cycles after it issues (R178). -/
def sendAccReads (c : Chip) (id : Nat) (d : Cmd) (l : List Nat) : Chip :=
  (l.foldl (fun (k, c) b =>
    let (op, c) := openBlock c d d.core (.cmdRead id b) b [] false false
    let (r, c) := freshId c
    let q : Req :=
      { op := op, pieces := [], block := ⟨.spad d.core, 0⟩, off := 0, grain := 0, home := .sram d.core, enc := false,
        lu := false, nt := false, noAlloc := true, write := false, sent := c.cycle + k, arrive := 0, waiting := false,
        missed := false, route := 0, extra := 0, done := true }
    let c := { c with reqs := sput c.reqs r q, ops := match sget c.ops op with
      | some o => sput c.ops op { o with left := 1 }
      | none => c.ops }
    (k + 1, after c (k + 12) (.engineSourceReply r))) (0, c)).2

/-- A COPY, FILL, BCOL or ACCOUT starts (R174 to R178): nothing is written when a check or a page fails. -/
def copyStart (id : Nat) : Act := atStart id fun d m c =>
  match readShape m c d with
  | .error l => (cmdFaults m c id d l).getD c
  | .ok (none, c) => failCmd c id 2 0x3F
  | .ok (some sh, c) =>
    if !shapeSuits d sh then failCmd c id 2 0x3F
    else
      let reads := cpReads d sh
      let src := if cpOp d = 6 then [] else findAll m c d .load reads
      let dst := findAll m c d .store (cpWrites d sh)
      let all := (src ++ dst).flatMap (·.2)
      match cmdFaults m c id d (faultsOf all) with
      | some c => c
      | none =>
        let clsIs := fun (l : List (Nat × List (Except AFault Found))) (p : Nat → Bool) =>
          (l.flatMap fun e => foundOf e.2).any fun f => p f.x.cls
        if clsIs src (· == 4) || (cpOp d == 5 && clsIs dst (· != 4)) then failCmd c id 2 0x3F
        else
          let w3 := d.words[3].toNat
          let c := modCmd c id fun d => { d with
            started := true, shape := some (BitVec.ofNat 512 sh), src := (blocksOf reads).foldl (fun l b => sput l b none) [],
            dst := [], nextSend := c.cycle }
          let c := openWrites c id d d.core (dst.map fun e => (e.1, foundOf e.2)) (bit w3 14) (bit w3 15)
          let c := if cpOp d = 6 then sendAccReads c id d (blocksOf reads)
            else sendReads c id d d.core (src.map fun e => (e.1, foundOf e.2)) (bit w3 13)
          match cpOp d, sget c.cmds id with
          | 1, some d => copyReady c id d sh
          | _, _ => c

/-- COPY (R175). -/
def execCopy (id : Nat) (s : State) : Ans := run (copyStart id) s

/-- FILL (R176). -/
def execFill (id : Nat) (s : State) : Ans := run (copyStart id) s

/-- BCOL (R176). -/
def execBcol (id : Nat) (s : State) : Ans := run (copyStart id) s

/-- ACCOUT (R176). -/
def execAccout (id : Nat) (s : State) : Ans := run (copyStart id) s

/-- QFENCE (R156): it ends when every command that it waits for has ended. -/
def execQfence (id : Nat) (s : State) : Ans := run (atStart id fun d _ c =>
    let c := modCmd c id fun d => { d with started := true }
    if d.dst = [] then after (modCmd c id fun d => { d with finished := some 0 }) 0 (.engineCommandComplete id) else c) s

/-- The lines of a PINL2 or UNPIN by page, translated. -/
def pinPages (m : Memory) (c : Chip) (d : Cmd) : List (Except AFault Found) :=
  let a := d.words[0].toNat
  let n := d.words[1].toNat
  if n = 0 then []
  else (List.range ((a % 2 ^ 19 + n + 2 ^ 19 - 1) / 2 ^ 19)).map fun k =>
    let lo := if k = 0 then a else (a / 2 ^ 19 + k) * 2 ^ 19
    let hi := min (a + n) ((a / 2 ^ 19 + k + 1) * 2 ^ 19)
    findRun m c d.core d.part.toNat d.kernel { acc := .load } 0 lo (hi - lo) { va := lo % 2 ^ 64, pos := lo - a, width := hi - lo }

/-- The lines that hold the bits of a run. -/
def linesOf (f : Found) : List Nat :=
  (List.range ((f.x.pa.bit % 1024 + f.run.width + 1023) / 1024)).map fun k => lineOf f.x.pa + k

/-- The command has done its work in one step; it ends 8 cycles later. -/
def pinDone (c : Chip) (id : Nat) : Chip := after (modCmd c id fun d => { d with started := true }) 8 (.engineCommandComplete id)

/-- A line that a PINL2 pins is valid in L2; one of HBM that was not leaves its row (R128, R430). That its read takes no time of its
own, meets no slot and no refresh is the model's choice (log 46). -/
def fetchPinned (c : Chip) (line : Nat) : Chip :=
  if l2Has c line 0 1024 then c
  else
    let p := lineAddr line
    l2Fill (match p.space with
      | .hbm => leaveRow c p.bit false
      | _ => c) line 0 1024

/-- PINL2 (R129, R176). -/
def execPinl2 (id : Nat) (s : State) : Ans := run (atStart id fun d m c =>
    let l := pinPages m c d
    match cmdFaults m c id d (faultsOf l) with
    | some c => c
    | none =>
      let found := foundOf l
      let lines := (found.flatMap linesOf).eraseDups
      let new := lines.filter fun n => !c.pinned.contains n
      let fits := (new.map sliceOfLine).eraseDups.all fun s =>
        decide (pinnedIn c s + (new.filter fun n => sliceOfLine n == s).length ≤ pinLimit)
      if lines.any fun n => (List.range 4).any fun k => (sget c.poison (n * 4 + k)).isSome then failCmd c id 2 cPOISON.toNat
      else if (found.all fun f => f.x.home == 1) && fits then
        let c := lines.foldl fetchPinned { c with pinned := new ++ c.pinned }
        pinDone c id
      else failCmd c id 2 0x3F) s

/-- UNPIN (R176). -/
def execUnpin (id : Nat) (s : State) : Ans := run (atStart id fun d m c =>
    let l := pinPages m c d
    match cmdFaults m c id d (faultsOf l) with
    | some c => c
    | none =>
      let lines := (foundOf l).flatMap linesOf
      pinDone { c with pinned := c.pinned.filter fun n => !lines.contains n } id) s

end Sys2Proof.Machine
end

