-- ==== Sys2Proof/Machine/Gather.lean ====
section
/-!
DEFINITION. Sys2Proof/Machine/Gather.lean: the Pug gather engine (R179, R180), the collective engine (R181 to R183), and the
return of an engine's source requests (R178).
-/

namespace Sys2Proof.Machine
open Sys2Proof

/-! ## Gather (R179, R180) -/

/-- Fields of a gather command. -/
def gaIdxW (d : Cmd) : Nat := 16 * 2 ^ fld d.words[3].toNat 0 2
def gaCount (d : Cmd) : Nat := fld d.words[3].toNat 2 7 + 1
def gaWidth (d : Cmd) : Nat := fld d.words[3].toNat 9 6 + 1

/-- The accesses to the index vector. -/
def gaIdxReads (d : Cmd) : List (Nat × Nat) :=
  (List.range (gaCount d)).map fun j => ((d.words[0] + BitVec.ofNat 64 (j * gaIdxW d)).toNat, gaIdxW d)

/-- The address of element j, its index read. -/
def gaAddr (d : Cmd) (j : Nat) : Nat :=
  let w := gaIdxW d
  let x := gotBits d.src (d.words[0] + BitVec.ofNat 64 (j * w)).toNat w
  let i : Int := if bit d.words[3].toNat 15 then sgn w x else Int.ofNat x
  (d.words[2] + BitVec.ofInt 64 (i * Int.ofNat (gaWidth d))).toNat

/-- The accesses to the packed destination. -/
def gaWrites (d : Cmd) : List (Nat × Nat) :=
  (List.range (gaCount d)).map fun j => ((d.words[1] + BitVec.ofNat 64 (j * gaWidth d)).toNat, gaWidth d)

/-- The core of the router at which the Pug stands: that of the slice that holds the line of W2; of the issuing core where
W2 is on no page. -/
def pugCore (m : Memory) (c : Chip) (d : Cmd) : Nat :=
  match translate m c d.core d.part.toNat d.kernel .load d.words[2].toNat with
  | .ok x => 4 * sliceCluster (l2Slice x.cls x.pa.bit)
  | .fault _ _ => d.core

/-- The index vector of a gather is read (R179). The destination stands on SRAM. The reads leave from the router of the Pug, and the
write to W1 is timed from the issuing core: R179 gives no figure for the Pug's reply (log 39). -/
def gatherBegin (id : Nat) (d : Cmd) : Act := fun m c =>
  let idx := findAll m c d .load (gaIdxReads d)
  let dst := findAll m c d .store (gaWrites d)
  match cmdFaults m c id d (faultsOf ((idx ++ dst).flatMap (·.2))) with
  | some c => c
  | none =>
    if (dst.flatMap fun e => foundOf e.2).any fun f => f.x.home != 2 then failCmd c id 2 0x3F
    else
      let c := modCmd c id fun d => { d with
        started := true, src := (blocksOf (gaIdxReads d)).foldl (fun l b => sput l b none) [], dst := [], nextSend := c.cycle }
      let c := openWrites c id d d.core (dst.map fun e => (e.1, foundOf e.2)) false false
      sendReads c id d (pugCore m c d) (idx.map fun e => (e.1, foundOf e.2)) false

/-- The elements are read, their addresses known; `stage` 1 holds those addresses in `src` until their data replaces the
index vector (R180). -/
def gatherElems (id : Nat) (d : Cmd) : Act := fun m c =>
  let reads := (List.range (gaCount d)).map fun j => (gaAddr d j, gaWidth d)
  let src := findAll m c d .load reads
  match cmdFaults m c id d (faultsOf (src.flatMap (·.2))) with
  | some c => c
  | none =>
    if (src.flatMap fun e => foundOf e.2).any fun f => decide (1 < f.x.home) then failCmd c id 2 0x3F
    else
      -- the element addresses go in `shape`-free form: block numbers above 2^60 hold them
      let c := modCmd c id fun d => { d with
        stage := 1,
        src := (List.range (gaCount d)).foldl (fun l j => sput l (2 ^ 60 + j) (some (gaAddr d j)))
          ((blocksOf reads).foldl (fun l b => sput l b none) []) }
      sendReads c id d (pugCore m c d) (src.map fun e => (e.1, foundOf e.2)) false

/-- The packed block of a gather is written (R179). -/
def gatherReply (c : Chip) (id : Nat) (d : Cmd) : Chip :=
  let w := gaWidth d
  let vals := (List.range (gaCount d)).map fun j =>
    ((d.words[1] + BitVec.ofNat 64 (j * w)).toNat, w, gotBits d.src (((sget d.src (2 ^ 60 + j)).bind (·)).getD 0) w)
  d.dst.foldl (fun c op =>
    match sget c.ops op with
    | some o => sendWrite c id op c.cycle (mergeBlock (opBlock o) vals)
    | none => c) c

/-- GATHER (R179, R180): its start, and its going on behind a page that was resolved for its elements. -/
def execGather (id : Nat) (s : State) : Ans := run (fun m c =>
    match sget c.cmds id with
    | some d =>
      if d.started && d.finished.isNone && !d.waiting && d.stage == 0 && d.src.all (fun e => e.2.isSome) then
        gatherElems id d m c
      else atStart id (gatherBegin id) m c
    | none => c) s

/-! ## Collectives (R181 to R183) -/

/-- The accesses to 32-bit elements from a base. -/
def coElems (base : W64) (n : Nat) : List (Nat × Nat) :=
  (List.range n).map fun e => ((base + BitVec.ofNat 64 (32 * e)).toNat, 32)

/-- A contribution is read: every one of an NRED, the ROOT's of a BCAST. -/
def coReads (d : Cmd) : List (Nat × Nat) :=
  if coP d = 0 ∨ (coBcast d ∧ !coRoot d ∧ coP d ≠ 1) then [] else coElems d.words[0] (coCount d)

/-- A result is written; a BCAST of no participant writes nothing. -/
def coWrites (d : Cmd) : List (Nat × Nat) := if coP d = 0 ∧ coBcast d then [] else coElems d.words[1] (coCount d)

/-- One step of a reduction: FADD rounds RNE (R182). -/
def coStep (op : Nat) (a b : W32) : W32 :=
  if op = 8 then
    BitVec.ofNat 32 (finish fp32 rne false (exactAdd rne (decodeFmt fp32 a.toNat) (decodeFmt fp32 b.toNat))).1
  else (redStep op a b).1

/-- Element e of a contribution. -/
def coElem (d : Cmd) (e : Nat) : W32 := BitVec.ofNat 32 (gotBits d.src (d.words[0] + BitVec.ofNat 64 (32 * e)).toNat 32)

/-- Element e of a result: the contributions combined in the order in which they arrived. -/
def coResult (op : Nat) (bcast : Bool) (l : List Cmd) (e : Nat) : W32 :=
  if bcast then ((l.find? coRoot).map fun d => coElem d e).getD 0
  else
    match l with
    | [] => redIdentity op
    | d :: r => r.foldl (fun a d => coStep op a (coElem d e)) (coElem d e)

/-- A participant's result is written; one that writes nothing ends 8 cycles later. -/
def coWrite (c : Chip) (id : Nat) (val : Nat → W32) : Chip :=
  match sget c.cmds id with
  | none => c
  | some d =>
    if d.dst.isEmpty then after c 8 (.engineCommandComplete id)
    else
      let vals := (List.range (coCount d)).map fun e => ((d.words[1] + BitVec.ofNat 64 (32 * e)).toNat, 32, (val e).toNat)
      d.dst.foldl (fun c op =>
        match sget c.ops op with
        | some o => sendWrite c id op c.cycle (mergeBlock (opBlock o) vals)
        | none => c) c

/-- The commands of an instance, in the order in which their contributions have arrived. -/
def coMembers (c : Chip) (k : Coll) : List (Nat × Cmd) := k.members.filterMap fun id => (sget c.cmds id).map fun d => (id, d)

/-- The participants of an instance agree (R182). -/
def coAgree (l : List (Nat × Cmd)) : Bool :=
  match l with
  | [] => true
  | (_, d) :: _ => (l.all fun (_, e) => coBcast e == coBcast d && coCount e == coCount d && coOp e == coOp d && coP e == coP d)
      && (!coBcast d || (l.filter fun e => coRoot e.2).length == 1)

/-- A command has read all that it contributes. -/
def coArrived (d : Cmd) : Bool := d.src.all fun e => e.2.isSome

/-- An instance that is full, with every contribution there, closes (R182). -/
def coClose (c : Chip) (key : Nat) (k : Coll) : Chip :=
  let l := coMembers c k
  if k.closed && decide (k.p ≤ l.length) && l.all fun e => coArrived e.2 then
    let c := { c with colls := sdel c.colls key }
    match l with
    | [] => c
    | (_, d) :: _ =>
      if coAgree l then
        l.foldl (fun c (id, _) => coWrite c id (coResult (coOp d) (coBcast d) (l.map (·.2)))) c
      else l.foldl (fun c (id, _) => failCmd c id 2 0x3F) c
  else c

/-- A command that starts arrives at the open instance of its group (R182, R183; log 22). -/
def coJoin (c : Chip) (id : Nat) (d : Cmd) : Chip :=
  let (key, k, c) := takeColl c d
  let k := { k with members := k.members ++ [id] }
  let k := { k with closed := decide (k.p ≤ k.members.length) }
  coClose { c with colls := sput c.colls key k } key k

/-- A contribution has arrived: it takes its place behind those that arrived before it. -/
def coGot (c : Chip) (id : Nat) (d : Cmd) : Chip :=
  if coP d = 1 then coWrite c id (coElem d)
  else
    match c.colls.find? fun (_, k) => k.members.contains id with
    | none => c
    | some (key, k) =>
      let there := fun (j : Nat) => ((sget c.cmds j).map coArrived).getD false
      let others := k.members.filter (· != id)
      let k := { k with members := others.filter there ++ [id] ++ others.filter fun j => !there j }
      coClose { c with colls := sput c.colls key k } key k

/-- A collective command starts (R182, R183): its contribution is read, and it arrives at its instance. -/
def collStart (id : Nat) : Act := atStart id fun d m c =>
  let src := findAll m c d .load (coReads d)
  let dst := findAll m c d .store (coWrites d)
  match cmdFaults m c id d (faultsOf ((src ++ dst).flatMap (·.2))) with
  | some c => c
  | none =>
    let c := modCmd c id fun d => { d with
      started := true, src := (blocksOf (coReads d)).foldl (fun l b => sput l b none) [], dst := [], nextSend := c.cycle }
    let c := openWrites c id d d.core (dst.map fun e => (e.1, foundOf e.2)) false false
    let c := sendReads c id d d.core (src.map fun e => (e.1, foundOf e.2)) false
    if coP d = 0 then
      if coBcast d then after c 0 (.engineCommandComplete id) else coWrite c id fun _ => redIdentity (coOp d)
    else if coP d = 1 then c
    else
      match sget c.cmds id with
      | some d => coJoin c id d
      | none => c

/-- NRED (R182). -/
def execNred (id : Nat) (s : State) : Ans := run (collStart id) s

/-- BCAST (R182). -/
def execBcast (id : Nat) (s : State) : Ans := run (collStart id) s

/-- COLLECTIVE_TIMEOUT (R182): an instance that has not filled ends, and no result changes; one whose contributions are still on
their way ends then if one of them fails. -/
def execCollectiveTimeout (id : Nat) (s : State) : Ans := run (fun _ c =>
    match sget c.colls id with
    | none => c
    | some k =>
      if k.closed && decide (k.p ≤ k.members.length) then { c with colls := sput c.colls id { k with expired := true } }
      else k.members.foldl (fun c id => failCmd c id 2 0x3F) { c with colls := sdel c.colls id }) s

/-! ## Source replies (R178) -/

/-- The 32 elements of an accumulator row that a request reads. -/
def accGroup (c : Chip) (d : Cmd) (b : Nat) : Nat :=
  let w0 := d.words[0].toNat
  let unit := fld w0 0 3 + (if bit w0 3 then 4 else 0)
  (List.range 32).foldl (fun n k => n + (accGet c d.core (unit * 16384 + b * 32 + k)).toNat * 2 ^ (32 * k)) 0

/-- A source block has arrived. -/
def blockGot (m : Memory) (c : Chip) (id b v : Nat) : Chip :=
  let c := modCmd c id fun d => { d with src := sput d.src b (some v) }
  match sget c.cmds id with
  | none => c
  | some d =>
    match engOf d.queue with
    | 0 =>
      match d.shape with
      | some sh => copyReady c id d sh.toNat
      | none => c
    | 2 =>
      if d.src.all fun e => e.2.isSome then
        if d.stage = 0 then gatherElems id d m c else gatherReply c id d
      else c
    | _ => if coArrived d then coGot c id d else c

/-- ENGINE_SOURCE_REPLY (R178): a source block returns; a poisoned one, or one whose owner is gone, ends the command (R115,
R177). -/
def execEngineSourceReply (id : Nat) (s : State) : Ans := run (fun m c =>
    let c := takeEffect m c id
    match sget c.reqs id with
    | none => c
    | some r =>
      let c := if r.missed then l2Fill c (lineOf r.block) r.off r.grain else c
      let (_, c) := closeReq c id r
      match sget c.ops r.op with
      | none => c
      | some o =>
        let c := { c with ops := sdel c.ops r.op }
        match o.kind with
        | .cmdRead k b =>
          match sget c.cmds k with
          | none => c
          | some d =>
            if d.finished.isSome then c
            else if o.poison ≠ 0 then failCmd c k 2 cPOISON.toNat
            else if o.gone ≠ 0 then failCmd c k 2 cPEERGONE.toNat
            else blockGot m c k b (if engOf d.queue = 0 ∧ cpOp d = 6 then accGroup c d b else o.data[0])
        | _ => c) s

end Sys2Proof.Machine
end

