-- ==== Sys2Proof/Machine/Matrix.lean ====
section
/-!
DEFINITION. Sys2Proof/Machine/Matrix.lean: the matrix engine (R187 to R195) with its block sums (R104), and the instructions
that reach the accumulator file (R196 to R200, R388).
-/

namespace Sys2Proof.Machine
open Sys2Proof

/-! ## The parameter block (R188, R190) -/

def pbAbase (sh : Nat) : Nat := fld sh 0 64
def pbAstr (sh : Nat) : Nat := fld sh 64 32
def pbAfmt (sh : Nat) : Nat := fld sh 96 4
def pbBfmt (sh : Nat) : Nat := fld sh 100 4
def pbKB (sh : Nat) : Nat := 16 * 2 ^ fld sh 104 2
def pbM (sh : Nat) : Nat := fld sh 112 7 + 1
def pbN (sh : Nat) : Nat := fld sh 120 7 + 1
def pbK (sh : Nat) : Nat := fld sh 128 16
def pbBoff (sh : Nat) : Nat := fld sh 144 19

/-- The width of an element of A, and of B. -/
def pbWa (sh : Nat) : Nat := codeWidth (pbAfmt sh)
def pbWb (sh : Nat) : Nat := codeWidth (pbBfmt sh)

/-- BF16 or FP16. -/
def is16 (f : Nat) : Bool := f == 12 || f == 13

/-- The formats that B may have beside an A of 8 bits or fewer. -/
def smallB : List Nat := [6, 7, 2, 9, 4, 5, 3, 1, 0, 8]

/-- A pair of the first table of R188. -/
def pairOk (a b : Nat) : Bool :=
  if is16 a then is16 b || smallB.contains b else [6, 7, 2, 3, 4, 5, 1].contains a && smallB.contains b

/-- The rate class of a pair: 0 for 16-bit, 1 for narrow, 2 for 8-bit. -/
def rateOf (sh : Nat) : Nat :=
  if is16 (pbAfmt sh) || is16 (pbBfmt sh) then 0 else if [3, 4, 5, 1, 0, 8].contains (pbBfmt sh) then 1 else 2

/-- Cycles per K-block. -/
def pbP (sh : Nat) : Nat := if rateOf sh = 0 then 2 * pbKB sh else if rateOf sh = 1 then pbKB sh / 2 else pbKB sh

/-- The cycle of a K step counted from its block's compute start (R195). -/
def stepAt (sh kk : Nat) : Nat := if rateOf sh = 0 then 2 * kk else if rateOf sh = 1 then kk / 2 else kk

def pbBlocks (sh : Nat) : Nat := pbK sh / pbKB sh

/-- Fields of W1 (R189). -/
def mxMode (d : Cmd) : Nat := fld d.words[1].toNat 0 2
def mxTile (d : Cmd) : Nat := fld d.words[1].toNat 2 2
def mxPlane (d : Cmd) : Nat := fld d.words[1].toNat 4 3
def mxNpl (d : Cmd) : Nat := fld d.words[1].toNat 7 3

/-- The checks of R191 on the parameter block alone. -/
def paramOk (d : Cmd) (sh : Nat) : Bool :=
  fld sh 106 6 == 0 && !bit sh 119 && !bit sh 127 && sh / 2 ^ 163 == 0 && fld sh 104 2 != 3 && pairOk (pbAfmt sh) (pbBfmt sh)
    && pbK sh != 0 && pbK sh % pbKB sh == 0 && (mxMode d != 1 || pbK sh == (mxNpl d + 1) * pbKB sh) && pbAbase sh % 256 == 0
    && (pbM sh == 1 || (pbAstr sh % 256 == 0 && pbAstr sh / 256 % 4 != 0 && decide (pbK sh * pbWa sh ≤ pbAstr sh)))
    && decide (pbBoff sh + pbK sh * pbWb sh ≤ 2 ^ 19)

/-- The accesses to A, a row each. -/
def pbRows (sh : Nat) : List (Nat × Nat) :=
  (List.range (pbM sh)).map fun i => ((pbAbase sh + i * pbAstr sh) % 2 ^ 64, pbK sh * pbWa sh)

/-! ## Block sums (R104) -/

/-- The products of a block as exact numbers. -/
def products (fa fb : Nat) (l : List (Nat × Nat)) : List Num := l.map fun (a, b) => (exactMul (decodeCode fa a) (decodeCode fb b)).1

/-- The exponent of a nonzero finite number: floor(log2 abs(x)). -/
def Num.top (x : Num) : Option Int :=
  match x with
  | .fin _ m e _ => if m = 0 then none else some (e + Int.ofNat m.log2)
  | _ => none

/-- A number in units of 2^q, truncated toward zero. -/
def Num.chop (x : Num) (q : Int) : Int :=
  match x with
  | .fin n m e _ =>
    let v := Int.ofNat (if q ≤ e then m * pow2 (e - q) else m / pow2 (q - e))
    if n then -v else v
  | _ => 0

/-- The largest of a list. -/
def maxInt : List Int → Option Int
  | [] => none
  | a :: r => some ((maxInt r).elim a fun b => max a b)

/-- The sum of one K-block of one cell: the products' exact sum, or that of the truncated products, rounded once. -/
def blockSum (fa fb : Nat) (l : List (Nat × Nat)) : W32 :=
  if fa ≤ 2 ∧ fb ≤ 2 then
    BitVec.ofInt 32 (l.foldl (fun (n : Int) (a, b) => n + sgn (codeWidth fa) a * sgn (codeWidth fb) b) 0)
  else
    let ps := products fa fb l
    let pos := ps.any fun p => match p with
      | .inf n => !n
      | _ => false
    let neg := ps.any fun p => match p with
      | .inf n => n
      | _ => false
    if ps.any Num.isNan || (pos && neg) then 0x7FC00000
    else if pos then 0x7F800000
    else if neg then 0xFF800000
    else
      let q : Int := if is16 fa || is16 fb then ((maxInt (ps.filterMap Num.top)).getD 0) - 49
        else (ps.map Num.lsb).foldl min 0
      let v := ps.foldl (fun (n : Int) p => n + p.chop q) 0
      let x : Num := if v = 0 then .fin (ps.all fun p => p.isZero && p.isNeg) 0 0 false else .fin (decide (v < 0)) v.natAbs q false
      BitVec.ofNat 32 (roundFmt fp32 rne false x).1

/-- A block's sum added to an accumulator (R104, R192). -/
def accAdd (sh : Nat) (acc s : W32) : W32 :=
  if pbAfmt sh ≤ 2 ∧ pbBfmt sh ≤ 2 then acc + s
  else BitVec.ofNat 32 (finish fp32 rne false (exactAdd rne (decodeFmt fp32 acc.toNat) (decodeFmt fp32 s.toNat))).1

/-! ## The schedule (R193 to R195) -/

/-- Compute start and drain start of `n` blocks, from the earliest start of the first and the array's C and Dends. -/
def schedBlocks (p : Nat) : Nat → Nat → Nat → Nat → Nat → List (Nat × Nat)
  | 0, _, _, _, _ => []
  | n + 1, first, cEnd, d1, d2 =>
    let x := max first (max cEnd d2)
    let dst := max (x + p) d1
    (x, dst) :: schedBlocks p n 0 (x + p) (dst + 32) d1

/-- The compute start of a block. -/
def blockX (bs : List (Nat × Nat)) (b : Nat) : Nat := ((bs.drop b).head?.map (·.1)).getD 0

/-- The last cycle of the last K step that uses chunk k of a row; a K step of the 16-bit class takes two. -/
def lastUse (sh : Nat) (bs : List (Nat × Nat)) (k : Nat) : Nat :=
  let e := min (pbK sh - 1) ((256 * (k + 1) - 1) / pbWa sh)
  blockX bs (e / pbKB sh) + stepAt sh (e % pbKB sh) + (if rateOf sh = 0 then 1 else 0)

/-- The first cycle from t on that is a slot-1 cycle (R124). -/
def slot1 (t : Nat) : Nat := t + (5 - t % 4) % 4

/-- The reads of A in order (R195): cycle, row, chunk and the chunk's address. `used` are the banks that have served the
command in the frame of the last read. -/
def planReads (sh : Nat) (bs : List (Nat × Nat)) : List (Nat × Nat) → Nat → List Nat → List (Nat × Nat × Nat × Nat)
  | [], _, _ => []
  | (k, i) :: r, t, used =>
    let va := (pbAbase sh + i * pbAstr sh + 256 * k) % 2 ^ 64
    let bank := fld va 8 6
    let t1 := slot1 (if 2 ≤ k then max t (lastUse sh bs (k - 2) + 1) else t)
    let used := if t1 / 4 = t / 4 then used else []
    let t2 := if used.contains bank then t1 + 4 else t1
    (t2, i, k, va) :: planReads sh bs r t2 (if t2 = t1 then bank :: used else [bank])

/-- The chunks of A, c ascending and then i. -/
def chunks (sh : Nat) : List (Nat × Nat) :=
  (List.range ((pbK sh * pbWa sh + 255) / 256)).flatMap fun k => (List.range (pbM sh)).map fun i => (k, i)

/-- The command that the array runs next of those of both queues that can start in this cycle (R193). -/
def arrayWinner (c : Chip) (core : Nat) : Option Nat :=
  let ready := ([4, 5] : List (Fin 9)).filterMap fun q =>
    match nextOf c core q with
    | some (id, d) =>
      match d.accepted with
      | some a => if a + lead d ≤ c.cycle && d.released && !d.waiting then some (a, id) else none
      | none => none
    | none => none
  match ready with
  | [(a, i), (b, j)] => some (if b < a then j else i)
  | [(_, i)] => some i
  | _ => none

/-- The command starts: its blocks take their places in the array's sequence (R194). It reads A from S - 16 on (R195), also where
the release of its GO comes later than that (R157): the spec does not say how the two agree (log 39). -/
def arrayStart (c : Chip) (id : Nat) (d : Cmd) (sh : Nat) : Chip :=
  let k := coreAt c d.core
  let bs := schedBlocks (pbP sh) (pbBlocks sh) c.cycle k.mxC k.mxD1 k.mxD2
  let dends := (bs.map fun b => b.2 + 32).reverse ++ [k.mxD1, k.mxD2]
  let r : MxRun :=
    { blocks := bs, plan := planReads sh bs (chunks sh) (c.cycle - 16) [], a := List.replicate (pbM sh) 0,
      b := List.replicate (pbN sh) 0, sums := [], prev := (k.mxC, k.mxD1, k.mxD2) }
  let c := modCmd c id fun d => { d with mx := some r }
  let c := modCore c d.core fun k =>
    { k with mxC := blockX bs (bs.length - 1) + pbP sh, mxD1 := dends.headD 0, mxD2 := (dends.drop 1).headD 0 }
  after c 0 (.matrixBlockStep id)

/-- A page that is not the issuing core's own scratchpad (R190, R191). -/
def notOwn (d : Cmd) (l : List Found) : Bool := l.any fun f => f.x.cls != 5 || f.x.hcore != d.core || f.x.home != 2

/-- The parameter block of a matrix command, read at its home in its own core's scratchpad (R190): the faults it takes,
nothing where it is misplaced. -/
def readParams (m : Memory) (c : Chip) (d : Cmd) : Except (List AFault) (Option Nat × Chip) :=
  let a := d.words[0].toNat
  if a % 512 ≠ 0 then .ok (none, c)
  else
    let l := findThread m c d.core d.part.toNat d.kernel { acc := .load } 0 a 512
    if (faultsOf l).isEmpty && notOwn d (foundOf l) then .ok (none, c)
    else
      match deviceRead m c d.core d.part d.kernel a 512 with
      | .error l => .error l
      | .ok (v, c) => .ok (some v, c)

/-- The pages of A, each by the first bit of A that it holds. -/
def pagesOfA (sh : Nat) : List Nat :=
  ((pbRows sh).flatMap fun (a, w) =>
    (List.range ((a % 2 ^ 19 + w + 2 ^ 19 - 1) / 2 ^ 19)).map fun k =>
      (if k = 0 then a else (a / 2 ^ 19 + k) * 2 ^ 19) % 2 ^ 64).foldl
    (fun l a => if l.any fun b => b / 2 ^ 19 == a / 2 ^ 19 then l else l ++ [a]) []

/-- What the pages of A find. -/
def findRows (m : Memory) (c : Chip) (d : Cmd) (sh : Nat) : List (Except AFault Found) :=
  (pagesOfA sh).map fun a =>
    findRun m c d.core d.part.toNat d.kernel { acc := .load } 0 a 1 { va := a, pos := 0, width := 1 }

/-- A command that is to end REJECTED at its start (R188, R191). -/
def rejectLater (c : Chip) (id : Nat) : Chip := modCmd c id fun d => { d with stage := 1 }

/-- The parameter block is read and A translated, 24 cycles after acceptance whatever the command's place in its queue, or when what
has held the command since is over (R191; log 21). -/
def matrixCheck (id : Nat) (d : Cmd) : Act := fun m c =>
  match readParams m c d with
  | .error l => (cmdFaults m c id d l).getD c
  | .ok (none, c) => rejectLater c id
  | .ok (some sh, c) =>
    if !paramOk d sh then rejectLater c id
    else
      let l := findRows m c d sh
      match cmdFaults m c id d (faultsOf l) with
      | some c => c
      | none =>
        if notOwn d (foundOf l) then rejectLater c id
        else
          let pages := (foundOf l).foldl (fun s f =>
            sput s (f.run.va / 2 ^ 19) { f.x.pa with bit := f.x.pa.bit - f.run.va % 2 ^ 19 }) []
          modCmd c id fun d => { d with shape := some (BitVec.ofNat 512 sh), pages := pages }

/-- A matrix command whose checks have been made starts when the array is free and no other goes before it: it runs, or it ends
REJECTED (R191, R193). -/
def mxTurn (c : Chip) (id : Nat) : Chip :=
  match sget c.cmds id with
  | none => c
  | some d =>
    let free := (coreAt c d.core).mxC
    if d.finished.isSome then c
    else if d.waiting then pokeArray c d.core
    else if c.cycle < free then schedule c free (startEv d id)
    else if arrayWinner c d.core ≠ some id then c
    else
      match d.shape with
      | some sh => pokeArray (arrayStart c id d sh.toNat) d.core
      | none => failCmd c id 3 0x3F

/-- A matrix command from the cycle on at which it may start: its checks, and its turn at the array (R191, R193). -/
def matrixStart (id : Nat) : Act := fun m c =>
  match sget c.cmds id with
  | none => c
  | some d =>
    let due := match d.accepted with
      | some a => decide (a + lead d ≤ c.cycle)
      | none => false
    if !due || d.mx.isSome || d.waiting || d.finished.isSome then c
    else if !d.released then modCmd c id fun d => { d with waiting := true }
    else mxTurn (if d.shape.isSome || d.stage == 1 then c else matrixCheck id d m c) id

/-- MATRIX_ACC (R191 to R195). -/
def execMatrixAcc (id : Nat) (s : State) : Ans := run (matrixStart id) s

/-- MATRIX_PLANE (R191 to R195). -/
def execMatrixPlane (id : Nat) (s : State) : Ans := run (matrixStart id) s

/-- MATRIX_ACC_CLEAR (R191 to R195). -/
def execMatrixAccClear (id : Nat) (s : State) : Ans := run (matrixStart id) s

/-! ## The block steps (R104, R187, R192, R194, R195) -/

/-- A read of the core's own SRAM by the array, as it stood before the stores performed in cycle t or later (R158, R195): its
bits, or the fault that ends the command. -/
def arrayRead (m : Memory) (core t : Nat) (pa : PAddr) (n : Nat) (c : Chip) : Except (BitVec 6) (Nat × Chip) :=
  let p : Piece := { t := 0, pos := 0, pa := pa, width := n }
  if sramGone c core then .error cPEERGONE
  else if !(badSectors c p).isEmpty then .error cPOISON
  else .ok (blur c p (sramAt m c t p))

/-- A value put into a list under a bitwise or. -/
def orAt (l : List Nat) (i v : Nat) : List Nat := l.mapIdx fun j x => if j = i then x ||| v else x

/-- Reads of the array one after another, each with what it does with its bits; the first fault ends them. -/
def arrayReads (m : Memory) (core : Nat) : List (Nat × PAddr × Nat × (Nat → MxRun → MxRun)) → MxRun → Chip →
    Except (BitVec 6) (MxRun × Chip)
  | [], r, c => .ok (r, c)
  | (t, pa, n, put) :: l, r, c =>
    match arrayRead m core t pa n c with
    | .error e => .error e
    | .ok (v, c) => arrayReads m core l (put v r) c

/-- Where a chunk of A lies, by the pages that the check has translated (R191). -/
def placeOfA (d : Cmd) (va : Nat) : PAddr :=
  let p := (sget d.pages (va / 2 ^ 19)).getD ⟨.spad d.core, 0⟩
  { p with bit := p.bit + va % 2 ^ 19 }

/-- The reads of A that are due, each at its own cycle (R195). -/
def readA (m : Memory) (c : Chip) (d : Cmd) (r : MxRun) : Except (BitVec 6) (MxRun × Chip) :=
  arrayReads m d.core
    ((r.plan.filter fun e => decide (e.1 ≤ c.cycle)).map fun (t, i, k, va) =>
      (t, placeOfA d va, 256, fun v r => { r with a := orAt r.a i (v * 2 ^ (256 * k)) }))
    { r with plan := r.plan.filter fun e => !decide (e.1 ≤ c.cycle) } c

/-- The K steps of a block whose B elements are read in this cycle. -/
def stepsAt (sh x t : Nat) : List Nat := (List.range (pbKB sh)).filter fun kk => x + stepAt sh kk == t

/-- The B elements of block b read in this cycle. -/
def readB (m : Memory) (c : Chip) (d : Cmd) (sh b x : Nat) (r : MxRun) : Except (BitVec 6) (MxRun × Chip) :=
  arrayReads m d.core
    ((stepsAt sh x c.cycle).flatMap fun kk => (List.range (pbN sh)).map fun j =>
      (c.cycle, ⟨.bsram d.core, j * 2 ^ 19 + pbBoff sh + (b * pbKB sh + kk) * pbWb sh⟩, pbWb sh,
        fun v r => { r with b := orAt r.b j (v * 2 ^ (kk * pbWb sh)) }))
    r c

/-- The sums of a block, row by row, from A and the columns of B that its K steps have read. -/
def sumsOf (sh b : Nat) (r : MxRun) : List W32 :=
  let wa := pbWa sh
  let wb := pbWb sh
  r.a.flatMap fun row => r.b.map fun col =>
    blockSum (pbAfmt sh) (pbBfmt sh) ((List.range (pbKB sh)).map fun kk =>
      (fld row ((b * pbKB sh + kk) * wa) wa, fld col (kk * wb) wb))

/-- A drain's writes in this cycle: four rows of a block (R192, R194). What a command of a reclaimed job writes is undefined (R201). -/
def drainRows (c : Chip) (d : Cmd) (sh b n : Nat) (sums : List W32) : Chip :=
  let draw := c.free
  let put := fun (c : Chip) (key : Nat) (v : W32) => accSet c d.core key (if d.dead then freeElem draw key else v)
  (List.range 4).foldl (fun c q =>
    let i := 4 * n + q
    if pbM sh ≤ i then c
    else (List.range (pbN sh)).foldl (fun c j =>
      let s := (sums.drop (i * pbN sh + j)).headD 0
      if mxMode d = 1 then put c (accKey (4 + mxPlane d + b) i j) s
      else
        let key := accKey (mxTile d) i j
        let old := if mxMode d = 2 ∧ b = 0 then 0 else accGet c d.core key
        put c key (accAdd sh old s)) c) (if d.dead then { c with free := draw + 1 } else c)

/-- One cycle of block b of a running command. -/
def blockCycle (m : Memory) (sh b x dst : Nat) (id : Nat) (c : Chip) : Chip :=
  let t := c.cycle
  let p := pbP sh
  match sget c.cmds id with
  | none => c
  | some d =>
    match d.mx, d.finished with
    | some r, none =>
      let r := if t = x + p then { r with sums := sput r.sums b (sumsOf sh b r), b := r.b.map fun _ => 0 } else r
      match (if x ≤ t ∧ t < x + p then readB m c d sh b x r else .ok (r, c)) with
      | .error e => failCmd c id 2 e.toNat
      | .ok (r, c) =>
        let c := modCmd c id fun d => { d with mx := some r, started := d.started || decide (x ≤ t) }
        let c := if x ≤ t ∧ t < x + p then pmEvent c d.core 0x35 (stepsAt sh x t).length else c
        if dst ≤ t ∧ t < dst + 32 then drainRows c d sh b (t - dst) ((sget r.sums b).getD []) else c
    | _, _ => c

/-- MATRIX_BLOCK_STEP (R104, R187, R192, R194, R195): one cycle of the command that the array runs, and its end. -/
def execMatrixBlockStep (id : Nat) (s : State) : Ans := run (fun m c =>
    match sget c.cmds id with
    | none => c
    | some d =>
      match d.mx, d.shape, d.finished with
      | some r, some shape, none =>
        let sh := shape.toNat
        match readA m c d r with
        | .error e => failCmd c id 2 e.toNat
        | .ok (r, c) =>
          let c := modCmd c id fun d => { d with mx := some r }
          let c := (r.blocks.zipIdx).foldl (fun c (e, b) => blockCycle m sh b e.1 e.2 id c) c
          let last := (r.blocks.map fun e => e.2 + 32).foldl max 0
          if ((sget c.cmds id).bind Cmd.finished).isSome then c
          else if last ≤ c.cycle then after (modCmd c id fun d => { d with finished := some 0 }) 8 (.engineCommandComplete id)
          else after c 1 (.matrixBlockStep id)
      | _, _, _ => c) s

/-! ## Accumulator-file instructions (R196 to R200, R388) -/

/-- An accumulator-file instruction names a tile or plane that its block holds, or raises PROT with its number (R197). -/
def onAcc (plane : Bool) (n : Nat) (f : Act) : Act := fun m c =>
  let w := c.cur.w
  let x := warpAt c w
  let held := if plane then holdsPlane c (coreOf w) x.block n else holdsTile c (coreOf w) x.block n
  if held then f m c else raise c cPROT (entryMask c) (BitVec.ofNat 64 n)

/-- The first cycle in which every accumulator write of the warp that is on its way has been performed (R197). -/
def accFree (x : Warp) : Nat :=
  (List.range 12).foldl (fun n u => match sget x.ready (codeAcc u) with
    | some (some t) => max n t
    | _ => n) 0

/-- A count of the body's flag until a cycle. -/
def countUntil (c : Chip) (k : Counts) (t : Nat) : Chip :=
  let w := c.cur.w
  match bodyFlag c k with
  | none => c
  | some f =>
    let (tok, c) := freshId c
    schedule (flagUp c w (some f)) t (.staged w (some f) tok)

/-- ACCRD and PLNRD (R198). -/
def rowRead (i : Instr) (plane : Bool) (n : Nat) (d : VReg) (row : Fin 128) : Act := withPfx none fun m c =>
  if exceeds (warpAt c c.cur.w) (usesOf i none).dst then raise c cRFULL (entryMask c)
  else onAcc plane n (fun m c =>
    let core := coreOf c.cur.w
    let o := occupancy .lanes 1 (entryMask c)
    let unit := if plane then 4 + n else n
    alu { allow := none, lat := 12 } (usesOf i none) (fun z =>
      { v := (List.range 4).map fun q => (d.val + q, z.act, fun t => accSeen c core (slotOf c.cur.w) (accKey unit row.val (32 * q + t.val))) })
      m (countUntil c .setA (c.cycle + max o 12))) m c

/-- ACCRD (R198). -/
def execAccrd (o : TileOps) (s : State) : Ans := run (rowRead (.accrd o) false o.ac.val o.d o.row) s

/-- PLNRD (R198). -/
def execPlnrd (o : PlaneOps) (s : State) : Ans := run (rowRead (.plnrd o) true o.pl.val o.d o.row) s

/-- A write of the accumulator file scheduled, no earlier than those that came before it, and known to interlocks (R197). -/
def sendAcc (c : Chip) (tile t at_ : Nat) (vals : List (Option W32)) : Chip :=
  let w := c.cur.w
  let t := max t (accFree (warpAt c w))
  let c := modWarp c w fun x => setReady x [codeAcc tile] (some t)
  if h : coreOf w < 192 then schedule c t (.accWrite w ⟨coreOf w, h⟩ at_ vals) else c

/-- ACCWR (R198): performed at T + O. -/
def execAccwr (o : TileOps) (s : State) : Ans := run (withPfx none (onAcc false o.ac.val fun m c =>
    let x := warpAt c c.cur.w
    let act := entryMask c
    let occ := occupancy .lanes 1 act
    let vals := (List.range 128).map fun col =>
      let t := Fin.ofNat 32 (col % 32)
      if lane act t then some (vread x (o.d.val + col / 32) t) else none
    advance m (issued (sendAcc c o.ac.val (c.cycle + occ) (accKey o.ac.val o.row.val 0) vals) occ act))) s

/-- ACCCLR (R199): occupancy 8, performed at T + 12. -/
def execAccclr (ac band : Fin 4) (s : State) : Ans := run (withPfx none (onAcc false ac.val fun m c =>
    advance m (issued (sendAcc c ac.val (c.cycle + 12) (accKey ac.val (32 * band.val) 0) (List.replicate 4096 (some 0))) 8
      (entryMask c)))) s

/-- SCACC (R200, R388): its scales are read at issue, and it takes its place at the core's scale datapath. -/
def scaccOp (o : ScaccOps) (ue : Bool) : Act := withPfx none (onAcc false o.ac.val (onAcc true o.pl.val fun m c =>
  let w := c.cur.w
  let core := coreOf w
  let x := warpAt c w
  let t := max (c.cycle + 12) (coreAt c core).scaleFree
  let flag := bodyFlag c .setB
  let z : Scacc :=
    { w := w, ac := o.ac, pl := o.pl, imm := o.imm, ue := ue, sa := Vector.ofFn fun t => src32 x o.va t,
      sb := (List.range 4).map fun k => Vector.ofFn fun t => vread x (o.vb.val + k) t, flag := flag, at_ := t }
  let c := modCore c core fun k => { k with scaccs := k.scaccs ++ [z], scaleFree := t + 8 }
  let c := flagUp (modWarp c w fun x => setReady x [codeAcc o.ac.val] (some t)) w flag
  let c := if h : core < 192 then schedule c t (.scaccPerform ⟨core, h⟩) else c
  advance m (issued c 8 (entryMask c))))

/-- SCACC (R200). -/
def execScacc (o : ScaccOps) (s : State) : Ans := run (scaccOp o false) s

/-- SCACC.UE4M3 (R200). -/
def execScaccUe4m3 (o : ScaccOps) (s : State) : Ans := run (scaccOp o true) s

/-- The values of an ACCWR or ACCCLR land. -/
def fireAccWrite (w : Nat) (core : CoreId) (at_ : Nat) (values : List (Option W32)) (s : State) : Ans := run (fun _ c =>
    (values.zipIdx).foldl (fun c (v, i) => match v with
      | some v => accPut c core.val (slotOf w) (at_ + i) v
      | none => c) c) s

/-- One element of an SCACC (R105). -/
def scaledSum (ue : Bool) (acc plane : W32) (sa sb : Nat) : W32 :=
  let dec := fun (b : Nat) => if ue then decodeFmt ue4m3 b else decodeE8m0 b
  let p := exactMul (exactMul (decodeFmt fp32 plane.toNat) (dec sa)).1 (dec sb)
  BitVec.ofNat 32 (finish fp32 rne false (exactAdd rne p.1 (decodeFmt fp32 acc.toNat))).1

/-- An SCACC's 4,096 elements (R200). -/
def scaccBand (c : Chip) (core : Nat) (z : Scacc) : Chip :=
  let j := z.imm.val % 4
  let band := z.imm.val / 4
  (List.finRange 32).foldl (fun c r =>
    (List.range 4).foldl (fun c k =>
      (List.finRange 32).foldl (fun c t =>
        let row := 32 * band + r.val
        let col := 32 * k + t.val
        let sb := (((z.sb.drop k).head?.map fun v => v[t.val]).getD 0).toNat
        let key := accKey z.ac.val row col
        accPut c core (slotOf z.w) key (scaledSum z.ue (accGet c core key) (accGet c core (accKey (4 + z.pl.val) row col))
          (fld z.sa[r.val].toNat (8 * j) 8) (fld sb (8 * j) 8))) c) c) c

/-- SCACC_PERFORM (R388): the oldest SCACC of the core lands as one step. -/
def execScaccPerform (core : CoreId) (s : State) : Ans := run (fun _ c =>
    match (coreAt c core.val).scaccs with
    | [] => c
    | z :: r =>
      if c.cycle < z.at_ then c
      else
        let c := scaccBand (modCore c core.val fun k => { k with scaccs := r }) core.val z
        pmEvent (flagDown c z.w z.flag) core.val 0x36 1) s

end Sys2Proof.Machine
end

