-- ==== Sys2Proof/Machine/Observe.lean ====
section
/-!
DEFINITION. Sys2Proof/Machine/Observe.lean: stamps (R257 to R261), regions and traces (R262 to R264), debugger stops and
BKPT (R265, R300), and the chip's physical counter (R259).
-/

namespace Sys2Proof.Machine
open Sys2Proof

/-! ## Debugger stops (R265, R300) -/

/-- A BKPT trap behind the instruction at issue, which has completed (R241, R265, R300). -/
def trapBehind (m : Memory) (c : Chip) : Chip :=
  let w := c.cur.w
  let b := curBody c
  let after := afterBody c
  let at_ : Resume :=
    if c.cur.next.toNat < b.stop.toNat then { pc := c.cur.next, hdr := b.hdr, prio := b.prio, mask := b.mask }
    else { pc := after, hdr := after, prio := headerPrio m c w after, mask := b.mask }
  takeFault c w { code := cBKPT, tmask := b.mask, pc := c.cur.faultPc } at_

/-- A stop request names a group of the issuing warp, which has not stopped for it (R265). -/
def stopPending (c : Chip) (w : Nat) : Bool :=
  let v := (dev c (rDbgStop (coreOf w))).toNat
  let x := warpAt c w
  bit v 8 && isMember c w (fld v 0 8) && !x.dbgStopped && !x.kernel

/-- The warp takes a debugger stop, with its record of kind 9. -/
def takeStop (m : Memory) (c : Chip) : Chip :=
  let w := c.cur.w
  let c := trace c (coreOf w) 0 9 c.cur.faultPc.toNat (some w)
  let c := trapBehind m (modWarp c w fun x => { x with dbgStopped := true })
  checkStop c (coreOf w)

/-- The end of an ENTER or LEAVE: the entry goes on, or a pending stop takes the warp. -/
def edge (f : Chip → Chip) : Act := withPfx none fun m c =>
  let w := c.cur.w
  let c := issued (f c) 1 (entryMask c)
  endIssue (if stopPending c w then takeStop m c else goOn m c)

/-- ENTER (R262). -/
def execEnter (n : Fin 2048) (s : State) : Ans := run (edge fun c =>
    let w := c.cur.w
    let c := modWarp c w fun x => { x with
      regions := (BitVec.ofNat 11 n.val :: x.regions).take 16,
      rgnDepth := if x.rgnDepth = 255 then 255 else x.rgnDepth + 1 }
    trace c (coreOf w) 0 1 n.val (some w)) s

/-- LEAVE (R262). -/
def execLeave (n : Fin 2048) (s : State) : Ans := run (edge fun c =>
    let w := c.cur.w
    let x := warpAt c w
    if x.rgnDepth = 0 then trace c (coreOf w) 0 4 n.val (some w)
    else
      let c := modWarp c w fun x => { x with
        regions := x.regions.drop 1, rgnDepth := if x.rgnDepth = 255 then 255 else x.rgnDepth - 1 }
      match x.regions with
      | r :: _ =>
        if r.toNat = n.val then trace c (coreOf w) 0 2 n.val (some w)
        else trace c (coreOf w) 0 3 (n.val + r.toNat * 2048) (some w)
      | [] => trace c (coreOf w) 0 2 n.val (some w)) s

/-- BKPT (R300): a kernel trap that halts the block in worker mode, nothing in kernel mode. -/
def execBkpt (_n : Fin 2048) (s : State) : Ans := run (withPfx none fun m c =>
    let w := c.cur.w
    let c := issued c 1 (entryMask c)
    if (warpAt c w).kernel then advance m c
    else endIssue (if stopPending c w then takeStop m c else trapBehind m c)) s

/-- DBG_STOP of a core written (R265). -/
def writeStop (c : Chip) (core : Nat) (v : W64) : Chip :=
  let c := setDev c (rDbgStop core) (v &&& 0x1FF)
  checkStop ((warpsOfCore c core).foldl (fun c w => modWarp c w fun x => { x with dbgStopped := false }) c) core

/-- DBG_STOP (R265): a stop request of a core. -/
def execDbgStop (core : CoreId) (v : BitVec 64) (s : State) : Ans := run (fun _ c => writeStop c core.val v) s

/-- CONERD (R261): one stamp of this cycle, ready 8 cycles after issue. -/
def execConerd (sd : SReg) (s : State) : Ans := run (once 8 (usesOf (.conerd sd) none) fun _ c =>
    stampFor c c.cur.w (.conerd c.cur.w sd)) s

/-! ## Samples (R264) -/

/-- The warp that a core samples next: the resident one of the lowest number from `n` on, around. -/
def sampleWarp (c : Chip) (core n : Nat) : Option Nat :=
  let ws := warpsOfCore c core
  match ws.find? fun w => decide (n ≤ slotOf w) with
  | some w => some w
  | none => ws.head?

/-- The next PC of a warp. -/
def nextPc (c : Chip) (w : Nat) : W64 := (resumeOf c w).pc

/-- TRACE_SAMPLE (R264): a record of kind 5. A warp is eligible where it may issue an instruction (R26). No stall reason is that of an eligible warp, so its field is a free value
(log 4). -/
def execTraceSample (core : CoreId) (s : State) : Ans := run (fun m c =>
    match sampleWarp c core.val (coreAt c core.val).sampleNext with
    | none => c
    | some w =>
      let c := modCore c core.val fun k => { k with sampleNext := slotOf w + 1 }
      let busy := decide (c.cycle < (sliceAt c core.val (sliceOf w)).busy)
      let put := fun (why : Nat) (ok : Bool) (c : Chip) =>
        trace c core.val 0 5 ((nextPc c w).toNat + why % 16 * 2 ^ 64 + b1 ok * 2 ^ 68) (some w)
      match look m c w, busy with
      | .ready _ _ _ _, false =>
        let (why, c) := drawFree c
        put why true c
      | .stall why _, _ => put why false c
      | _, _ => put 14 false c) s

/-! ## The physical counter (R259) -/

/-- The tick at which the management vector is raised, and the last. -/
def coneEpoch : Nat := 270000000000000
def coneTop : Nat := 2 ^ 48 - 1

/-- The alert of 200 days, once, when the counter has reached it. -/
def coneLook (c : Chip) : Chip :=
  if coneEpoch ≤ c.conePhys.toNat ∧ !c.coneAlert then after { c with coneAlert := true } 0 .coneEpochAlert else c

/-- CONE_TICK (R259): 64 ns have passed. -/
def execConeTick (s : State) : Ans := run (fun _ c =>
    if c.conePhys.toNat = coneTop then c
    else
      let c := coneLook { c with conePhys := c.conePhys + 1 }
      if c.conePhys.toNat = coneTop then after c 0 .conePhysStop else c) s

/-- CONE_EPOCH_ALERT (R259): the management vector of PF0. -/
def execConeEpochAlert (s : State) : Ans := run (fun _ c => msix { c with coneAlert := true } 0 0) s

/-- CONE_PHYS_STOP (R259): at its top the counter stops, and no tick is taken any more. -/
def execConePhysStop (s : State) : Ans := run (fun _ c =>
    if c.conePhys.toNat = coneTop then unschedule c fun e => e == .coneTick else c) s

/-- CONE_PHYS written (R259): to any value once, and never lowered after that. -/
def writeConePhys (c : Chip) (v : BitVec 64) : Chip :=
  let x := v.setWidth 48
  if !c.coneWritten || decide (c.conePhys.toNat ≤ x.toNat) then coneLook { c with conePhys := x, coneWritten := true } else c

/-- CONE_PHYS_WRITE (R259). -/
def execConePhysWrite (v : BitVec 64) (s : State) : Ans := run (fun _ c => writeConePhys c v) s

end Sys2Proof.Machine
end

