-- ==== Sys2Proof/Machine/Wheel.lean ====
section
/-!
DEFINITION. Sys2Proof/Machine/Wheel.lean: what the Wheel does beside running instructions: halts and their ends (R244,
R245), the owner of a core's SRAM (R115), the placing and removing of warps (R17, R28, R37 to R42), TLB invalidation (R139)
and page handover (R162, R163, R274).
-/

namespace Sys2Proof.Machine
open Sys2Proof

/-! ## Halts (R244, R245) -/

/-- The stream of a warp's job looks at its drain. -/
def drainOfJob (c : Chip) (w : Nat) : Chip :=
  match (warpAt c w).job with
  | some n => drainLook c (eventAt c (evIdx n)).stream.toNat
  | none => c

/-- The stream of a warp's job is draining (R142, R222). -/
def jobDraining (c : Chip) (w : Nat) : Bool :=
  match (warpAt c w).job with
  | some n => (streamAt c (eventAt c (evIdx n)).stream.toNat).drain.isSome
  | none => false

/-- A halt broadcast stops a warp of its block in worker mode, with its record (R244), in the cycle behind the one in which the warp
may issue last and before anything else of it: a grant, an advance or a completion of that last cycle stands (R298, R368, R375;
log 35). A Coil access or a page walk in progress completes first, and so does a replay during a drain (R142). -/
def fireHalted (w since : Nat) (s : State) : Ans := run (fun m c =>
    match warp? c w with
    | none => c
    | some x =>
      let coil := match x.wait with
        | .coil _ | .walk _ => true
        | .replay _ | .fetch => jobDraining c w
        | _ => false
      if x.kernel || x.halted || decide (x.wait = .stopped) then c
      else if coil then after c 1 (.halted w since)
      else
        let c := (ungrant c w (c.cycle - 1)).getD c
        let c := settleWarpWaits (abandon m c w) w
        let at_ := resumeOf c w
        let skid := decide (x.lastIssue = since) && decide (0 < x.issued)
        let c := faultRecord c w { code := cHALTED, pc := at_.pc, skid := skid, seen := x.haltAt } at_ false
        let c := modWarp c w fun x => { x with halted := true, skid := skid, haltAt := none }
        drainOfJob (checkStop c (coreOf w)) w) s

/-- The HALTED warps of a block go on (R245). -/
def continueBlock (c : Chip) (core : Nat) (g : Fin 256) : Chip :=
  let c := { c with halts := sdel c.halts (core * 256 + g.val) }
  let c := unschedule c fun e => match e with
    | .halted w _ => coreOf w == core && decide ((warpAt c w).block = some g)
    | _ => false
  (warpsOfBlock c core g).foldl (fun c w => modWarp c w fun x => { x with halted := false, skid := false }) c

/-- The job that a block runs. -/
def jobOfBlock (c : Chip) (core : Nat) (g : Fin 256) : Option Nat :=
  (c.events.find? fun (_, e) => e.state == sRUNNING && decide (e.info.block = some (core, g))).map (·.1)

/-- A halted block is discarded: its job moves, and its warps end (R245). -/
def discardBlock (c : Chip) (core : Nat) (g : Fin 256) : Chip :=
  let key := core * 256 + g.val
  let hw := (sget c.halts key).getD false
  let c := { c with halts := sdel c.halts key }
  let c := match jobOfBlock c core g with
    | some i => haltJob c i hw
    | none => c
  (warpsOfBlock c core g).foldl endWarp c

/-- The partition that holds a core's cluster; 0 where none does. -/
def partOfCore (c : Chip) (core : Nat) : Nat :=
  ((List.range 16).find? fun p => bit (dev c (rPtn p 0)).toNat 0 && bit (dev c (rPtn p 1)).toNat (clusterOf core)).getD 0

/-- A block of a core is halted. -/
def isHalted (c : Chip) (core : Nat) (g : Fin 256) : Bool := (sget c.halts (core * 256 + g.val)).isSome

/-- BLKCTL_CONTINUE (R245). -/
def execBlkctlContinue (core : CoreId) (g : Fin 256) (s : State) : Ans := run (fun _ c =>
    if isHalted c core.val g then continueBlock c core.val g else logOnly c 4 core.val (partOfCore c core.val)) s

/-- BLKCTL_DISCARD (R245). -/
def execBlkctlDiscard (core : CoreId) (g : Fin 256) (s : State) : Ans := run (kilnRun fun _ c =>
    if isHalted c core.val g then discardBlock c core.val g else logOnly c 4 core.val (partOfCore c core.val)) s

/-- KLN_WAKE (R339): the warps of a core in HALT go on 4 cycles later. -/
def execKlnWake (core : CoreId) (s : State) : Ans := run (fun _ c => wakeHalted c core.val 24576) s

/-! ## The owner of SRAM (R115) -/

def writeOwner (c : Chip) (core : Nat) (v : W64) : Chip :=
  let c := setDev c (rOwner core) (v &&& 0x1FF)
  if v.getLsbD 8 then modCore c core fun k => { k with hosted := true } else c

/-- MEM_OWNER_WRITE (R115). -/
def execMemOwnerWrite (core : CoreId) (v : BitVec 64) (s : State) : Ans := run (fun _ c => writeOwner c core.val v) s

/-- The earliest placed block of a core that remains. Of two placed in one cycle, which R115 does not order, the model takes the one
with the lowest residency slot (log 39). -/
def earliestBlock (c : Chip) (core : Nat) : Option (Fin 256) :=
  ((c.warps.filter fun (w, _) => coreOf w == core).foldl (fun (b : Option (Nat × Fin 256)) (_, x) =>
    match x.block, b with
    | some g, some (t, h) => if x.placed < t then some (x.placed, g) else some (t, h)
    | some g, none => some (x.placed, g)
    | none, b => b) none).map (·.2)

/-! ## Placement (R28, R37 to R42) -/

/-- Free residency slots of a slice. -/
def freeSlots (c : Chip) (core slice : Nat) : Nat := 4 - ((warpsOfCore c core).filter fun w => sliceOf w == slice).length

/-- The warps of a floor that a slice takes (R37). -/
def slicesTake (c : Chip) (core f slice : Nat) : Nat :=
  if f = 0 then freeSlots c core slice else min (freeSlots c core slice) (freeRegs c core slice / (f / 4))

/-- The core has enough slots and registers in total (R37). -/
def enough (c : Chip) (core f n : Nat) : Bool :=
  decide (n ≤ ((List.range 32).map (freeSlots c core)).sum) && decide (n * (f / 4) ≤ ((List.range 32).map (freeRegs c core)).sum)

/-- A warp of a block at its seat, with its memberships (R28, R38 to R41). -/
def seatWarp (m : Memory) (c : Chip) (core : Nat) (g : Fin 256) (n i : Nat) (seat : Seat) : Chip :=
  let w := core * 128 + seat.slot.val
  let top := seat.privBase + BitVec.ofNat 64 (gPrivK c g.val * 1024 + gCslots c g.val * 4096)
  let entry := tplEntry c (gTemplate c g.val)
  let x : Warp :=
    { Warp.blank with
      s := (Warp.blank.s.set 31 seat.privBase).set 30 (BitVec.ofNat 64 (g.val + i * 256 + n * 65536)),
      part := BitVec.ofNat 4 (gPart c g.val), floor := BitVec.ofNat 7 (gFloor c g.val), block := some g,
      csp := Vector.ofFn fun t => top + BitVec.ofNat 64 (128 * t.val), privBase := seat.privBase, cspTop := top,
      placed := c.cycle }
  let c := setDev { c with warps := sput c.warps w x } (rWgrp w) (BitVec.ofNat 64 (g.val + 2 ^ 32))
  modWarp c w fun x => { x with frontier := [{ pc := entry, hdr := entry, prio := headerPrio m c w entry, mask := BitVec.allOnes 32 }] }

/-- Every seat is free, and its slice has room for the warps that it is to take. -/
def seatsFit (c : Chip) (core f : Nat) (seats : List Seat) : Bool :=
  (seats.map Seat.slot).Nodup && (seats.all fun z => (warp? c (core * 128 + z.slot.val)).isNone && z.privBase.toNat % 1024 == 0)
    && (List.range 32).all fun k => decide ((seats.filter fun z => z.slot.val / 4 == k).length ≤ slicesTake c core f k)

/-- Another template's block pops the mailbox (R42). -/
def boxTaken (c : Chip) (core : Nat) (g : Fin 256) : Bool :=
  (warpsOfCore c core).any fun w => match (warpAt c w).block with
    | some h => gMbox c h.val == gMbox c g.val && gTemplate c h.val != gTemplate c g.val
    | none => false

/-- EN of PTN_CTL (R273). -/
def ptnOn (c : Chip) (p : Nat) : Bool := bit (dev c (rPtn p 0)).toNat 0

/-- The Wheel reports to the host why a block of a partition is not placed; until a later placement succeeds the partition's
streams are not accepted (R17, R283). -/
def reportBlock (c : Chip) (core : Nat) (g : Fin 256) (t : String) : Chip :=
  let p := gPart c g.val
  { c with
    out := c.out ++ [.status (Fin.ofNat 16 p) t], unplaced := c.unplaced.filter (· != (core, g)) ++ [(core, g)],
    accepted := c.accepted.filter (· != p) }

/-- Step 4 of R283 has succeeded for a partition: no placement of its blocks stands failed, and each of its worker blocks is
on a core. -/
def placedAll (c : Chip) (p : Nat) : Bool :=
  (c.unplaced.all fun e => !gValid c e.2.val || gPart c e.2.val != p)
    && (List.finRange 256).all fun g =>
      !(gValid c g.val && gWorker c g.val && gPart c g.val == p) || c.warps.any fun e => decide (e.2.block = some g)

/-- The Wheel places a worker block of an enabled partition (R37 to R42, R283), or reports why it does not. Where the core's total is short the placement
waits, which is the Wheel's to do. -/
def placeBlock (m : Memory) (c : Chip) (core : Nat) (g : Fin 256) (seats : List Seat) : Chip :=
  let f := gFloor c g.val
  let n := seats.length
  let say := fun (t : String) => reportBlock c core g t
  if !gValid c g.val || !gWorker c g.val || n == 0 || decide (c.upStep < 3) || !ptnOn c (gPart c g.val) then c
  else if boxTaken c core g then say "MBXCONF"
  else if f % 4 ≠ 0 ∨ 96 < f then say "NOSLICE"
  else if !enough c core f n then c
  else if ((List.range 32).map (slicesTake c core f)).sum < n then say "NOSLICE"
  else if !seatsFit c core f seats then c
  else
    let c := (seats.zipIdx).foldl (fun c (z, i) => seatWarp m c core g n i z) c
    let c := modCore { c with unplaced := c.unplaced.filter (· != (core, g)) } core fun k => { k with hosted := true }
    if (dev c (rOwner core)).getLsbD 8 then c else writeOwner c core (BitVec.ofNat 64 (256 + g.val))

/-- A group becomes a membership of a warp, or the warp has four (R41). -/
def joinGroup (c : Chip) (w : Nat) (g : Fin 256) : Chip :=
  let v := dev c (rWgrp w)
  match (List.range 4).find? fun k => !bit v.toNat (32 + k) with
  | some k =>
    if (warp? c w).isNone ∨ (memberships c w).contains g.val then c
    else
      setDev { c with unplaced := c.unplaced.filter (· != (coreOf w, g)) } (rWgrp w)
        (BitVec.ofNat 64 (v.toNat - fld v.toNat (8 * k) 8 * 2 ^ (8 * k) + g.val * 2 ^ (8 * k) + 2 ^ (32 + k)))
  | none => reportBlock c (coreOf w) g "GFULL"

/-- What block g holds of a core is free (R196, R374). -/
def freeBlock (c : Chip) (core : Nat) (g : Fin 256) : Chip :=
  let mine := fun (o : Option (Fin 256)) => if o = some g then none else o
  checkRacq (modCore c core fun z => { z with
    tileHolder := Vector.ofFn fun i => mine z.tileHolder[i.val], planeHolder := Vector.ofFn fun i => mine z.planeHolder[i.val],
    poolHolder := Vector.ofFn fun i => mine z.poolHolder[i.val] }) core

/-- Stores, atomics or engine commands of the ended warps of a block are still to be performed (R186, R316). -/
def blockBusy (c : Chip) (core : Nat) (g : Fin 256) : Bool :=
  (c.ops.any fun (_, o) => o.w == 24576 && o.core == core && (isStore o.kind || isAtom o.kind))
    || c.cmds.any fun (_, d) => d.core == core && decide (d.block = some g) && decide (d.finished = none)

/-- The Wheel gives up a core's SRAM when the last block that owned it has ended and all that its warps sent has been
performed; while another block remains, the earliest of them owns it (R115; log 11). -/
def vacate (c : Chip) (core : CoreId) (g : Fin 256) : Chip :=
  let v := (dev c (rOwner core.val)).toNat
  if !(bit v 8 && fld v 0 8 == g.val) || !(warpsOfBlock c core.val g).isEmpty then c
  else
    match earliestBlock c core.val with
    | some h => writeOwner c core.val (BitVec.ofNat 64 (256 + h.val))
    | none => if blockBusy c core.val g then after c 1 (.vacate core g) else writeOwner c core.val (BitVec.ofNat 64 g.val)

def fireVacate (core : CoreId) (g : Fin 256) (s : State) : Ans := run (fun _ c => vacate c core g) s

/-- The Wheel removes a block: its warps end; with the last of them gone, what it held is free and the SRAM has a new owner
(R41, R115, R196). -/
def removeBlock (c : Chip) (core : CoreId) (g : Fin 256) : Chip :=
  let ws := warpsOfBlock c core.val g
  if !ws.isEmpty then ws.foldl endWarp c
  else vacate (freeBlock { c with halts := sdel c.halts (core.val * 256 + g.val) } core.val g) core g

/-- The Wheel's own warp on a core (R17): kernel mode, at a clause of the Wheel; its floor is the model's choice (log 10). -/
def placeKernel (m : Memory) (c : Chip) (core slot : Nat) (pc : W64) : Chip :=
  let w := core * 128 + slot
  if (warp? c w).isSome then c
  else
    let x : Warp := { Warp.blank with kernel := true, part := BitVec.ofNat 4 (partOfCore c core), floor := 96, placed := c.cycle }
    let c := { c with warps := sput c.warps w x }
    modWarp c w fun x => { x with
      frontier := [{ pc := pc, hdr := pc, prio := headerPrio m c w pc, mask := BitVec.allOnes 32, kernel := true }] }

/-! ## TLB invalidation (R138, R139, R404, R405) -/

/-- Entries taken out of every TLB of the chip. -/
def tlbDrop (c : Chip) (f : TlbEntry → Bool) : Chip :=
  { c with
    cores := smap (fun _ k => { k with tlb := k.tlb.filter fun e => !f e }) c.cores,
    ctlb := smap (fun _ l => l.filter fun e => !f e) c.ctlb }

/-- The invalidation of a completed TLBI: every walk in flight is discarded and begins again, and what waits for it is translated by the
new one (R139, R405). -/
def invalidate (c : Chip) (f : TlbEntry → Bool) : Chip :=
  let c := tlbDrop c f
  c.walks.foldl (fun c (id, k) => beginWalk (stopWalk c id) id k) c

/-! ## Page handover (R162, R163, R274) -/

/-- The leaf that maps a page of a partition, with its place and its page's bits. -/
def leafOf (m : Memory) (c : Chip) (part va : Nat) : Option (PAddr × Nat × Nat) :=
  match walk m c part va with
  | .leaf e bits => ((walkPath m c part va levels (rootTable c part)).getLast?).map fun p => (p, e, bits)
  | _ => none

/-- The Wheel writes OWN in a leaf, through L2 and under no key, and invalidates its translations (R139, R277). -/
def writeOwn (m : Memory) (c : Chip) (part va : Nat) (own : Bool) : Chip :=
  match leafOf m c part va with
  | none => c
  | some (p, e, bits) =>
    let e := if pteOwn e then e - 64 else e
    let q : Piece := { t := 0, pos := 0, pa := p, width := 64 }
    let c := noteView c false part (unitsOf q)
    let c := l2Wrote (homeWrite m c true false part q (e + b1 own * 64)) q
    invalidate c fun t => t.part == part && t.base / 2 ^ bits == va / 2 ^ bits

/-- The physical range of a leaf's page. -/
def pageRange (e bits : Nat) : PAddr :=
  ⟨spaceOf (pteClass e) (pteHcore e), pteFrame e * 4096 / 2 ^ bits * 2 ^ bits⟩

/-- A physical page's lines are gone from L2 and from every L1. -/
def dropPage (c : Chip) (p : PAddr) (bits : Nat) : Chip :=
  let inside := fun (line : Nat) => decide (lineOf p ≤ line) && decide (line < lineOf p + 2 ^ bits / 1024)
  let mine := fun (r : Req) => r.pieces.any fun q => inside (lineOf q.pa)
  let left := fun (l : List Nat) => l.filter fun n => !inside n
  { c with
    l2 := sfilter (fun l _ => !inside l) c.l2, l2Age := smap (fun _ l => left l) c.l2Age, pinned := left c.pinned,
    reqs := smap (fun _ r => if mine r then { r with noAlloc := true } else r) c.reqs,
    cores := smap (fun _ k => { k with l1 := sfilter (fun s _ => !inside (s / 4)) k.l1, l1Age := left k.l1Age }) c.cores }

/-- An entry of the fault buffer is of a page. -/
def onPage (f : FaultEntry) (part va bits : Nat) : Bool :=
  let b := max f.bits bits
  f.part.toNat == part && f.page / 2 ^ b == va / 2 ^ b

/-- The accesses that wait on a page replay, in the order in which their warps first faulted (R142, R162 step 5). -/
def replayPage (c : Chip) (part va bits : Nat) : Chip :=
  match c.faults.filter fun e => onPage e.2 part va bits with
  | [] => c
  | (i, f) :: r =>
    let all := r.foldl (fun g e => joinFault g e.2) f
    let all := { all with warps := sortBy (fun w => ((sget all.what w).map fun x => x.2.2).getD 0) all.warps }
    let c := { c with faults := sput (sfilter (fun j _ => !(r.any fun e => e.1 == j)) c.faults) i all }
    if h : i < 4096 then after c 0 (.faultReplay ⟨i, h⟩ true) else c

/-- An access of a partition to a page is still to be performed. -/
def pageBusy (c : Chip) (part : Nat) (p : PAddr) (bits : Nat) : Bool :=
  c.reqs.any fun (_, r) => !r.done && (((sget c.ops r.op).map fun o => o.part.toNat == part).getD false)
    && r.pieces.any fun q => decide (lineOf p ≤ lineOf q.pa) && decide (lineOf q.pa < lineOf p + 2 ^ bits / 1024)

/-- A release request for a page is with the host: the page is the host's, and an entry of the fault buffer waits for it (R162). -/
def asked (c : Chip) (part va bits : Nat) : Bool := c.faults.any fun e => onPage e.2 part va bits && !e.2.migration

/-- A release request for the page that holds an address is with the host. -/
def askedOf (m : Memory) (c : Chip) (part : Nat) (page : W64) : Bool :=
  match leafOf m c part page.toNat with
  | some (_, _, bits) => asked c part page.toNat bits
  | none => false

/-- A page of a partition is on its way to the host (R163). -/
def givingPage (m : Memory) (c : Chip) (part : Nat) (page : W64) : Bool :=
  match sget c.giving part with
  | none => false
  | some (p, _) =>
    match leafOf m c part page.toNat with
    | some (_, _, bits) => p.toNat / 2 ^ bits == page.toNat / 2 ^ bits
    | none => false

/-- HOH2D_RELEASED (R162 steps 3 to 5): the Wheel reads a record of KIND 1, and the device owns the page. A handover of the page to the
host that is under way ends first, but for one that itself waits for this release (R163). -/
def execHoh2dReleased (f : Fin 16) (s : State) : Ans := run (fun m c =>
    match sget c.handover f.val with
    | none => c
    | some (page, hi) =>
      if hi.toNat % 4 ≠ 1 then c
      else if givingPage m c f.val page && !askedOf m c f.val page then after c 1 (.hoh2dReleased f)
      else
        let c := { c with handover := sdel c.handover f.val }
        match leafOf m c f.val page.toNat with
        | none => c
        | some (_, e, bits) =>
          if !pteOwn e then c
          else
            let c := writeOwn m c f.val page.toNat false
            replayPage (dropPage c (pageRange e bits) bits) f.val page.toNat bits) s

/-- A handover to the host in progress goes on (R163): behind a release of the page that is under way the Wheel writes OWN = 1; when
every access to the page that was translated before has been performed, the page is the host's and the record of KIND 3 says so. -/
def giveOn (m : Memory) (c : Chip) (f : Fin 16) (page : W64) (seq : Nat) : Chip :=
  let again := fun (c : Chip) => after c 1 (.hoh2dGiveRequest f)
  let done := again { c with giving := sdel c.giving f.val }
  match leafOf m c f.val page.toNat with
  | none => done
  | some (_, e, bits) =>
    let p := pageRange e bits
    if pteOwn e && asked c f.val page.toNat bits then again c
    else if !pteOwn e then again (writeOwn m c f.val page.toNat true)
    else if pageBusy c f.val p bits then again c
    else handoverOut (dropPage done p bits) f.val 3 seq page

/-- HOH2D_GIVE_REQUEST (R163): the Wheel reads a record of KIND 2. Where the host owns the page already the request completes with no
change. A handover in progress goes on first; with none the release requests that have waited for it are sent, one a cycle, before the
next record is taken. -/
def execHoh2dGiveRequest (f : Fin 16) (s : State) : Ans := run (fun m c =>
    match sget c.giving f.val, sget c.handover f.val with
    | some (page, seq), _ => giveOn m c f page seq
    | none, h =>
      match c.faults.find? fun e => e.2.part.toNat == f.val && e.2.migration with
      | some (i, e) => after (askFor m c i e) 1 (.hoh2dGiveRequest f)
      | none =>
      match h with
      | none => c
      | some (page, hi) =>
      if hi.toNat % 4 ≠ 2 then c
      else
        let c := { c with handover := sdel c.handover f.val }
        let seq := fld hi.toNat 16 16
        match leafOf m c f.val page.toNat with
        | none => c
        | some (_, e, bits) =>
          if pteOwn e && !asked c f.val page.toNat bits then handoverOut c f.val 3 seq page
          else giveOn m { c with giving := sput c.giving f.val (page, seq) } f page seq) s

/-- A host write of PTN_HOH2D qword 1 commits a record, unless the Wheel has not read the one before (R274). -/
def commitHandover (c : Chip) (p : Nat) (hi : W64) : Chip :=
  match sget c.handover p with
  | some _ => logFree c p
  | none =>
    let page := (sget c.low (rPtn p 8)).getD 0
    let hi := hi &&& 0xFFFF0003
    let c := setDev (setDev c (rPtn p 8) page) (rPtn p 9) hi
    { c with handover := sput c.handover p (page, hi) }

end Sys2Proof.Machine
end

