-- ==== Sys2Proof/Machine/Platform.lean ====
section
/-!
DEFINITION. Sys2Proof/Machine/Platform.lean: the chip towards its surroundings: interrupts (R272), partitions and their reset
(R273, R276), UALink packets and links (R237 to R239, R253, R258), the host's memory accesses (R164, R270), security (R271,
R279), caps and thermal limits (R280 to R282) and bring-up (R283).
-/

namespace Sys2Proof.Machine
open Sys2Proof

/-! ## Interrupts (R272) -/

/-- MSIX_UNMASK (R272): a vector held pending is raised. -/
def execMsixUnmask (f : Fin 16) (vec : Fin 64) (s : State) : Ans := run (fun _ c =>
    let b := BitVec.ofNat 64 (2 ^ vec.val)
    let pend := (sget c.msixPend f.val).getD 0
    let c := { c with msixMask := sput c.msixMask f.val (((sget c.msixMask f.val).getD 0) &&& ~~~b) }
    if pend &&& b = 0 then c
    else msix { c with msixPend := sput c.msixPend f.val (pend &&& ~~~b) } f.val vec.val) s

/-! ## Partitions (R273) -/

/-- Two ranges of a base and a count meet. -/
def rangesMeet (a n b k : Nat) : Bool := decide (0 < n) && decide (0 < k) && decide (a < b + k) && decide (b < a + n)

/-- The memory shares of two PTN_MEM values meet. -/
def memMeet (x y : Nat) : Bool :=
  rangesMeet (fld x 10 10) (fld x 20 10) (fld y 10 10) (fld y 20 10)
    || rangesMeet (fld x 36 12) (fld x 48 12) (fld y 36 12) (fld y 48 12)

/-- The group ranges of two PTN_GRP values meet. -/
def grpMeet (x y : Nat) : Bool := rangesMeet (fld x 0 8) (fld x 8 9) (fld y 0 8) (fld y 8 9)

/-- Register k of partition p with a value meets that of another enabled partition. -/
def ptnClash (c : Chip) (p k v : Nat) : Bool :=
  (List.range 16).any fun q =>
    let y := (dev c (rPtn q k)).toNat
    q != p && ptnOn c q && (match k with
      | 1 => v &&& y != 0
      | 2 => memMeet v y
      | 3 => v &&& y != 0
      | 5 => grpMeet v y
      | _ => false)

/-- The turns of the enabled partitions and of p. -/
def turnsWith (c : Chip) (p : Nat) : Nat :=
  ((List.range 16).map fun q => if q = p ∨ ptnOn c q then devFld c (rPtn q 4) 0 7 else 0).sum

/-- EN = 1 is written (R273, R276): the partition is enabled with a new key, or the write is logged. -/
def enable (c : Chip) (p : Nat) : Chip :=
  if ptnOn c p then c
  else if ([1, 2, 3, 5].any fun k => ptnClash c p k (dev c (rPtn p k)).toNat) || decide (64 < turnsWith c p) then logFree c p
  else
    let c := setDev c (rPtn p 0) (dev c (rPtn p 0) ||| 1)
    { c with keys := sput c.keys p c.keyCount, keyCount := c.keyCount + 1 }

/-- PARTITION_ENABLE (R273): a write of PTN_CTL with EN = 1. -/
def execPartitionEnable (f : Fin 16) (v : BitVec 64) (s : State) : Ans := run (kilnRun fun _ c =>
    if v.getLsbD 0 then enable c f.val else c) s

/-- A write of PTN_CL, PTN_MEM, PTN_QOS, PTN_KSHR or PTN_GRP (R273). -/
def writePtn (c : Chip) (p k : Nat) (v : W64) : Chip :=
  let tooMany := k == 5 && (decide (256 < fld v.toNat 8 9) || decide (256 < fld v.toNat 0 8 + fld v.toNat 8 9))
  if ptnOn c p || tooMany || ptnClash c p k v.toNat then logFree c p
  else
    let c := setDev c (rPtn p k) v
    if k = 3 then retrySlots c else c

/-! ## Function-level reset (R276) -/

/-- The cores of a partition's clusters. -/
def coresOf (c : Chip) (p : Nat) : List CoreId :=
  (List.finRange 192).filter fun k => bit (dev c (rPtn p 1)).toNat (clusterOf k.val)

/-- The streams of a partition. -/
def streamsOf (c : Chip) (p : Nat) : List (Fin 64) := (List.finRange 64).filter fun n => (streamAt c n.val).part.toNat == p

/-- The events of a partition whose jobs run on a block. -/
def runningOf (c : Chip) (p : Nat) : List (Nat × Event) :=
  c.events.filter fun (i, e) => inRange c p i && e.state == sRUNNING && e.info.block.isSome

/-- Step 1 begins: fetching and pushing stop, and every running job is halted as R244 halts a block. -/
def flrBegin (c : Chip) (p : Nat) : Chip :=
  let c := setDev { c with resets := sput c.resets p 1, accepted := c.accepted.filter (· != p) } (rPtn p 0) (dev c (rPtn p 0) ||| 4)
  let c := (streamsOf c p).foldl (fun c n =>
    let c := modStream c n.val fun x => { x with run := false, drain := none, held := false, resuming := false, stopping := false }
    if c.fetcher.busy = some n then freeFetcher c n.val else c) c
  let c := (c.events.filter fun (i, _) => inRange c p i).foldl (fun c (i, _) => unqueue c i) c
  (runningOf c p).foldl (fun c (_, e) => match e.info.block with
    | some (core, g) => if (sget c.halts (core * 256 + g.val)).isSome then c else haltBlock c core g
    | none => c) c

/-- Step 1 ends: the partition's worker blocks are removed, and its events become FREE, which those who wait for a COUNTER see
(R213). -/
def flrRemove (c : Chip) (p : Nat) : Chip :=
  let mine := fun (k : Nat) => bit (dev c (rPtn p 1)).toNat (clusterOf k)
  let ws := ((c.warps.filter fun (_, x) => x.part.toNat == p && x.block.isSome).map (·.1))
  let c := ws.foldl (fun c w => modWarp c w fun x => { x with job := none }) c
  let c := ws.foldl endWarp c
  let is_ := (c.events.filter fun (i, _) => inRange c p i).map (·.1)
  let counters := c.events.filter fun (i, e) => inRange c p i && e.state == sCOUNTER
  let c := { c with
    events := smap (fun i e => if inRange c p i then { Event.blank with gen := e.gen } else e) c.events,
    cores := smap (fun k x => if mine k then { x with mail := Vector.replicate 8 [], noPush := false } else x) c.cores,
    halts := sfilter (fun k _ => !mine (k / 256)) c.halts,
    kreqs := sfilter (fun _ r => r.part.toNat != p) c.kreqs, resets := sput c.resets p 2 }
  let c := unschedule c fun e => match e with
    | .preemptAutomatic i => inRange c p i
    | _ => false
  counters.foldl (fun c (i, e) => tableNext c (.retired (localName c i) e.gen)) (is_.foldl notify c)

/-- The commands of a partition that have not ended. -/
def cmdsOf (c : Chip) (p : Nat) : List (Nat × Cmd) := c.cmds.filter fun (_, d) => d.part.toNat == p

/-- Step 2: commands that have not started are discarded. -/
def flrDiscard (c : Chip) (p : Nat) : Chip :=
  let c := (coresOf c p).foldl (fun c k => modCore c k.val fun z => { z with
    go := Vector.ofFn fun q => z.go[q.val].filter fun (id, _) => ((sget c.cmds id).map fun d => d.part.toNat != p).getD false }) c
  (cmdsOf c p).foldl (fun c (id, d) =>
    if d.started then c
    else
      let c := dropUnsent c id
      let c := match d.tag with
        | some t => after (setTag c d.core t (.done 1)) 1 (.tagCheck d.core)
        | none => c
      let c := modCore c d.core fun k => { k with eng := k.eng.set d.queue.val (k.eng[d.queue.val].filter (· != id)) }
      freeArray { c with cmds := sdel c.cmds id } d) c

/-- Steps 3 to 7. -/
def flrFinish (c : Chip) (p : Nat) : Chip :=
  let mine := fun (k : Nat) => bit (dev c (rPtn p 1)).toNat (clusterOf k)
  let own := fun (g : Msg) => mine g.src || mine g.dst
  let lost := (c.msgs.filter fun e => own e.2).map (·.1)
  let c := lost.foldl (fun c id => match sget c.msgs id with
    | some g => doneToken (flagDown c g.w g.flag) g.w id
    | none => c) c
  let c := { c with
    msixPend := sdel c.msixPend p, handover := sdel c.handover p, giving := sdel c.giving p,
    msgs := sfilter (fun _ g => !own g) c.msgs,
    pairs := sfilter (fun k _ => !(mine (k / 4 / 256) || mine (k / 4 % 256))) c.pairs,
    cores := smap (fun k x => if mine k then { x with queues := Vector.replicate 4 [] } else x) c.cores,
    faults := sfilter (fun _ f => f.part.toNat != p) c.faults,
    faulting := sfilter (fun _ f => f.part.toNat != p) c.faulting,
    keys := sdel c.keys p, resets := sdel c.resets p, withheld := sdel c.withheld p }
  let c := (c.walks.filter fun e => e.2.part == p).foldl (fun c e =>
    { stopWalk c e.1 with walks := sdel c.walks e.1 }) c
  let c := unschedule (tlbDrop c fun e => e.part == p) fun e => match e with
    | .flrCommandTimeout f => f.val == p
    | _ => false
  let c := setDev c (rPtn p 3) 0
  let c := (streamsOf c p).foldl (fun c n => toState (modStream c n.val fun x => { x with
    wait := .none, part_way := false, eidx := 0, frozen := false, copies := 0 }) n.val 0 0) c
  msix (setDev c (rPtn p 0) ((dev c (rPtn p 0) &&& ~~~5) ||| 8)) p 4

/-- Step 2 ends when no command of the partition runs. -/
def flrLook (c : Chip) (f : Fin 16) : Chip :=
  if (cmdsOf c f.val).isEmpty then flrFinish c f.val else after c 1 (.functionLevelReset f)

/-- FUNCTION_LEVEL_RESET (R276): its steps, with the wait of step 1 for the blocks that are halted and that of step 2 for the commands
that have started. -/
def execFunctionLevelReset (f : Fin 16) (s : State) : Ans := run (kilnRun fun _ c =>
    let c := if (sget c.resets f.val).isNone then flrBegin c f.val else c
    if sget c.resets f.val ≠ some 1 then flrLook c f
    else if !(runningOf c f.val).all fun e => blockHalted c e.2 then after c 1 (.functionLevelReset f)
    else
      let c := flrDiscard (flrRemove c f.val) f.val
      flrLook (after c (dev c (rPtn f.val 6)).toNat (.flrCommandTimeout f)) f) s

/-- FLR_COMMAND_TIMEOUT (R276 step 2): a command that still runs is stopped, its destination left under R177. -/
def execFlrCommandTimeout (f : Fin 16) (s : State) : Ans := run (kilnRun fun _ c =>
    match sget c.resets f.val with
    | some _ => (cmdsOf c f.val).foldl (fun c (id, _) => failCmd c id 2 0x3F) c
    | none => c) s

/-! ## UALink (R237 to R239, R253, R258) -/

/-- A remote access to HBM as a piece. -/
def remotePiece (addr width : Nat) : Piece := { t := 0, pos := 0, pa := hbmAt addr, width := width }

/-- Another chip's write of this chip's HBM, at the slice of L2 that is its home. -/
def farWrite (m : Memory) (c : Chip) (q : Piece) (v : Nat) : Chip :=
  clearPoison (l2Wrote (defineBits (homeWrite m (noteView c false 0 (unitsOf q)) true false 0 q v) q) q) [q]

/-- Another chip's read of this chip's HBM; none where its data is poisoned. -/
def farRead (m : Memory) (c : Chip) (q : Piece) : Option Nat × Chip :=
  if (badSectors c q).isEmpty then
    let (v, c) := blur c q (homeRead m c true false 0 q)
    (some v, c)
  else (none, c)

/-- UALINK_PACKET_RECEIVE (R237, R258): the stamp unit merges the stamp, and the access is performed at its home here; its answer, or
the acknowledgement of a write, carries a stamp. In recovery nothing of it works (R279). -/
def execUalinkPacketReceive (p : Packet) (s : State) : Ans := run (received p.stamp fun m c =>
    let answer := fun (chip : Fin 1024) (v : Option Nat) (c : Chip) => stampFor c ownStamp (.send (.data chip.val 0 v))
    match p.body with
    | .none => c
    | .write chip addr width value =>
      stampFor (farWrite m c (remotePiece addr.val width.val) value) ownStamp (.send (.packet chip.val 0 .none))
    | .read chip addr width =>
      let (v, c) := farRead m c (remotePiece addr.val width.val)
      answer chip v c
    | .atomic chip op addr width value compare =>
      let q := remotePiece addr.val width.val
      let n := width.val
      let (v, c) := farRead m c q
      answer chip v (match v with
        | some old => farWrite m c q (atomNew op n old (value % 2 ^ n) (compare % 2 ^ n))
        | none => c)) s

/-- A port's link is down until it has trained again. -/
def portDown (c : Chip) (port : Nat) : Chip := setDev c (rLinkLat port) (dev c (rLinkLat port) &&& 0xFFFFFFFEFFFFFFFF)

/-- UALINK_CRC_ERROR (R253): a packet is retransmitted; where that fails too, the port retrains. -/
def execUalinkCrcError (port : Fin 16) (again : Bool) (s : State) : Ans := run (fun _ c =>
    if again then logRecord (portDown c port.val) 0 3 port.val 2 2 0 else logRecord c 0 3 port.val 2 1 0) s

/-- LINK_TRAINING (R239, R283): once the firmware stands, the measured one-way time, the round trip of twice that, and UP. -/
def execLinkTraining (port : Fin 16) (lat : BitVec 64) (s : State) : Ans := run (fun _ c =>
    let ow := lat.toNat % 65536
    if c.recovery || c.upStep == 0 then c
    else setDev c (rLinkLat port.val) (BitVec.ofNat 64 (ow + 2 * ow % 65536 * 65536 + 2 ^ 32))) s

/-- LINK_DOWN (R239). -/
def execLinkDown (port : Fin 16) (s : State) : Ans := run (fun _ c => portDown c port.val) s

/-! ## The host's accesses to memory (R164, R270) -/

/-- The HBM address of a byte of a function's BAR2, where there is one. -/
def bar2Addr (c : Chip) (f off : Nat) : Option Nat :=
  if off < devFld c (rPtn f 2) 20 10 * 2 ^ 30 then some (devFld c (rPtn f 2) 10 10 * 2 ^ 33 + 8 * off) else none

/-- The bits of a byte of HBM were last written encrypted (R270). -/
def isEncrypted (c : Chip) (p : Piece) : Bool := (writtenUnder c (p.pa.key / 64) (p.pa.key / 16 % 4)).isSome

/-- A byte through BAR2, under the key of the partition where the data is encrypted; a free value where the BAR reaches
nothing. -/
def bar2Byte (m : Memory) (c : Chip) (f off : Nat) : Byte × Chip :=
  let (v, c) := match bar2Addr c f off with
    | some a =>
      let p := remotePiece a 8
      blur c p (homeRead m c true (isEncrypted c p) f p)
    | none => drawFree c
  (BitVec.ofNat 8 v, c)

/-- A byte written through BAR2, with what has been written so far. -/
def bar2Put (m : Memory) (f off : Nat) (b : Byte) (x : List Piece × Chip) : List Piece × Chip :=
  match bar2Addr x.2 f off with
  | none => x
  | some a =>
    let p := remotePiece a 8
    let enc := isEncrypted x.2 p
    let c := defineBits (homeWrite m (noteView x.2 enc f (unitsOf p)) true enc f p b.toNat) p
    (x.1 ++ [p], l2Wrote c p)

/-- BAR2_ACCESS (R164, R270): a read or write of the partition's HBM share, or a write of the host to its own memory, which
lands at once. -/
def execBar2Access (a : Bar2) (s : State) : Ans := run (fun m c =>
    match a with
    | .read f off len =>
      if c.recovery then c
      else
        let (l, c) := (List.range len).foldl (fun (l, c) k =>
          let (b, c) := bar2Byte m c f.val (off + k)
          (l ++ [b], c)) (([] : List Byte), c)
        { c with out := c.out ++ [.bar2 l] }
    | .write f off data =>
      if c.recovery then c
      else
        let (ps, c) := (data.zipIdx).foldl (fun x (b, k) => bar2Put m f.val (off + k) b x) ([], c)
        clearPoison c ps
    | .host byteAddr data => (data.zipIdx).foldl (fun c (b, k) => writeBits c ⟨.host, 8 * (byteAddr + k)⟩ 8 b.toNat) c) s

/-! ## Security (R271, R279) -/

/-- SEC_SVN written: never lowered. -/
def writeSvn (c : Chip) (v : W64) : Chip :=
  let x := v &&& 0xFFFF
  if (dev c rSvn).toNat ≤ x.toNat then setDev c rSvn x else logFree c 0

/-- SEC_SVN_WRITE (R271). -/
def execSecSvnWrite (v : BitVec 64) (s : State) : Ans := run (fun _ c => writeSvn c v) s

/-- What attestation measures (R279): the ROM, the firmware, SEC_SVN, and the partition table as the function sees it. -/
def measured (c : Chip) (f : Nat) : List (BitVec 512) :=
  [Config.romMeasure, c.firmware, (dev c rSvn).setWidth 512]
    ++ (if f = 0 then List.range 16 else [f]).flatMap fun p => (List.range 7).map fun k => (dev c (rPtn p k)).setWidth 512

/-- SPDM_REQUEST (R279). -/
def execSpdmRequest (q : SpdmReq) (s : State) : Ans := run (fun _ c =>
    if c.recovery then c
    else { c with out := c.out ++ [.spdm q.f (Config.spdmAnswer Config.identityKey q.f.val q.nonce (measured c q.f.val))] }) s

/-! ## Caps and limits (R280 to R282) -/

/-- A big-endian field of a datagram. -/
def beField (l : List Byte) (lo n : Nat) : Nat := ((l.drop lo).take n).foldl (fun v b => v * 256 + b.toNat) 0

/-- The watts that bind the module: the least over ranks 0 to 3, 2,400 for a rank without a cap. -/
def moduleCap (c : Chip) : Nat := (c.caps.filter fun k => decide (k.rank.val < 4)).foldl (fun w k => min w k.watts) 2400

/-- The period that the module cap enforces; none where the cap leaves the clock at 2.5 GHz. -/
def capClock (c : Chip) : Nat := if moduleCap c < 2400 then max 400 (Config.capPeriod (moduleCap c)) else 400

/-- The period that the thermal and current limits enforce. -/
def limitClock (c : Chip) : Nat := max 400 (max (c.thermal.getD 400) (c.current.getD 400))

/-- The clock follows its limits (R16, R281). -/
def setClock (c : Chip) : Chip := { c with period := max (capClock c) (limitClock c) }

/-- The first cap of the lowest RANK and then of the lowest SRC that passes a test. -/
def firstCap (c : Chip) (f : Cap → Bool) : Option Cap :=
  (c.caps.filter f).foldl (fun (b : Option Cap) k =>
    match b with
    | none => some k
    | some a => if k.rank.val * 65536 + k.src.toNat < a.rank.val * 65536 + a.src.toNat then some k else some a) none

/-- PM_THRCAUSE for a cap. -/
def capCause (k : Cap) : W64 :=
  BitVec.ofNat 64 (1 + k.rank.val * 2 ^ 9 + (if k.rank = 4 then k.part % 16 * 2 ^ 12 else 0) + k.seq.toNat % 2 ^ 32 * 2 ^ 16
    + k.src.toNat * 2 ^ 48)

/-- The least watts of the RANK 4 caps of a partition, which set its duty cycle (R281). -/
def dutyWatts (c : Chip) (p : Nat) : Nat := (c.caps.filter fun k => k.rank == 4 && k.part == p).foldl (fun w k => min w k.watts) 65535

/-- A RANK 4 cap sets the duty cycle of its partition. -/
def dutyBinds (c : Chip) (k : Cap) : Bool := k.rank == 4 && k.watts == dutyWatts c k.part

/-- PM_THRCAUSE as a function reads it (R282). -/
def thrCause (c : Chip) (f : Nat) : W64 :=
  if f = 0 then
    if 400 < limitClock c ∧ capClock c ≤ limitClock c then (if limitClock c ≤ c.thermal.getD 400 then 2 else 3)
    else
      let binds := fun (k : Cap) => if k.rank.val < 4 then decide (400 < capClock c) && k.watts == moduleCap c else dutyBinds c k
      ((firstCap c binds).map capCause).getD 0
  else ((firstCap c fun k => k.rank == 4 && k.part == f && dutyBinds c k).map capCause).getD 0

/-- A frame passes the checks of R280: its tag, byte for byte in the order of KMAC's output, version, RANK, TARGET and SEQ. -/
def frameOk (c : Chip) (l : List Byte) : Bool :=
  let rank := beField l 1 1
  let target := beField l 4 8
  let serial := (dev c rSerial).toNat
  let key := BitVec.ofNat 256 (wide4 c (rCapKey 0))
  l.length == 64 && beField l 0 1 == 1 && decide (rank ≤ 4)
    && natBytes 32 (kmac key (l.take 32)).toNat == l.drop 32
    && (if rank < 3 then target == (dev c (rSite rank)).toNat
        else if rank = 3 then target == serial
        else target / 256 == serial % 2 ^ 56 && decide (target % 256 < 16))
    && (match sget c.capSeq (rank * 65536 + beField l 2 2) with
        | some last => decide (last.toNat < beField l 16 8)
        | none => true)

/-- The cap of a frame, at its receipt. -/
def frameCap (c : Chip) (l : List Byte) : Cap :=
  let rank := beField l 1 1
  let watts := beField l 12 2
  let life := beField l 14 2
  { rank := Fin.ofNat 5 rank, src := BitVec.ofNat 16 (beField l 2 2),
    watts := if rank < 4 then max 600 (min 2400 watts) else watts, part := beField l 4 8 % 256,
    seq := BitVec.ofNat 64 (beField l 16 8), received := c.wall,
    expires := if life = 0 then none else some (c.wall + life * 10 ^ 12) }

/-- The caps without the oldest of a rank that holds more than sixteen. -/
def evict (l : List Cap) (rank : Fin 5) : List Cap :=
  if ((l.filter fun k => k.rank == rank).length) ≤ 16 then l
  else
    let old := (l.filter fun k => k.rank == rank).foldl (fun t k => min t k.received) (2 ^ 128)
    match l.findIdx? fun k => k.rank == rank && k.received == old with
    | some i => l.eraseIdx i
    | none => l

/-- CAP_FRAME (R280, R281): a datagram to the group and port of PM_MCAST. -/
def execCapFrame (fr : CapFrame) (s : State) : Ans := run (fun _ c =>
    if c.recovery || fr.dest.toNat != (dev c rMcast).toNat % 2 ^ 48 then c
    else if !frameOk c fr.bytes then logFree c 0
    else
      let k := frameCap c fr.bytes
      let l := c.caps.filter fun e => !(e.rank == k.rank && e.src == k.src)
      setClock { c with caps := evict (l ++ [k]) k.rank, capSeq := sput c.capSeq (k.rank.val * 65536 + k.src.toNat) k.seq }) s

/-- CAP_EXPIRY (R281): an expired cap is removed. -/
def execCapExpiry (i : Nat) (s : State) : Ans := run (fun _ c =>
    match c.caps[i]? with
    | some k =>
      match k.expires with
      | some t => if t ≤ c.wall then setClock { c with caps := c.caps.eraseIdx i } else c
      | none => c
    | none => c) s

/-- PARTITION_DUTY_WINDOW (R281): a window of 10 microseconds begins, in which pushes of a capped partition's jobs are withheld
for the cycles that hold its power to its cap. -/
def execPartitionDutyWindow (f : Fin 16) (s : State) : Ans := run (kilnRun fun _ c =>
    match firstCap c fun k => k.rank == 4 && k.part == f.val with
    | none => { c with withheld := sdel c.withheld f.val }
    | some _ =>
      let n := Config.dutyCycles (dutyWatts c f.val) (c.wall / 10 ^ 7)
      after { c with withheld := sput c.withheld f.val (c.cycle + n) } n (.kiln 0)) s

/-- THERMAL_LIMIT (R281, R282). -/
def execThermalLimit (t : Thermal) (s : State) : Ans := run (fun _ c =>
    setClock (match t with
      | .thermal p => { c with thermal := some p }
      | .current p => { c with current := some p }
      | .clear => { c with thermal := none, current := none })) s

/-! ## Bring-up (R283) -/

/-- The part after power-on or module reset. What only the model holds goes on, and so does what stands beside the bits of
memory, which a reset leaves (log 28): the keys of its units, and its poisoned sectors. -/
def powerOn (c : Chip) : Chip :=
  { Chip.reset with
    fresh := c.fresh, free := c.free, upStep := 1, keyed := c.keyed, blockKeys := c.blockKeys, keyCount := c.keyCount, poison := c.poison }

/-- The tag of a 512-bit block of a firmware image (R278). -/
def firmwareTag (fw : Firmware) (b : Nat) : BitVec 256 :=
  let block := (fw.bytes.drop (64 * b)).take 64
  kmac Config.firmwareKey (block ++ List.replicate (64 - block.length) 0 ++ natBytes 8 (fw.addr + 512 * b))

/-- The boot ROM takes an image (R278, R279): its tags and its signature verify, and its security version is not below SEC_SVN. -/
def imageOk (c : Chip) (fw : Firmware) : Bool :=
  fw.tags == (List.range ((fw.bytes.length + 63) / 64)).map (firmwareTag fw) && signed (digest fw.bytes) fw.sig
    && decide ((dev c rSvn).toNat ≤ fw.svn.toNat)

/-- BRING_UP (R279, R283). -/
def execBringUp (b : BringUp) (s : State) : Ans := run (kilnRun fun m c =>
    match b with
    | .rom fw =>
      let c := powerOn c
      if imageOk c fw then { c with firmware := digest fw.bytes } else msix { c with recovery := true } 0 0
    | .wheel slot pc =>
      if c.recovery || c.upStep != 1 then c
      else { (List.range 192).foldl (fun c k => placeKernel m c k slot.val pc) c with upStep := 2 }
    | .chip n => if c.recovery || decide (c.upStep < 2) then c else { c with chipNo := BitVec.ofNat 10 n.val, upStep := 3 }
    | .accept p =>
      if c.recovery || decide (c.upStep < 3) || !ptnOn c p.val || !placedAll c p.val then c
      else
        let c := { c with accepted := c.accepted.filter (· != p.val) ++ [p.val] }
        (streamsOf c p.val).foldl (fun c n => if (streamAt c n.val).run then runStream c n else c) c) s

end Sys2Proof.Machine
end

