-- ==== Sys2Proof/Machine/System.lean ====
section
/-!
DEFINITION. Sys2Proof/Machine/System.lean: the device registers as software reads and writes them (R270, R271), SYSR and SYSW
(R401, R402), TLBI (R404, R405), and REGISTER_WRITE.
-/

namespace Sys2Proof.Machine
open Sys2Proof

/-! ## The map (R271) -/

/-- A number of a core's window names a register. -/
def coreNamed (k : Nat) : Bool :=
  decide (k ≤ 6) || (decide (32 ≤ k) && decide (k ≤ 38)) || (decide (64 ≤ k) && decide (k < 112))
    || (decide (512 ≤ k) && decide (k < 1024) && decide (k % 4 < 3)) || (decide (1536 ≤ k) && decide (k < 1792) && decide (k % 8 < 5))
    || (decide (2048 ≤ k) && decide (k < 2560))

/-- A number names a register. -/
def regNamed (n : Nat) : Bool :=
  if n < 128 then decide (n ≤ 50) || (decide (52 ≤ n) && decide (n ≤ 54)) || n == 64 || (decide (68 ≤ n) && decide (n ≤ 71))
  else if n < 384 then decide (n % 16 < 12) && n % 16 != 7
  else if n < 8192 then (decide (512 ≤ n) && decide (n < 608)) || (decide (640 ≤ n) && decide (n < 656))
    || (decide (1024 ≤ n) && decide (n < 2048)) || (decide (2048 ≤ n) && decide (n < 2560) && decide (n % 8 < 6))
  else if n < 32768 then decide (n < 9216) || decide (16384 ≤ n)
  else if n < 131072 then decide (n < 57344)
  else if n < 262144 then true
  else decide ((n - 262144) / 8192 < 192) && coreNamed ((n - 262144) % 8192)

/-- The bits of a core's register that a write sets; the others read zero. -/
def coreMask (k : Nat) : W64 :=
  if k = 1 then 0x3FFFFFFFFFF
  else if k = 2 then 0x3FF
  else if k = 33 ∨ k = 35 then 0xFFFF
  else if k = 3 ∨ k = 4 then 0xFFFFFFFFFF
  else if k = 34 then 0xFFFFFFFFFFFF
  else if k = 37 then 0xFFFFFFFF
  else if 80 ≤ k ∧ k < 96 then 0x6FFF
  else if 104 ≤ k ∧ k < 112 then 0x3FFFFFFFF
  else if 512 ≤ k ∧ k < 1024 then (if k % 4 = 2 then 0xFFFFFFFF00000FFF else BitVec.allOnes 64)
  else if (64 ≤ k ∧ k < 80) ∨ 1536 ≤ k then 0xFFFFFFFFFFFF
  else BitVec.allOnes 64

/-- The bits of a register that a write sets; the others read zero. -/
def regMask (n : Nat) : W64 :=
  if 262144 ≤ n then coreMask ((n - 262144) % 8192)
  else if n = 0 then 0x3F3F
  else if n = 1 ∨ n = 2 ∨ n = 5 ∨ n = 6 then 0xFFFFFFFF
  else if n = 4 then 0xFFFFFFFFFF
  else if n = 7 then 0x1FFFFFF
  else if n = 10 then 0x1FF
  else if n = 11 then 0xFFFFFFFFFFFF
  else if n = 12 then 1
  else if 16 ≤ n ∧ n < 32 then 0xFFFFFFFFFFFFF
  else if 32 ≤ n ∧ n < 48 then 0xFFFFFFFF
  else if n = 48 then 0xFFFFFFFFFFFF
  else if 128 ≤ n ∧ n < 384 then
    (if n % 16 = 1 then 0xFFFFFFFFFFFF
     else if n % 16 = 2 then 0x0FFFFFF03FFFFC00
     else if n % 16 = 4 then 0x7F
     else if n % 16 = 5 then 0x1FFFF
     else if n % 16 = 6 then 0xFFFFFFFF
     else BitVec.allOnes 64)
  else if 512 ≤ n ∧ n < 608 then 0xFFFFFFFFFFFF
  else if 1024 ≤ n ∧ n < 2048 then 0x1F
  else if 8192 ≤ n ∧ n < 9216 then
    (if n % 4 = 0 then 0x07FFFFFFFFFFFFFF else if n % 4 = 1 then 0xFFFFFFFF00FFFFFF else if n % 4 = 2 then 7 else 0)
  else if 16384 ≤ n ∧ n < 32768 then (if n % 4 = 2 then 0x7FFFFFFFFFF else if n % 4 = 3 then 0 else BitVec.allOnes 64)
  else if 32768 ≤ n ∧ n < 57344 then 0xFFFFFFFFF
  else BitVec.allOnes 64

/-! ## Reads -/

/-- An entry of the event table as its 128 bits (R214). -/
def eventWord (e : Event) : Nat :=
  e.state.val * 4 + e.pend.toNat * 2 ^ 5 + e.cnt.toNat * 2 ^ 13 + e.tpl.toNat * 2 ^ 29 + e.x.toNat * 2 ^ 41 + e.y.toNat * 2 ^ 57
    + e.stream.toNat * 2 ^ 73 + e.core.toNat * 2 ^ 79 + b1 e.cmt * 2 ^ 87 + e.gen.toNat * 2 ^ 88 + e.cval.toNat * 2 ^ 96

/-- A register of a stream (R202). -/
def streamReg (x : Stream) (k : Nat) : W64 :=
  match k with
  | 0 => BitVec.ofNat 64 (b1 x.run + x.prio.toNat * 32 + x.part.toNat * 256)
  | 1 => x.pc
  | 2 => x.loop
  | 3 => BitVec.ofNat 64 (x.state.val + x.code.toNat * 256
      + (if x.state.val = 6 ∧ x.part_way then x.eidx.toNat * 65536 else 0))
  | 4 => x.save
  | _ => x.host

/-- A counter or selector as software reads it: what this cycle has written; else a counter in the cycle of its overflow as it
was before the increment (R256). -/
def counterRead (c : Chip) (n : Nat) : W64 :=
  match sget c.pmWrites n, sget c.pmcWas n with
  | some v, _ => v &&& regMask n
  | none, some (t, v) => if t = c.cycle then v else dev c n
  | none, none => dev c n

/-- A qword of a group entry: the fields marked "worker blocks only" read as zero when WB = 0 (R40). -/
def groupRead (c : Chip) (n : Nat) : W64 :=
  if gWorker c ((n - 8192) / 4) then dev c n
  else if n % 4 = 0 then dev c n &&& 0x1FFFFFFFFF
  else if n % 4 = 1 then dev c n &&& 0xFFFFFFFF00000000
  else dev c n

/-- What a named register reads as for a function, 0 for the Wheel; the write-only ones read zero. -/
def regRead (c : Chip) (f n : Nat) : W64 :=
  if n = rWake ∨ (68 ≤ n ∧ n ≤ 71) then 0
  else if n = rConePhys then c.conePhys.setWidth 64
  else if n = rThrCause then thrCause c f
  else if 2048 ≤ n ∧ n < 2560 then streamReg (streamAt c ((n - 2048) / 8)) (n % 8)
  else if 8192 ≤ n ∧ n < 9216 then groupRead c n
  else if 131072 ≤ n ∧ n < 262144 then BitVec.ofNat 64 (fld (eventWord (eventAt c ((n - 131072) / 2))) (64 * (n % 2)) 64)
  else if 262144 ≤ n ∧ 64 ≤ (n - 262144) % 8192 ∧ (n - 262144) % 8192 < 96 then counterRead c n
  else dev c n

/-! ## Writes -/

/-- A qword of a wide register is written; with the highest of `q` qwords from `base` on the register takes them all. -/
def writeWide (c : Chip) (base q n : Nat) (v : W64) : Chip × Bool :=
  let c := { c with low := sput c.low n v }
  if n = base + q - 1 then
    ((List.range q).foldl (fun c k => setDev c (base + k) (((sget c.low (base + k)).getD 0) &&& regMask (base + k))) c, true)
  else (c, false)

/-- A counter or log that a write of zero to its fields clears; its reserved bits are ignored (R4). -/
def clearZero (c : Chip) (n : Nat) (v : W64) : Chip := if v &&& regMask n = 0 then setDev c n 0 else c

/-- KLN_SCTL written: PART by PF0 only; RUN starts or stops the stream (R202, R203). -/
def writeSctl (c : Chip) (n : Fin 64) (pf0 : Bool) (v : W64) : Chip :=
  let c := modStream c n.val fun x => { x with
    part := if pf0 then BitVec.ofNat 4 (fld v.toNat 8 4) else x.part, prio := BitVec.ofNat 3 (fld v.toNat 5 3) }
  if v.getLsbD 0 then runStream c n else stopStream c n

/-- A register of stream n written (R202). -/
def writeStream (m : Memory) (log : Chip → Chip) (c : Chip) (n : Fin 64) (k : Nat) (pf0 : Bool) (v : W64) : Chip :=
  match k with
  | 0 => writeSctl c n pf0 v
  | 1 => streamWrite n (v.toNat % 256 == 0) (fun x => { x with pc := v, part_way := false, eidx := 0 }) m c
  | 2 => streamWrite n true (fun x => { x with loop := v }) m c
  | 4 => streamWrite n (v.toNat % 4096 == 0) (fun x => { x with save := v }) m c
  | _ => log c

/-- PTN_CTL written (R273, R276). -/
def writeCtl (log : Chip → Chip) (c : Chip) (p : Fin 16) (v : W64) : Chip :=
  let c := if v.getLsbD 3 then c else setDev c (rPtn p.val 0) (dev c (rPtn p.val 0) &&& ~~~8)
  if v.getLsbD 1 then
    if (sget c.resets p.val).isSome then log c else after c 0 (.functionLevelReset p)
  else if ptnOn c p.val then (if v.getLsbD 0 then c else log c)
  else if v.getLsbD 0 then enable c p.val
  else c

/-- A register of partition p written: its handover registers by the host or by the Wheel (R273, R274). -/
def writePartition (log : Chip → Chip) (c : Chip) (p : Fin 16) (k : Nat) (host : Option Nat) (v : W64) : Chip :=
  match k with
  | 0 => writeCtl log c p v
  | 6 => setDev c (rPtn p.val 6) (v &&& 0xFFFFFFFF)
  | 8 => if host.isSome then { c with low := sput c.low (rPtn p.val 8) v } else log c
  | 9 => if host.isSome then commitHandover c p.val v else log c
  | 10 => if host.isSome then log c else setDev c (rPtn p.val 10) v
  | 11 => if host.isSome then log c else msix (setDev c (rPtn p.val 11) (v &&& 0xFFFF0003)) p.val 2
  | _ => writePtn c p.val k (v &&& regMask (rPtn p.val k))

/-- The group entry g is written: what waits on the group, or on a neighbour that held it, is looked at (R235, R297). -/
def groupLook (c : Chip) (g : Fin 256) : Chip :=
  checkPhases (if gValid c g.val then checkBarrier c g ((sget c.barCore g.val).getD 0) else c)

/-- ERR_BLKCTL written (R245). -/
def writeBlkctl (log : Chip → Chip) (c : Chip) (core : Nat) (v : W64) : Chip :=
  let g := Fin.ofNat 256 (fld v.toNat 0 8)
  let c := setDev c (rBlkCtl core) (v &&& 0x3FF)
  if !isHalted c core g then log c
  else
    match fld v.toNat 8 2 with
    | 0 => continueBlock c core g
    | 1 => discardBlock c core g
    | _ => log c

/-- DBG_TRTAIL written: the slots from the old tail to the new one are free (R263). -/
def writeTail (c : Chip) (core : Nat) (v : W64) : Chip :=
  let size := fld (dev c (rTrSize core)).toNat 0 16
  let old := (dev c (rTrTail core)).toNat
  let freed := if size = 0 then 0 else (v.toNat % 65536 + size - old % size) % size
  modCore (setDev c (rTrTail core) (v &&& 0xFFFF)) core fun k => { k with traceHeld := k.traceHeld - freed }

/-- A register of a core's window written. -/
def writeCore (log : Chip → Chip) (c : Chip) (core k : Nat) (v : W64) : Chip :=
  let n := rCore core k
  match k with
  | 2 => writeBlkctl log c core v
  | 3 => clearZero c n v
  | 4 => clearZero c n v
  | 5 => checkRacq (setDev c n v) core
  | 6 => writeOwner c core v
  | 35 => writeTail c core v
  | 38 => writeStop c core v
  | _ =>
    if 64 ≤ k ∧ k < 96 then { c with pmWrites := sput c.pmWrites n v }
    else setDev c n (v &&& regMask n)

/-- KLN_PREEMPT written (R222, R271); a VF may only name streams of its own partition. -/
def writePreempt (log : Chip → Chip) (c : Chip) (host : Option Nat) (v : W64) : Chip :=
  let a := Fin.ofNat 64 (fld v.toNat 0 6)
  let b := Fin.ofNat 64 (fld v.toNat 8 6)
  let own := match host with
    | some 0 => true
    | some f => (streamAt c a.val).part.toNat == f && (streamAt c b.val).part.toNat == f
    | none => true
  if a = b || !own then log c else startDrain (setDev c rPreempt (v &&& 0x3F3F)) a b

/-- KLN_PREWAIT written: the jobs that wait for room have a new time (R222). -/
def writePrewait (c : Chip) (v : W64) : Chip :=
  let w := fld v.toNat 0 32
  let c := setDev c rPrewait (BitVec.ofNat 64 w)
  if w = 0 then c
  else c.events.foldl (fun c (i, e) => match e.info.blocked with
    | some t => schedule c (max c.cycle (t + w)) (.preemptAutomatic i)
    | none => c) c

/-- KLN_DRAINTMO written: the drains in step 2 have a new timeout (R222). -/
def writeDrainTmo (c : Chip) (v : W64) : Chip :=
  let w := fld v.toNat 0 32
  let c := setDev c rDrainTmo (BitVec.ofNat 64 w)
  if w = 0 then c
  else (List.finRange 64).foldl (fun c n => match (streamAt c n.val).drain with
    | some d => if d.step = 2 ∧ !d.timedOut then schedule c (max c.cycle (d.since + w)) (.drainTimeout n) else c
    | none => c) c

/-- A chip-wide register written. -/
def writeChip (log : Chip → Chip) (c : Chip) (n : Nat) (host : Option Nat) (v : W64) : Chip :=
  if n = rPreempt then writePreempt log c host v
  else if n = rPrewait then writePrewait c v
  else if n = rDrainTmo then writeDrainTmo c v
  else if n = rWake then (if fld v.toNat 0 8 < 192 then wakeHalted c (fld v.toNat 0 8) 24576 else c)
  else if n = rKlnErr ∨ n = rCeCnt ∨ n = rFatal then clearZero c n v
  else if n = rConePhys then (if host = some 0 then writeConePhys c v else log c)
  else if n = rSerial ∨ n = rThrCause then log c
  else if n = rSvn then writeSvn c v
  else if 68 ≤ n ∧ n ≤ 71 then (if host = some 0 then (writeWide c 68 4 n v).1 else log c)
  else setDev c n (v &&& regMask n)

/-- A register written (R271, R401): `host` is the function of a BAR0 write, none for the Wheel; `log` records a write that
is refused. -/
def regWrite (m : Memory) (log : Chip → Chip) (host : Option Nat) (c : Chip) (n : Nat) (v : W64) : Chip :=
  if !regNamed n then log c
  else if n < 128 then writeChip log c n host v
  else if n < 384 then writePartition log c (Fin.ofNat 16 ((n - 128) / 16)) (n % 16) host v
  else if 640 ≤ n ∧ n < 656 then log c
  else if 2048 ≤ n ∧ n < 2560 then writeStream m log c (Fin.ofNat 64 ((n - 2048) / 8)) (n % 8) (host == some 0) v
  else if 8192 ≤ n ∧ n < 9216 then
    let (c, done) := writeWide c (n / 4 * 4) 4 n v
    if done then groupLook c (Fin.ofNat 256 ((n - 8192) / 4)) else c
  else if 16384 ≤ n ∧ n < 32768 then (writeWide c (n / 4 * 4) 4 n v).1
  else if 131072 ≤ n ∧ n < 262144 then
    let c := { c with low := sput c.low n v }
    if n % 2 = 0 then c else freeWrite c ((n - 131072) / 2) (v ++ ((sget c.low (n - 1)).getD 0 : BitVec 64))
  else if 262144 ≤ n then writeCore log c ((n - 262144) / 8192) ((n - 262144) % 8192) v
  else if 32768 ≤ n ∧ n < 57344 then checkPhases (setDev c n (v &&& regMask n))
  else setDev c n (v &&& regMask n)

/-- A function sees a register as one that it may write (R270, R273). -/
def mayWrite (c : Chip) (f n : Nat) : Bool :=
  f == 0 || (!c.recovery && (n == rPreempt || n == rPtn f 8 || n == rPtn f 9
    || (decide (2048 ≤ n) && decide (n < 2560) && (streamAt c ((n - 2048) / 8)).part.toNat == f)))

/-- A function sees a register as one that it may read (R270, R273). R282 lets a VF read PM_THRCAUSE, which R270's table does not
name (log 29). -/
def mayRead (c : Chip) (f n : Nat) : Bool :=
  f == 0 || (!c.recovery && (n == rPreempt || n == rThrCause || (decide (rPtn f 0 ≤ n) && decide (n ≤ rPtn f 11))
    || (decide (2048 ≤ n) && decide (n < 2560) && (streamAt c ((n - 2048) / 8)).part.toNat == f)))

/-- A BAR0 read of a function: a register that it does not see reads zero and is logged (R270). -/
def bar0Read (c : Chip) (f : Fin 16) (n : Nat) : Chip :=
  if regNamed n && mayRead c f.val n then { c with out := c.out ++ [.bar0 f (regRead c f.val n)] }
  else logFree { c with out := c.out ++ [.bar0 f 0] } f.val

/-- A write of the register is still to be performed in this cycle before a SYSW of warp w: one through BAR0, or a SYSW of a lower
core and WARP (R402). -/
def writeFirst (c : Chip) (reg w : Nat) : Bool :=
  c.agenda.any fun (t, e) => decide (t ≤ c.cycle) && match e with
    | .sysw u r _ => r == reg && decide (u < w)
    | .registerWrite (.bar0 _ r _) => r == reg
    | _ => false

/-- What a register write, or an act of the Wheel, does before the Kiln looks at it. -/
def wheelAct (r : RegWrite) : Act := fun m c =>
    match r with
    | .bar0 f reg value =>
      if mayWrite c f.val reg then regWrite m (fun c => logFree c f.val) (some f.val) c reg value else logFree c f.val
    | .bar0Read f reg => if writeFirst c reg 24576 then after c 0 (.registerWrite (.bar0Read f reg)) else bar0Read c f reg
    | .wheel reg value => regWrite m (fun c => logFree c 0) none c reg value
    | .place core g seats => after (placeBlock m c core.val g seats) 0 (.kiln 0)
    | .join w g => joinGroup c w.val g
    | .remove core g => removeBlock c core g
    | .kernel core slot pc => placeKernel m c core.val slot.val pc
    | .mask f vec => { c with msixMask := sput c.msixMask f.val (((sget c.msixMask f.val).getD 0) ||| BitVec.ofNat 64 (2 ^ vec.val)) }

/-- REGISTER_WRITE (R270, R271): a BAR0 access, a write of the Wheel, or one of its acts. The Kiln looks at new mailboxes when
the placements of a cycle have been made. -/
def execRegisterWrite (r : RegWrite) (s : State) : Ans :=
  match r with
  | .place _ _ _ => run (wheelAct r) s
  | _ => run (kilnRun (wheelAct r)) s

/-! ## SYSR and SYSW (R401, R402) -/

/-- The cluster at whose router a register is performed: that of its core or slice, else router (0, 0). -/
def regCluster (n : Nat) : Nat :=
  if 262144 ≤ n ∧ (n - 262144) / 8192 < 192 then clusterOf ((n - 262144) / 8192)
  else if 32768 ≤ n ∧ n < 57344 then clusterOf ((n - 32768) / 128)
  else if 512 ≤ n ∧ n < 608 then sliceCluster (n - 512)
  else 0

/-- Lc of R402. -/
def regDelay (core n : Nat) : Nat := 24 + trip (clusterOf core) (regCluster n)

/-- The register number of a SYSR or SYSW: a sum past 64 bits names no register (R401). -/
def regNumber (x : Warp) (sa : SReg) (n : Fin 2048) : Nat := (sread x sa).toNat + n.val

/-- SYSR (R401, R402). -/
def execSysr (sd sa : SReg) (n : Fin 2048) (s : State) : Ans := run (withPfx none (kernelOnly fun m c =>
    let w := c.cur.w
    let reg := regNumber (warpAt c w) sa n
    let c := modWarp c w fun x => setReady x [codeS sd.val] none
    let c := after c (regDelay (coreOf w) reg - 12) (.sysr w sd reg)
    advance m (issued c 1 (entryMask c)))) s

/-- SYSW (R401, R402): performed behind the warp's stores, and nothing of the warp issues until then. -/
def execSysw (sd sa : SReg) (n : Fin 2048) (s : State) : Ans := run (withPfx none (kernelOnly fun _ c =>
    let w := c.cur.w
    let x := warpAt c w
    let reg := regNumber x sa n
    let c := release c x.stores (regDelay (coreOf w) reg - 12) (.sysw w reg (sread x sd))
    waitHere c .sysw)) s

/-- A SYSR of a warp that reads its register `late` cycles from now: SD is there 12 cycles behind. A read by the Wheel of
PTN_HOH2D qword 1 takes the record (R274). -/
def readNow (c : Chip) (w : Nat) (sd : SReg) (reg late : Nat) : Chip :=
  let (v, c) : W64 × Chip := if regNamed reg then (regRead c 0 reg, c) else (0, logOnly c 4 (coreOf w) (warpAt c w).part.toNat)
  let c := if 128 ≤ reg ∧ reg < 384 ∧ reg % 16 = 9 then { c with handover := sdel c.handover ((reg - 128) / 16) } else c
  modWarp c w fun x => writeLate x sd v (c.cycle + late + 12)

/-- The SYSRs of a warp under way that issued before a cycle: their reads, with the cycles to come until each. -/
def sysrsBefore (c : Chip) (w before : Nat) : List (SReg × Nat × Nat) :=
  c.agenda.filterMap fun (t, e) => match e with
    | .sysr u sd reg => if u = w ∧ t < before + (regDelay (coreOf w) reg - 12) then some (sd, reg, t - c.cycle) else none
    | _ => none

/-- The SYSRs that a warp issued before a cycle read their registers before its next access is performed (R402; log 25). -/
def readEarlier (c : Chip) (w before : Nat) : Chip :=
  let l := sysrsBefore c w before
  let c := unschedule c fun e => match e with
    | .sysr u sd reg => u == w && l.any fun r => r.1 == sd && r.2.1 == reg
    | _ => false
  let issue := fun (r : SReg × Nat × Nat) => c.cycle + r.2.2 - (regDelay (coreOf w) r.2.1 - 12)
  (sortBy (fun k => (l[k]?.map issue).getD 0) (List.range l.length)).foldl (fun c k =>
    match l[k]? with
    | some r => readNow c w r.1 r.2.1 r.2.2
    | none => c) c

/-- A SYSR reads its register, behind the writes of the cycle and the warp's earlier SYSRs (R402). -/
def fireSysr (w : Nat) (sd : SReg) (reg : Nat) (s : State) : Ans := run (fun _ c =>
    if writeFirst c reg 24576 then after c 0 (.sysr w sd reg)
    else readNow (readEarlier c w (c.cycle - (regDelay (coreOf w) reg - 12))) w sd reg 0) s

/-- A SYSW is performed. -/
def fireSysw (w reg : Nat) (v : W64) (s : State) : Ans := run (kilnRun fun m c =>
    if writeFirst c reg w then after c 0 (.sysw w reg v)
    else
      let c := readEarlier c w c.cycle
      let c := regWrite m (fun c => logOnly c 4 (coreOf w) (warpAt c w).part.toNat) none c reg v
      if (warpAt c w).wait = .sysw then finishWait m c w id else c) s

/-! ## TLBI (R404, R405) -/

/-- The field of SA that a kind of TLBI allows. -/
def tlbiOk (x : Warp) (sa : SReg) (kind : Fin 3) : Bool :=
  match kind with
  | 0 => (sread x sa).toNat / 2 ^ 60 == 0
  | 1 => (sread x sa).toNat / 16 == 0
  | _ => sa.val == 0

/-- TLBI (R404, R405): it completes 64 cycles after every earlier store of the warp has been performed. -/
def execTlbi (sa : SReg) (kind : Fin 3) (s : State) : Ans := run (withPfx none fun m c =>
    let w := c.cur.w
    let x := warpAt c w
    if !tlbiOk x sa kind then raiseIll c
    else kernelOnly (fun _ c =>
      waitHere (release c x.stores 64 (.tlbiComplete (Fin.ofNat 24576 w))) (.tlbi kind (sread x sa) x.part)) m c) s

/-- The entries that a TLBI invalidates (R404). -/
def tlbiHits (kind : Fin 3) (v : W64) (part : BitVec 4) (e : TlbEntry) : Bool :=
  match kind with
  | 0 => e.part == part.toNat && decide (e.base ≤ v.toNat) && decide (v.toNat < e.base + e.size)
  | 1 => e.part == v.toNat % 16
  | _ => true

/-- TLBI_COMPLETE (R139, R405). -/
def execTlbiComplete (w : WarpId) (s : State) : Ans := run (fun m c =>
    match (warpAt c w.val).wait with
    | .tlbi kind v part => finishWait m (invalidate c (tlbiHits kind v part)) w.val id
    | _ => c) s

end Sys2Proof.Machine
end

