-- ==== Sys2Proof/Machine/Sched.lean ====
section
/-!
DEFINITION. Sys2Proof/Machine/Sched.lean: the slice scheduler (R24 to R27, R29, R266), the requests for instruction lines
(R431), faults of fetches (R47, R50, R141), the transfer of a block to its reclaim entry (R220), what else happens at a
slice's turn (R31, R45, R248), the fetch of the instruction at issue, and the end of a cycle.
-/

namespace Sys2Proof.Machine
open Sys2Proof

/-! ## The transfer to the reclaim entry (R220) -/

/-- A warp of the block moves: its threads go to RECL with PRIO 4095 and empty Coils. -/
def moveWarp (c : Chip) (w : Nat) : Chip :=
  let x := warpAt c w
  let recl := tplRecl c (gTemplate c ((x.block.map Fin.val).getD 0))
  modWarp c w fun x => { x with
    frontier := [{ pc := recl, hdr := recl, prio := 4095, mask := liveMask x }], body := none,
    coil := Vector.replicate 32 [], coilDep := Vector.replicate 32 0,
    csp := Vector.ofFn fun t => x.cspTop + BitVec.ofNat 64 (128 * t.val), xfer := false }

/-- A warp waits in one of the instructions that the transfer ends with no effect. -/
def yields (x : Wait) : Bool :=
  match x with
  | .fwait _ | .tagwa _ | .tagwy _ _ | .tagff _ _ | .racq _ _ _ _ | .rrel _ _ | .qrcv _ _ _ | .bar _ _ _ | .phadv _ => true
  | _ => false

/-- A warp of a block in transfer moves where it waits, or at its next clause boundary. -/
def moveNow (m : Memory) (c : Chip) (w : Nat) : Chip :=
  let x := warpAt c w
  if x.kernel || !x.xfer then c
  else if yields x.wait then moveWarp (abandon m c w) w
  else
    match ungrant c w c.cycle with
    | some c => moveWarp c w
    | none => if x.wait = .none ∧ atBoundary x then moveWarp c w else c

/-- The first warp of a block at an RP header takes every warp of the block to the reclaim entry (R220). -/
def takeReclaim (m : Memory) (c : Chip) (w : Nat) : Chip :=
  if (warpAt c w).xfer then moveNow m c w
  else
    match (warpAt c w).block with
    | none => c
    | some g =>
      let ws := warpsOfBlock c (coreOf w) g
      let c := ws.foldl (fun c u => modWarp c u fun x => { x with xfer := true }) c
      ws.foldl (moveNow m) (pmEvent c (coreOf w) 0x32 1)

/-! ## Deadlock of cross-lane operations (R250) -/

/-- The prefix of the instruction at an address, where there is one. -/
def prefixAt (m : Memory) (c : Chip) (w : Nat) (pc : W64) : Option Prefix :=
  match instrAt m c w pc (pc + 32) with
  | .word (.pfx p) _ => some p
  | _ => none

/-- The parked entry `e` of a warp whose running entry is blocked raises CLX; the blocked instruction is abandoned, and its entry
stands at it (R250; log 41). -/
def clxFault (m : Memory) (c : Chip) (w : Nat) (e : Entry) : Chip :=
  let act := pfxMask (warpAt c w) (prefixAt m c w e.pc) e.mask
  let c := settleWarpWaits (abandon m c w) w
  let c := match (warpAt c w).body with
    | none => c
    | some b =>
      arrive m (modWarp c w fun x => { x with body := none }) w { pc := b.pc, hdr := b.hdr, prio := b.prio, mask := b.mask, kernel := b.kernel }
  takeFault (modWarp c w fun x => dropEntry x e) w
    { code := cCLX, sub := 2, addr := (e.members &&& ~~~e.mask).setWidth 64, tmask := act, pc := e.pc }
    { pc := e.pc, hdr := e.hdr, prio := e.prio, mask := e.mask }

/-! ## An issue opportunity (R26, R27, R266) -/

/-- What selecting an entry brings about before anything issues. -/
def settleWarp (m : Memory) (c : Chip) (w : Nat) : Chip :=
  match look m c w with
  | .fault b code addr pc again => fetchFault m c w b code addr pc again
  | .reclaim => takeReclaim m c w
  | .clx e => clxFault m c w e
  | _ => c

/-- The residency slots of a slice in the round-robin order after the one that issued last. -/
def turnOrder (core slice last : Nat) : List Nat :=
  (List.range 4).map fun i => core * 128 + slice * 4 + (last + 1 + i) % 4

/-- The line that a warp lacks is requested (R431). -/
def askLine (m : Memory) (c : Chip) (w : Nat) : Chip :=
  match look m c w with
  | .stall _ (some (x, va)) => requestLine m c w x va
  | _ => c

/-- The stall reason of a warp (R266). -/
def reasonOf (l : Look) : Nat :=
  match l with
  | .stall r _ => r
  | _ => 14

/-- The oldest resident warp among slots in rising order (R27). -/
def oldest (c : Chip) : List Nat → Option Nat
  | [] => none
  | w :: r =>
    match oldest c r with
    | none => some w
    | some u => some (if (warpAt c w).placed ≤ (warpAt c u).placed then w else u)

/-- The eligibility and stall counters of a slice count an opportunity (R27, R266, R267). -/
def countLook (m : Memory) (c : Chip) (core slice n : Nat) (slots : List Nat) : Chip :=
  let c := countElig c core slice n
  if n ≠ 0 then c
  else
    match oldest c (slots.filter fun w => look m c w != .absent) with
    | none => c
    | some w =>
      let r := reasonOf (look m c w)
      pmEvent (bumpStick c (rStall core slice r) 1) core (0x10 + r) 1

/-- A warp issues: its body runs from its next instruction, which the next step fetches and executes. -/
def startIssue (c : Chip) (w : Nat) (b : Body) (e : Option Entry) (size : Nat) : Chip :=
  let c := modWarp c w fun x =>
    { (e.elim x (dropEntry x)) with body := some b, bars := if x.wait = .none then x.bars else x.bars ++ x.body.toList }
  let c := modSlice c (coreOf w) (sliceOf w) fun k => { k with last := w % 4 }
  { c with phase := .issue, cur := { w := w, pc := b.pc, faultPc := b.pc, next := b.pc + BitVec.ofNat 64 size, pfx := none } }

/-- ISSUE_OPPORTUNITY (R26): a slice that is not busy looks at its warps, counts what it finds, and issues from the first
eligible warp of its round. R431 has a line requested in the first cycle in which a warp needs it, and does not say whether a warp
needs it while its slice is busy: the model asks at the issue opportunities of the slice alone (log 39). -/
def execIssueOpportunity (core : CoreId) (slice : Fin 32) (s : State) : Ans := run (fun m c =>
    let k := sliceAt c core.val slice.val
    if c.cycle < k.busy then c
    else
      let slots := (List.range 4).map fun i => core.val * 128 + slice.val * 4 + i
      let c := slots.foldl (settleWarp m) c
      let c := slots.foldl (askLine m) c
      let c := countLook m c core.val slice.val (slots.filter fun w => isReady (look m c w)).length slots
      match (turnOrder core.val slice.val k.last).find? fun w => isReady (look m c w) with
      | none => c
      | some w =>
        match look m c w with
        | .ready b e _ size => startIssue c w b e size
        | _ => c) s

/-! ## The instruction at issue -/

/-- The instruction at issue and its size, where the issuing warp runs a body and the bytes are there (R47). -/
def fetched (s : State) : Option (Got) :=
  match (warpAt s.chip s.chip.cur.w).body with
  | some b => if (warp? s.chip s.chip.cur.w).isSome then some (instrAt s.mem s.chip s.chip.cur.w s.chip.cur.pc b.stop) else none
  | none => none

/-- The state in which an instruction of a size executes: its successor is the next instruction. -/
def atIssue (s : State) (size : Nat) : State :=
  { s with chip := { s.chip with cur := { s.chip.cur with next := s.chip.cur.pc + BitVec.ofNat 64 size } } }

/-- An issue that finds its bytes gone is given up; the slice looks again. -/
def dropIssue (s : State) : State := { s with chip := { s.chip with phase := .idle } }

/-! ## A slice's turn, and the end of a cycle -/

/-- The slice at a place of the visiting order, with its warps. -/
def slotsAt (pos : Nat) : List Nat := (List.range 4).map fun i => pos * 4 + i

/-- A warp has an entry that has waited through 1,024 instructions of its others and is not yet due (R31). -/
def ageDue (x : Warp) : Bool := x.frontier.any fun e => decide (1024 ≤ e.age) && !e.due && !stands x e

/-- What must happen in a slice before it looks for an instruction: a deferred fault (R248), an expired timer (R45), an
entry that has become due (R31). -/
inductive Chore where
  | deferred (w : Nat)
  | timer (w : Nat)
  | age (w : Nat)
deriving DecidableEq, Repr

def choreOf (m : Memory) (c : Chip) (w : Nat) : Option Chore :=
  match warp? c w with
  | none => none
  | some x =>
    if (dueDeferred x).isSome then some (.deferred w)
    else if x.halted && !x.kernel then none
    else if ageDue x then some (.age w)
    else
      match look m c w with
      | .timer _ => some (.timer w)
      | _ => none

/-- The first chore of a slice. -/
def firstChore (m : Memory) (c : Chip) (pos : Nat) : Option Chore := (slotsAt pos).findSome? (choreOf m c)

/-- The chip has visited the slice at its place. -/
def visited (s : State) : State := { s with chip := { s.chip with pos := s.chip.pos + 1 } }

/-- An event put on the agenda for the cycle that begins. -/
def startsNow (c : Chip) (e : Ev) : Chip := schedule c c.cycle e

/-- Every multiple of `n` that lies in the wall-clock times after `a` up to `b` is there. -/
def crosses (a b n : Nat) : Bool := decide (a / n < b / n)

/-- The banks whose refresh begins in a span of wall-clock time, in ps (R430). -/
def refreshBegins (a b : Nat) : List Nat :=
  (List.range 32).filter fun k => decide ((a + 3900000 - 120000 * k) / 3900000 < (b + 3900000 - 120000 * k) / 3900000)

/-- The period of a core's samples (R264). -/
def samplePeriod (c : Chip) (core : Nat) : Nat := fld (dev c (rSmpl core)).toNat 0 32

/-- Cores whose samples fall in the cycle that begins (R264). -/
def sampledCores (c : Chip) : List CoreId :=
  (List.finRange 192).filter fun k => samplePeriod c k.val != 0 && c.cycle % samplePeriod c k.val == 0

/-- Partitions that hold a partition cap (R281). -/
def dutyParts (c : Chip) : List (Fin 16) :=
  (List.finRange 16).filter fun p => c.caps.any fun k => k.rank == 4 && k.part == p.val

/-- Cores with a performance counter that software has selected (R267). -/
def watchedCores (c : Chip) : List Nat :=
  (c.dev.filterMap fun e =>
    let k := (e.1 - 262144) % 8192
    if 262144 ≤ e.1 ∧ 80 ≤ k ∧ k < 96 then some ((e.1 - 262144) / 8192) else none).eraseDups

/-- Caps that have expired by a wall-clock time, the last of the list first (R281). -/
def expiredCaps (c : Chip) (now : Nat) : List Nat :=
  ((List.range c.caps.length).filter fun i =>
    match c.caps[i]?.bind Cap.expires with
    | some t => decide (t ≤ now)
    | none => false).reverse

/-- A counter or a selector written in the cycle that ends, behind the cycle's increments: a write of a counter stands over
them, and a selector whose counter overflowed keeps OVF, which software only ever clears (R256, R267). -/
def writeCounter (c : Chip) (n : Nat) (v : W64) : Chip :=
  if (n - 262144) % 8192 < 80 then setDev c n (v &&& regMask n)
  else
    let past := match sget c.pmcWas (n - 16) with
      | some (t, _) => t == c.cycle
      | none => false
    setDev c n ((v &&& 0x2FFF) ||| (if past then 0x4000 else v &&& dev c n &&& 0x4000))

/-- What leaves the chip, with its stamp (R258). -/
def Out.stamped (s : W64) : Out → Out
  | .packet chip _ b => .packet chip s b
  | .data chip _ v => .data chip s v
  | .kiln chip _ r => .kiln chip s { r with stamp := s }
  | .answer chip _ a => .answer chip s { a with stamp := s }
  | o => o

/-- A stamp reaches what it was taken for. -/
def useStamp (c : Chip) (s : W64) : StampUse → Chip
  | .record at_ => hbmWrite c (at_ + 192) 64 s.toNat
  | .log at_ => hbmWrite c (at_ + 192) 64 s.toNat
  | .lost => c
  | .conerd w sd => modWarp c w fun x => swrite x sd s
  | .coneLo w d act => modWarp c w fun x =>
      { vwrite x d act (fun _ => s.setWidth 32) with latches := { x.latches with cone := some ((s >>> 32).setWidth 32) } }
  | .late w key =>
    let seen := fun (d : Deferred) => if d.key = key then { d with cone := some s } else d
    let c := modWarp c w fun x => { x with deferred := x.deferred.map seen }
    { c with ops := smap (fun _ o => if o.w = w then { o with late := o.late.map seen } else o) c.ops }
  | .halt w => modWarp c w fun x => { x with haltAt := some (s, x.rcl, x.drn) }
  | .save _ => c
  | .send o => { c with out := c.out ++ [o.stamped s] }

/-- A warp that has taken its own trap in the cycle of a halt has no HALTED record to stamp (R244). -/
def needless (c : Chip) : StampUse → Bool
  | .halt w => (warp? c w).isNone || (warpAt c w).kernel
  | _ => false

def isLog : StampUse → Bool
  | .log _ => true
  | _ => false

/-- A stamp is issued (R257): one of all ones issued again is logged (R259). -/
def issueStamp (m : Memory) (c : Chip) (u : StampUse) : Chip :=
  match u with
  | .save n => writeSave m c n.val
  | _ =>
    if needless c u then c
    else
      let again := c.lastStamp == BitVec.allOnes 64
      let (s, c) := takeStamp c
      let c := useStamp c s u
      if again && !isLog u then logFree c 0 else c

def insertStamp (e : Nat × StampUse) : List (Nat × StampUse) → List (Nat × StampUse)
  | [] => [e]
  | f :: r => if e.1 ≤ f.1 then e :: f :: r else f :: insertStamp e r

/-- The stamps of a cycle in ascending core number and WARP (R257). -/
def stampOrder : List (Nat × StampUse) → List (Nat × StampUse)
  | [] => []
  | e :: r => insertStamp e (stampOrder r)

/-- The stamps of a cycle are issued at its end, and those of the log records that they bring about behind them. -/
def settleStamps (m : Memory) (c : Chip) : Chip :=
  let go := fun (c : Chip) => (stampOrder c.stamps).foldl (fun c e => issueStamp m c e.2) { c with stamps := [] }
  go (go c)

/-- A cycle ends: its stamps are issued (R257), the clocks go on, cycles are counted (R267), and what the clocks call for happens in the next: Cone ticks
every 64 ns (R257), refreshes (R430), trace samples (R264), caps that expire (R281) and duty windows of 10 us (R281). -/
def tick (s : State) : State :=
  let c := settleStamps s.mem (settleWaits s.chip)
  let was := c.wall
  let now := was + c.period
  let c := (watchedCores c).foldl (fun c k => pmEvent c k 0 1) c
  let c := c.pmWrites.foldl (fun c e => writeCounter c e.1 e.2) { c with pmWrites := [] }
  let c := { c with cycle := c.cycle + 1, wall := now, pos := 0 }
  let c := (List.range (now / 64000 - was / 64000)).foldl (fun c _ => startsNow c .coneTick) c
  let c := (refreshBegins was now).foldl (fun c b => startsNow c (.hbmRefresh b)) c
  let c := (sampledCores c).foldl (fun c k => startsNow c (.traceSample k)) c
  let c := (expiredCaps c now).foldl (fun c i => startsNow c (.capExpiry i)) c
  let c := if crosses was now 10000000 then (dutyParts c).foldl (fun c p => startsNow c (.partitionDutyWindow p)) c else c
  { chip := { c with wlog := [] }, mem := commit s.mem c.wlog }

end Sys2Proof.Machine
end

