-- ==== Sys2Proof/Machine/Dispatch.lean ====
section
/-!
DEFINITION. Sys2Proof/Machine/Dispatch.lean: one arm per instruction, each a direct call of its meaning.
-/

namespace Sys2Proof.Machine
open Sys2Proof

def exec (i : Instr) (s : State) : Host.Outcome State Fault Refusal :=
  match i with
  | .iadd o => Sys2Proof.Machine.execIadd o s
  | .isub o => Sys2Proof.Machine.execIsub o s
  | .imul o => Sys2Proof.Machine.execImul o s
  | .imulh o => Sys2Proof.Machine.execImulh o s
  | .imin o => Sys2Proof.Machine.execImin o s
  | .imax o => Sys2Proof.Machine.execImax o s
  | .umin o => Sys2Proof.Machine.execUmin o s
  | .umax o => Sys2Proof.Machine.execUmax o s
  | .and o => Sys2Proof.Machine.execAnd o s
  | .or o => Sys2Proof.Machine.execOr o s
  | .xor o => Sys2Proof.Machine.execXor o s
  | .andn o => Sys2Proof.Machine.execAndn o s
  | .shl o => Sys2Proof.Machine.execShl o s
  | .shr o => Sys2Proof.Machine.execShr o s
  | .sar o => Sys2Proof.Machine.execSar o s
  | .rot o => Sys2Proof.Machine.execRot o s
  | .bfx o => Sys2Proof.Machine.execBfx o s
  | .bfxs o => Sys2Proof.Machine.execBfxs o s
  | .bfi o => Sys2Proof.Machine.execBfi o s
  | .popc o => Sys2Proof.Machine.execPopc o s
  | .clz o => Sys2Proof.Machine.execClz o s
  | .ctz o => Sys2Proof.Machine.execCtz o s
  | .brev o => Sys2Proof.Machine.execBrev o s
  | .imad o => Sys2Proof.Machine.execImad o s
  | .umulh o => Sys2Proof.Machine.execUmulh o s
  | .idiv o => Sys2Proof.Machine.execIdiv o s
  | .udiv o => Sys2Proof.Machine.execUdiv o s
  | .lut3 o => Sys2Proof.Machine.execLut3 o s
  | .fadd o => Sys2Proof.Machine.execFadd o s
  | .fsub o => Sys2Proof.Machine.execFsub o s
  | .fmul o => Sys2Proof.Machine.execFmul o s
  | .ffma o => Sys2Proof.Machine.execFfma o s
  | .fmin o => Sys2Proof.Machine.execFmin o s
  | .fmax o => Sys2Proof.Machine.execFmax o s
  | .fminn o => Sys2Proof.Machine.execFminn o s
  | .fmaxn o => Sys2Proof.Machine.execFmaxn o s
  | .frcp o => Sys2Proof.Machine.execFrcp o s
  | .frsq o => Sys2Proof.Machine.execFrsq o s
  | .fsqrt o => Sys2Proof.Machine.execFsqrt o s
  | .fexp2 o => Sys2Proof.Machine.execFexp2 o s
  | .flog2 o => Sys2Proof.Machine.execFlog2 o s
  | .fsin o => Sys2Proof.Machine.execFsin o s
  | .fcos o => Sys2Proof.Machine.execFcos o s
  | .ftanh o => Sys2Proof.Machine.execFtanh o s
  | .badd2 o => Sys2Proof.Machine.execBadd2 o s
  | .bmul2 o => Sys2Proof.Machine.execBmul2 o s
  | .bfma2 o => Sys2Proof.Machine.execBfma2 o s
  | .bmax2 o => Sys2Proof.Machine.execBmax2 o s
  | .hadd2 o => Sys2Proof.Machine.execHadd2 o s
  | .hmul2 o => Sys2Proof.Machine.execHmul2 o s
  | .hfma2 o => Sys2Proof.Machine.execHfma2 o s
  | .hmax2 o => Sys2Proof.Machine.execHmax2 o s
  | .fcvt o => Sys2Proof.Machine.execFcvt o s
  | .fcvtSat o => Sys2Proof.Machine.execFcvtSat o s
  | .frnd o => Sys2Proof.Machine.execFrnd o s
  | .ffrac o => Sys2Proof.Machine.execFfrac o s
  | .fclass o => Sys2Proof.Machine.execFclass o s
  | .fldexp o => Sys2Proof.Machine.execFldexp o s
  | .icmp o => Sys2Proof.Machine.execIcmp o s
  | .fcmp o => Sys2Proof.Machine.execFcmp o s
  | .sel o => Sys2Proof.Machine.execSel o s
  | .plop o => Sys2Proof.Machine.execPlop o s
  | .p2v d p => Sys2Proof.Machine.execP2v d p s
  | .v2p p a => Sys2Proof.Machine.execV2p p a s
  | .elect p => Sys2Proof.Machine.execElect p s
  | .pbal d p a => Sys2Proof.Machine.execPbal d p a s
  | .mov o => Sys2Proof.Machine.execMov o s
  | .mov64 o => Sys2Proof.Machine.execMov64 o s
  | .movsr d n => Sys2Proof.Machine.execMovsr d n s
  | .movsw n a => Sys2Proof.Machine.execMovsw n a s
  | .movil o => Sys2Proof.Machine.execMovil o s
  | .movih o => Sys2Proof.Machine.execMovih o s
  | .movis o => Sys2Proof.Machine.execMovis o s
  | .movif o => Sys2Proof.Machine.execMovif o s
  | .shflIdx o => Sys2Proof.Machine.execShflIdx o s
  | .shflUp o => Sys2Proof.Machine.execShflUp o s
  | .shflDn o => Sys2Proof.Machine.execShflDn o s
  | .shflXor o => Sys2Proof.Machine.execShflXor o s
  | .xpush o => Sys2Proof.Machine.execXpush o s
  | .voteAll o => Sys2Proof.Machine.execVoteAll o s
  | .voteAny o => Sys2Proof.Machine.execVoteAny o s
  | .voteBal o => Sys2Proof.Machine.execVoteBal o s
  | .voteEq o => Sys2Proof.Machine.execVoteEq o s
  | .redux o => Sys2Proof.Machine.execRedux o s
  | .scan o => Sys2Proof.Machine.execScan o s
  | .scanX o => Sys2Proof.Machine.execScanX o s
  | .rand d => Sys2Proof.Machine.execRand d s
  | .randf d => Sys2Proof.Machine.execRandf d s
  | .rseed a b => Sys2Proof.Machine.execRseed a b s
  | .rskip a => Sys2Proof.Machine.execRskip a s
  | .npack o => Sys2Proof.Machine.execNpack o s
  | .nunpk o => Sys2Proof.Machine.execNunpk o s
  | .next o => Sys2Proof.Machine.execNext o s
  | .nins o => Sys2Proof.Machine.execNins o s
  | .aidx o => Sys2Proof.Machine.execAidx o s
  | .aidxu o => Sys2Proof.Machine.execAidxu o s
  | .algn o => Sys2Proof.Machine.execAlgn o s
  | .adif o => Sys2Proof.Machine.execAdif o s
  | .b2a o => Sys2Proof.Machine.execB2a o s
  | .a2b o => Sys2Proof.Machine.execA2b o s
  | .aadd o => Sys2Proof.Machine.execAadd o s
  | .asub o => Sys2Proof.Machine.execAsub o s
  | .ld o => Sys2Proof.Machine.execLd o s
  | .ldv o => Sys2Proof.Machine.execLdv o s
  | .st o => Sys2Proof.Machine.execSt o s
  | .stv o => Sys2Proof.Machine.execStv o s
  | .lda o => Sys2Proof.Machine.execLda o s
  | .ldc o => Sys2Proof.Machine.execLdc o s
  | .str o => Sys2Proof.Machine.execStr o s
  | .stc o => Sys2Proof.Machine.execStc o s
  | .atom o => Sys2Proof.Machine.execAtom o s
  | .atomn o => Sys2Proof.Machine.execAtomn o s
  | .fence scope kind => Sys2Proof.Machine.execFence scope kind s
  | .bara g => Sys2Proof.Machine.execBara g s
  | .barw g => Sys2Proof.Machine.execBarw g s
  | .bar g => Sys2Proof.Machine.execBar g s
  | .phadv g => Sys2Proof.Machine.execPhadv g s
  | .nop => Sys2Proof.Machine.execNop s
  | .prefL1 o => Sys2Proof.Machine.execPrefL1 o s
  | .prefL2 o => Sys2Proof.Machine.execPrefL2 o s
  | .cinv o => Sys2Proof.Machine.execCinv o s
  | .tagwa sa => Sys2Proof.Machine.execTagwa sa s
  | .tagwy sd sa => Sys2Proof.Machine.execTagwy sd sa s
  | .tagff sd sa => Sys2Proof.Machine.execTagff sd sa s
  | .tagclr sa => Sys2Proof.Machine.execTagclr sa s
  | .tagrd sd tag => Sys2Proof.Machine.execTagrd sd tag s
  | .jpop sd mb => Sys2Proof.Machine.execJpop sd mb s
  | .jdone => Sys2Proof.Machine.execJdone s
  | .jyield sa => Sys2Proof.Machine.execJyield sa s
  | .fspawn sd sa => Sys2Proof.Machine.execFspawn sd sa s
  | .fref sa n => Sys2Proof.Machine.execFref sa n s
  | .fdrop sa n => Sys2Proof.Machine.execFdrop sa n s
  | .fwait sa => Sys2Proof.Machine.execFwait sa s
  | .fpoll sd sa p => Sys2Proof.Machine.execFpoll sd sa p s
  | .fcommit => Sys2Proof.Machine.execFcommit s
  | .evsig sa n => Sys2Proof.Machine.execEvsig sa n s
  | .qsnd sd sa => Sys2Proof.Machine.execQsnd sd sa s
  | .qrcv sd q => Sys2Proof.Machine.execQrcv sd q s
  | .qpoll sd q p => Sys2Proof.Machine.execQpoll sd q p s
  | .racq sd kind k => Sys2Proof.Machine.execRacq sd kind k s
  | .rrel kind k => Sys2Proof.Machine.execRrel kind k s
  | .rqry sd kind => Sys2Proof.Machine.execRqry sd kind s
  | .enter n => Sys2Proof.Machine.execEnter n s
  | .leave n => Sys2Proof.Machine.execLeave n s
  | .conerd sd => Sys2Proof.Machine.execConerd sd s
  | .bkpt n => Sys2Proof.Machine.execBkpt n s
  | .trap n => Sys2Proof.Machine.execTrap n s
  | .tmset sa => Sys2Proof.Machine.execTmset sa s
  | .tret => Sys2Proof.Machine.execTret s
  | .sysr sd sa n => Sys2Proof.Machine.execSysr sd sa n s
  | .sysw sd sa n => Sys2Proof.Machine.execSysw sd sa n s
  | .tlbi sa kind => Sys2Proof.Machine.execTlbi sa kind s
  | .halt => Sys2Proof.Machine.execHalt s
  | .kret => Sys2Proof.Machine.execKret s
  | .sadd o => Sys2Proof.Machine.execSadd o s
  | .saddImm o => Sys2Proof.Machine.execSaddImm o s
  | .ssub o => Sys2Proof.Machine.execSsub o s
  | .ssubImm o => Sys2Proof.Machine.execSsubImm o s
  | .smul o => Sys2Proof.Machine.execSmul o s
  | .smulImm o => Sys2Proof.Machine.execSmulImm o s
  | .smulh o => Sys2Proof.Machine.execSmulh o s
  | .smulhImm o => Sys2Proof.Machine.execSmulhImm o s
  | .sand o => Sys2Proof.Machine.execSand o s
  | .sandImm o => Sys2Proof.Machine.execSandImm o s
  | .sor o => Sys2Proof.Machine.execSor o s
  | .sorImm o => Sys2Proof.Machine.execSorImm o s
  | .sxor o => Sys2Proof.Machine.execSxor o s
  | .sxorImm o => Sys2Proof.Machine.execSxorImm o s
  | .sshl o => Sys2Proof.Machine.execSshl o s
  | .sshlImm o => Sys2Proof.Machine.execSshlImm o s
  | .sshr o => Sys2Proof.Machine.execSshr o s
  | .sshrImm o => Sys2Proof.Machine.execSshrImm o s
  | .ssar o => Sys2Proof.Machine.execSsar o s
  | .ssarImm o => Sys2Proof.Machine.execSsarImm o s
  | .smin o => Sys2Proof.Machine.execSmin o s
  | .sminImm o => Sys2Proof.Machine.execSminImm o s
  | .smax o => Sys2Proof.Machine.execSmax o s
  | .smaxImm o => Sys2Proof.Machine.execSmaxImm o s
  | .sminu o => Sys2Proof.Machine.execSminu o s
  | .sminuImm o => Sys2Proof.Machine.execSminuImm o s
  | .smaxu o => Sys2Proof.Machine.execSmaxu o s
  | .smaxuImm o => Sys2Proof.Machine.execSmaxuImm o s
  | .sdivu o => Sys2Proof.Machine.execSdivu o s
  | .sdivuImm o => Sys2Proof.Machine.execSdivuImm o s
  | .smov o => Sys2Proof.Machine.execSmov o s
  | .smovImm o => Sys2Proof.Machine.execSmovImm o s
  | .smoviZ sd imm => Sys2Proof.Machine.execSmoviZ sd imm s
  | .smoviH1 sd imm => Sys2Proof.Machine.execSmoviH1 sd imm s
  | .smoviH2 sd imm => Sys2Proof.Machine.execSmoviH2 sd imm s
  | .smoviH3 sd imm => Sys2Proof.Machine.execSmoviH3 sd imm s
  | .scmp o => Sys2Proof.Machine.execScmp o s
  | .saidx o => Sys2Proof.Machine.execSaidx o s
  | .salgn o => Sys2Proof.Machine.execSalgn o s
  | .sb2a o => Sys2Proof.Machine.execSb2a o s
  | .sa2b o => Sys2Proof.Machine.execSa2b o s
  | .rdlane sd a lane => Sys2Proof.Machine.execRdlane sd a lane s
  | .rdfirst sd a => Sys2Proof.Machine.execRdfirst sd a s
  | .scacc o => Sys2Proof.Machine.execScacc o s
  | .scaccUe4m3 o => Sys2Proof.Machine.execScaccUe4m3 o s
  | .accclr ac band => Sys2Proof.Machine.execAccclr ac band s
  | .accrd o => Sys2Proof.Machine.execAccrd o s
  | .accwr o => Sys2Proof.Machine.execAccwr o s
  | .plnrd o => Sys2Proof.Machine.execPlnrd o s
  | .brp p neg off => Sys2Proof.Machine.execBrp p neg off s
  | .bra off => Sys2Proof.Machine.execBra off s
  | .call off => Sys2Proof.Machine.execCall off s
  | .brx a => Sys2Proof.Machine.execBrx a s
  | .callx a => Sys2Proof.Machine.execCallx a s
  | .ret => Sys2Proof.Machine.execRet s
  | .exit => Sys2Proof.Machine.execExit s
  | .shlImm o => Sys2Proof.Machine.execShlImm o s
  | .shrImm o => Sys2Proof.Machine.execShrImm o s
  | .sarImm o => Sys2Proof.Machine.execSarImm o s
  | .rotImm o => Sys2Proof.Machine.execRotImm o s
  | .fshl o => Sys2Proof.Machine.execFshl o s
  | .fshr o => Sys2Proof.Machine.execFshr o s
  | .pfx o => Sys2Proof.Machine.execPfx o s
  | .iaddC o => Sys2Proof.Machine.execIaddC o s
  | .isubC o => Sys2Proof.Machine.execIsubC o s
  | .imulC o => Sys2Proof.Machine.execImulC o s
  | .andC o => Sys2Proof.Machine.execAndC o s
  | .orC o => Sys2Proof.Machine.execOrC o s
  | .xorC o => Sys2Proof.Machine.execXorC o s
  | .shlC o => Sys2Proof.Machine.execShlC o s
  | .shrC o => Sys2Proof.Machine.execShrC o s
  | .iminC o => Sys2Proof.Machine.execIminC o s
  | .imaxC o => Sys2Proof.Machine.execImaxC o s
  | .faddC o => Sys2Proof.Machine.execFaddC o s
  | .fsubC o => Sys2Proof.Machine.execFsubC o s
  | .fmulC o => Sys2Proof.Machine.execFmulC o s
  | .fminC o => Sys2Proof.Machine.execFminC o s
  | .fmaxC o => Sys2Proof.Machine.execFmaxC o s
  | .movC o => Sys2Proof.Machine.execMovC o s
  | .issueOpportunity core slice => Sys2Proof.Machine.execIssueOpportunity core slice s
  | .ageEscape w => Sys2Proof.Machine.execAgeEscape w s
  | .userTimerExpiry w => Sys2Proof.Machine.execUserTimerExpiry w s
  | .icacheLineFill core line => Sys2Proof.Machine.execIcacheLineFill core line s
  | .loadReply id => Sys2Proof.Machine.execLoadReply id s
  | .storeAtHome id => Sys2Proof.Machine.execStoreAtHome id s
  | .atomicAtHome id => Sys2Proof.Machine.execAtomicAtHome id s
  | .uncorrectableRead key e => Sys2Proof.Machine.execUncorrectableRead key e s
  | .pageWalkComplete id => Sys2Proof.Machine.execPageWalkComplete id s
  | .faultBufferEntry id => Sys2Proof.Machine.execFaultBufferEntry id s
  | .faultReplay idx ok => Sys2Proof.Machine.execFaultReplay idx ok s
  | .deferredFaultDelivery w => Sys2Proof.Machine.execDeferredFaultDelivery w s
  | .racqGrant w => Sys2Proof.Machine.execRacqGrant w s
  | .rrelFree w => Sys2Proof.Machine.execRrelFree w s
  | .jobPop core mb => Sys2Proof.Machine.execJobPop core mb s
  | .barrierComplete g => Sys2Proof.Machine.execBarrierComplete g s
  | .phaseAdvance core => Sys2Proof.Machine.execPhaseAdvance core s
  | .phaseValueArrival src dst value => Sys2Proof.Machine.execPhaseValueArrival src dst value s
  | .queueMessageArrival id => Sys2Proof.Machine.execQueueMessageArrival id s
  | .queueNack id => Sys2Proof.Machine.execQueueNack id s
  | .queueBackoffResend id => Sys2Proof.Machine.execQueueBackoffResend id s
  | .queueAck id => Sys2Proof.Machine.execQueueAck id s
  | .scaccPerform core => Sys2Proof.Machine.execScaccPerform core s
  | .goAccept core eng => Sys2Proof.Machine.execGoAccept core eng s
  | .engineCommandComplete id => Sys2Proof.Machine.execEngineCommandComplete id s
  | .copy id => Sys2Proof.Machine.execCopy id s
  | .fill id => Sys2Proof.Machine.execFill id s
  | .qfence id => Sys2Proof.Machine.execQfence id s
  | .pinl2 id => Sys2Proof.Machine.execPinl2 id s
  | .unpin id => Sys2Proof.Machine.execUnpin id s
  | .bcol id => Sys2Proof.Machine.execBcol id s
  | .accout id => Sys2Proof.Machine.execAccout id s
  | .matrixAcc id => Sys2Proof.Machine.execMatrixAcc id s
  | .matrixPlane id => Sys2Proof.Machine.execMatrixPlane id s
  | .matrixAccClear id => Sys2Proof.Machine.execMatrixAccClear id s
  | .matrixBlockStep id => Sys2Proof.Machine.execMatrixBlockStep id s
  | .gather id => Sys2Proof.Machine.execGather id s
  | .nred id => Sys2Proof.Machine.execNred id s
  | .bcast id => Sys2Proof.Machine.execBcast id s
  | .collectiveTimeout id => Sys2Proof.Machine.execCollectiveTimeout id s
  | .eventRequestArrival id => Sys2Proof.Machine.execEventRequestArrival id s
  | .mailboxPush id => Sys2Proof.Machine.execMailboxPush id s
  | .kilnRemoteRequest r => Sys2Proof.Machine.execKilnRemoteRequest r s
  | .kilnRemoteAnswer r => Sys2Proof.Machine.execKilnRemoteAnswer r s
  | .tile st => Sys2Proof.Machine.execTile st s
  | .waitev st => Sys2Proof.Machine.execWaitev st s
  | .sigev st => Sys2Proof.Machine.execSigev st s
  | .jump st => Sys2Proof.Machine.execJump st s
  | .loop st => Sys2Proof.Machine.execLoop st s
  | .kopFence st => Sys2Proof.Machine.execKopFence st s
  | .yield st => Sys2Proof.Machine.execYield st s
  | .hostsig st => Sys2Proof.Machine.execHostsig st s
  | .pin st => Sys2Proof.Machine.execPin st s
  | .kopUnpin st => Sys2Proof.Machine.execKopUnpin st s
  | .prefetch st => Sys2Proof.Machine.execPrefetch st s
  | .drop st => Sys2Proof.Machine.execDrop st s
  | .endStream st => Sys2Proof.Machine.execEndStream st s
  | .streamRun st => Sys2Proof.Machine.execStreamRun st s
  | .streamStop st => Sys2Proof.Machine.execStreamStop st s
  | .klnSpcWrite st v => Sys2Proof.Machine.execKlnSpcWrite st v s
  | .klnSloopWrite st v => Sys2Proof.Machine.execKlnSloopWrite st v s
  | .klnSsaveWrite st v => Sys2Proof.Machine.execKlnSsaveWrite st v s
  | .klnEvFreeWrite e v => Sys2Proof.Machine.execKlnEvFreeWrite e v s
  | .klnPreempt v => Sys2Proof.Machine.execKlnPreempt v s
  | .preemptAutomatic e => Sys2Proof.Machine.execPreemptAutomatic e s
  | .drainStepAdvance st => Sys2Proof.Machine.execDrainStepAdvance st s
  | .drainTimeout st => Sys2Proof.Machine.execDrainTimeout st s
  | .streamResume st => Sys2Proof.Machine.execStreamResume st s
  | .restoreVerify st => Sys2Proof.Machine.execRestoreVerify st s
  | .registerWrite r => Sys2Proof.Machine.execRegisterWrite r s
  | .blkctlContinue core g => Sys2Proof.Machine.execBlkctlContinue core g s
  | .blkctlDiscard core g => Sys2Proof.Machine.execBlkctlDiscard core g s
  | .memOwnerWrite core v => Sys2Proof.Machine.execMemOwnerWrite core v s
  | .klnWake core => Sys2Proof.Machine.execKlnWake core s
  | .tlbiComplete w => Sys2Proof.Machine.execTlbiComplete w s
  | .dbgStop core v => Sys2Proof.Machine.execDbgStop core v s
  | .traceSample core => Sys2Proof.Machine.execTraceSample core s
  | .coneTick => Sys2Proof.Machine.execConeTick s
  | .coneEpochAlert => Sys2Proof.Machine.execConeEpochAlert s
  | .conePhysStop => Sys2Proof.Machine.execConePhysStop s
  | .conePhysWrite v => Sys2Proof.Machine.execConePhysWrite v s
  | .hbmSlotServe id => Sys2Proof.Machine.execHbmSlotServe id s
  | .hbmRefresh bank => Sys2Proof.Machine.execHbmRefresh bank s
  | .ualinkPacketReceive p => Sys2Proof.Machine.execUalinkPacketReceive p s
  | .ualinkCrcError port again => Sys2Proof.Machine.execUalinkCrcError port again s
  | .linkTraining port lat => Sys2Proof.Machine.execLinkTraining port lat s
  | .linkDown port => Sys2Proof.Machine.execLinkDown port s
  | .bar2Access a => Sys2Proof.Machine.execBar2Access a s
  | .hoh2dReleased f => Sys2Proof.Machine.execHoh2dReleased f s
  | .hoh2dGiveRequest f => Sys2Proof.Machine.execHoh2dGiveRequest f s
  | .msixUnmask f vec => Sys2Proof.Machine.execMsixUnmask f vec s
  | .functionLevelReset f => Sys2Proof.Machine.execFunctionLevelReset f s
  | .flrCommandTimeout f => Sys2Proof.Machine.execFlrCommandTimeout f s
  | .partitionEnable f v => Sys2Proof.Machine.execPartitionEnable f v s
  | .secSvnWrite v => Sys2Proof.Machine.execSecSvnWrite v s
  | .capFrame fr => Sys2Proof.Machine.execCapFrame fr s
  | .capExpiry i0 => Sys2Proof.Machine.execCapExpiry i0 s
  | .partitionDutyWindow f => Sys2Proof.Machine.execPartitionDutyWindow f s
  | .thermalLimit t => Sys2Proof.Machine.execThermalLimit t s
  | .bringUp b => Sys2Proof.Machine.execBringUp b s
  | .spdmRequest q => Sys2Proof.Machine.execSpdmRequest q s
  | .encodingNotAnInstruction => Sys2Proof.Machine.execEncodingNotAnInstruction s
  | .badkop st => Sys2Proof.Machine.execBadkop st s
  | .operatorWordFetchFault st => Sys2Proof.Machine.execOperatorWordFetchFault st s
  | .engineSourceReply id => Sys2Proof.Machine.execEngineSourceReply id s

end Sys2Proof.Machine
end

