-- ==== Sys2Proof/Machine/Fire.lean ====
section
/-!
DEFINITION. Sys2Proof/Machine/Fire.lean: what an event of the agenda does: a row of the opcode table runs by its own
meaning, and an inner event by the operation of its name; and which of the events that are due has its turn (R160, R216,
R388).
-/

namespace Sys2Proof.Machine
open Sys2Proof

/-- What an event does when its cycle has come. -/
def fire (e : Ev) (s : State) : Ans :=
  match e with
  | .issueOpportunity core slice => execIssueOpportunity core slice s
  | .ageEscape w => execAgeEscape w s
  | .userTimerExpiry w => execUserTimerExpiry w s
  | .icacheLineFill core line => execIcacheLineFill core line s
  | .loadReply id => execLoadReply id s
  | .storeAtHome id => execStoreAtHome id s
  | .atomicAtHome id => execAtomicAtHome id s
  | .uncorrectableRead key e => execUncorrectableRead key e s
  | .pageWalkComplete id => execPageWalkComplete id s
  | .faultBufferEntry id => execFaultBufferEntry id s
  | .faultReplay idx ok => execFaultReplay idx ok s
  | .deferredFaultDelivery w => execDeferredFaultDelivery w s
  | .racqGrant w => execRacqGrant w s
  | .rrelFree w => execRrelFree w s
  | .jobPop core mb => execJobPop core mb s
  | .barrierComplete g => execBarrierComplete g s
  | .phaseAdvance core => execPhaseAdvance core s
  | .phaseValueArrival src dst value => execPhaseValueArrival src dst value s
  | .queueMessageArrival id => execQueueMessageArrival id s
  | .queueNack id => execQueueNack id s
  | .queueBackoffResend id => execQueueBackoffResend id s
  | .queueAck id => execQueueAck id s
  | .scaccPerform core => execScaccPerform core s
  | .goAccept core eng => execGoAccept core eng s
  | .engineCommandComplete id => execEngineCommandComplete id s
  | .copy id => execCopy id s
  | .fill id => execFill id s
  | .qfence id => execQfence id s
  | .pinl2 id => execPinl2 id s
  | .unpin id => execUnpin id s
  | .bcol id => execBcol id s
  | .accout id => execAccout id s
  | .matrixAcc id => execMatrixAcc id s
  | .matrixPlane id => execMatrixPlane id s
  | .matrixAccClear id => execMatrixAccClear id s
  | .matrixBlockStep id => execMatrixBlockStep id s
  | .gather id => execGather id s
  | .nred id => execNred id s
  | .bcast id => execBcast id s
  | .collectiveTimeout id => execCollectiveTimeout id s
  | .eventRequestArrival id => execEventRequestArrival id s
  | .mailboxPush id => execMailboxPush id s
  | .kilnRemoteRequest r => execKilnRemoteRequest r s
  | .kilnRemoteAnswer r => execKilnRemoteAnswer r s
  | .tile st => execTile st s
  | .waitev st => execWaitev st s
  | .sigev st => execSigev st s
  | .jump st => execJump st s
  | .loop st => execLoop st s
  | .kopFence st => execKopFence st s
  | .yield st => execYield st s
  | .hostsig st => execHostsig st s
  | .pin st => execPin st s
  | .kopUnpin st => execKopUnpin st s
  | .prefetch st => execPrefetch st s
  | .drop st => execDrop st s
  | .endStream st => execEndStream st s
  | .badkop st => execBadkop st s
  | .streamRun st => execStreamRun st s
  | .streamStop st => execStreamStop st s
  | .klnSpcWrite st v => execKlnSpcWrite st v s
  | .klnSloopWrite st v => execKlnSloopWrite st v s
  | .klnSsaveWrite st v => execKlnSsaveWrite st v s
  | .klnEvFreeWrite e v => execKlnEvFreeWrite e v s
  | .klnPreempt v => execKlnPreempt v s
  | .preemptAutomatic e => execPreemptAutomatic e s
  | .drainStepAdvance st => execDrainStepAdvance st s
  | .drainTimeout st => execDrainTimeout st s
  | .streamResume st => execStreamResume st s
  | .restoreVerify st => execRestoreVerify st s
  | .registerWrite r => execRegisterWrite r s
  | .blkctlContinue core g => execBlkctlContinue core g s
  | .blkctlDiscard core g => execBlkctlDiscard core g s
  | .memOwnerWrite core v => execMemOwnerWrite core v s
  | .klnWake core => execKlnWake core s
  | .tlbiComplete w => execTlbiComplete w s
  | .dbgStop core v => execDbgStop core v s
  | .traceSample core => execTraceSample core s
  | .coneTick => execConeTick s
  | .coneEpochAlert => execConeEpochAlert s
  | .conePhysStop => execConePhysStop s
  | .conePhysWrite v => execConePhysWrite v s
  | .hbmSlotServe id => execHbmSlotServe id s
  | .hbmRefresh bank => execHbmRefresh bank s
  | .ualinkPacketReceive p => execUalinkPacketReceive p s
  | .ualinkCrcError port again => execUalinkCrcError port again s
  | .linkTraining port lat => execLinkTraining port lat s
  | .linkDown port => execLinkDown port s
  | .bar2Access a => execBar2Access a s
  | .hoh2dReleased f => execHoh2dReleased f s
  | .hoh2dGiveRequest f => execHoh2dGiveRequest f s
  | .msixUnmask f vec => execMsixUnmask f vec s
  | .functionLevelReset f => execFunctionLevelReset f s
  | .flrCommandTimeout f => execFlrCommandTimeout f s
  | .partitionEnable f v => execPartitionEnable f v s
  | .secSvnWrite v => execSecSvnWrite v s
  | .capFrame fr => execCapFrame fr s
  | .capExpiry i => execCapExpiry i s
  | .partitionDutyWindow f => execPartitionDutyWindow f s
  | .thermalLimit t => execThermalLimit t s
  | .bringUp b => execBringUp b s
  | .spdmRequest q => execSpdmRequest q s
  | .encodingNotAnInstruction => execEncodingNotAnInstruction s
  | .operatorWordFetchFault st => execOperatorWordFetchFault st s
  | .engineSourceReply id => execEngineSourceReply id s
  | .staged w flag tok => fireStaged w flag tok s
  | .sendOp op => fireSendOp op s
  | .bankFrame core => fireBankFrame core s
  | .sendMsg msg => fireSendMsg msg s
  | .arrive w g => fireArrive w g s
  | .phaseReady w => firePhaseReady w s
  | .wake w value => fireWake w value s
  | .tagCheck core => fireTagCheck core s
  | .cmdStart id => fireCmdStart id s
  | .cmdFault id => fireCmdFault id s
  | .streamReplay st ok => fireStreamReplay st ok s
  | .cmdReleased id => fireCmdReleased id s
  | .sysw w reg value => fireSysw w reg value s
  | .sysr w sd reg => fireSysr w sd reg s
  | .kiln idx => fireKiln idx s
  | .fetch => fireFetch s
  | .accWrite w core at_ values => fireAccWrite w core at_ values s
  | .halted w since => fireHalted w since s
  | .vacate core g => fireVacate core g s
  | .popRecord core payload warp => firePopRecord core payload warp s
  | .table a => fireTable a s
  | .kilnLook => fireKilnLook s

/-- The events of the agenda whose cycle has come. -/
def dueEvents (c : Chip) : List Ev := (c.agenda.takeWhile fun e => decide (e.1 ≤ c.cycle)).map (·.2)

/-- The event of this cycle whose turn it is: the first of those with the first place in R216's and R388's order (turnOf). -/
def dueEvent (c : Chip) : Option Ev :=
  match dueEvents c with
  | [] => none
  | e :: r => some (r.foldl (fun a b => if turnOf c b < turnOf c a then b else a) e)

/-- The agenda without the event whose turn it is. -/
def popEvent (s : State) : State :=
  match dueEvent s.chip with
  | none => s
  | some e => { s with chip := { s.chip with agenda := s.chip.agenda.eraseP fun f => f.2 == e } }

end Sys2Proof.Machine
end

