-- ==== Sys2Proof/Machine/Step.lean ====
section
/-!
DEFINITION. Sys2Proof/Machine/Step.lean: one step of the machine: the instruction at issue, else the next event that is due,
else the next slice's turn, else the end of the cycle (R26; log 13).
-/

namespace Sys2Proof.Machine
open Sys2Proof

/-- The instruction at issue is fetched and executed. -/
def stepIssue (s : State) : Host.Outcome State Fault Refusal :=
  match fetched s with
  | some (.word i n) => exec i (atIssue s n)
  | some _ => .next (dropIssue s)
  | none => .fault .noIssuingWarp

/-- A slice's turn: what must happen before it looks for an instruction, or its look. -/
def stepSlice (s : State) : Host.Outcome State Fault Refusal :=
  let pos := s.chip.pos
  let core : CoreId := Fin.ofNat 192 (pos / 32)
  let slice : Fin 32 := Fin.ofNat 32 pos
  if s.chip.cycle < (sliceAt s.chip core.val slice.val).busy then .next (visited s)
  else
    match firstChore s.mem s.chip pos with
    | some (.deferred w) => fire (.deferredFaultDelivery (Fin.ofNat 24576 w)) s
    | some (.age w) => fire (.ageEscape (Fin.ofNat 24576 w)) s
    | some (.timer w) => fire (.userTimerExpiry (Fin.ofNat 24576 w)) s
    | none => fire (.issueOpportunity core slice) (visited s)

/-- One step. -/
def step (s : State) : Host.Outcome State Fault Refusal :=
  match s.chip.phase with
  | .issue => stepIssue s
  | .idle =>
    match dueEvent s.chip with
    | some e => fire e (popEvent s)
    | none => if s.chip.pos < 6144 then stepSlice s else .next (tick s)

/-- A leaf of 64 KiB of HBM at address 0 that may be read, written and executed (R110). -/
def fetchLeaf (part : Nat) : TlbEntry := { part := part, base := 0, size := 2 ^ 19, pte := 0x207 }

/-- The warp at the issuing slot, or one placed there with registers enough for every name (R35, R37; log 10). -/
def fetchSeat (c : Chip) : Warp := (warp? c c.cur.w).getD { Warp.blank with floor := 96 }

/-- The warp that a fetched word is laid for: its body is that word alone, at bit address 64. -/
def fetchWarp (x : Warp) (size : Nat) : Warp :=
  { x with body := some { hdr := 0, pc := 64, stop := 64 + BitVec.ofNat 64 size, prio := 0, mask := 0xFFFFFFFF, setA := none,
                          setB := none, kernel := x.kernel } }

/-- The instruction of bits `w` laid where the next step fetches: a warp at the issuing slot at bit address 64 of a page of
code, its line in the instruction cache of its core, and the machine about to issue it (log 14). -/
def State.withFetchWord (s : State) (nbits w : Nat) : State :=
  let c := s.chip
  let u := c.cur.w
  let x := fetchSeat c
  let v := w % 2 ^ nbits
  let size := if v % 2 = 0 then 16 else 32
  let c := { c with warps := sput c.warps u (fetchWarp x size) }
  let c := modCore c (coreOf u) fun k => { k with
    tlb := fetchLeaf x.part.toNat :: k.tlb, icache := sput k.icache 0 (BitVec.ofNat 1024 (v * 2 ^ 64)),
    icBad := k.icBad.filter fun n => n != 0 }
  { s with chip := { c with phase := .issue, cur := { w := u, pc := 64, faultPc := 64, next := 64, pfx := none } } }

end Sys2Proof.Machine
end

