-- ==== Sys2Proof/Safety.lean ====
section
/-!
DEFINITION. Sys2Proof/Safety.lean: the words the statements use: a state in canonical form, the instruction at issue and
what it needs to execute, what it writes and what it leaves, and the arithmetic of the rules in terms of bit vectors
and integers alone.
-/

namespace Sys2Proof.Machine
open Sys2Proof

/-! ## States -/

/-- Memory is in its canonical form, and no write of a step is pending. -/
def State.Canonical (s : State) : Prop := Memory.wf s.mem = true ∧ s.chip.wlog = []

/-- A byte of memory by its key. -/
def State.byte (s : State) (k : Nat) : Byte := memByte s.mem k

/-- The warp at issue. -/
def State.warpNo (s : State) : Nat := s.chip.cur.w

/-- The instruction at issue is one of the resident warp `x`, in the clause body `b` (R29, R48). -/
def State.Runs (s : State) (x : Warp) (b : Body) : Prop := sget s.chip.warps s.warpNo = some x ∧ x.body = some b

/-- The instruction at issue has no prefix (R62). -/
def State.Bare (s : State) : Prop := s.chip.cur.pfx = none

/-- A prefix suits an instruction that admits the fields `k`, or there is none (R62). -/
def fits (k : Option Allow) (p : Option Prefix) : Bool :=
  match p with
  | none => true
  | some q =>
    match k with
    | some a => a.ok q
    | none => false

/-- The threads in which the instruction at issue executes, and those that its prefix zeroes (R61). -/
def actOf (s : State) (x : Warp) (b : Body) : BitVec 32 := pfxMask x s.chip.cur.pfx b.mask
def zeroOf (s : State) (x : Warp) (b : Body) : BitVec 32 := zeroMask x s.chip.cur.pfx b.mask

/-- First writes of the destinations `dst` stay within the warp's share of registers, or nothing is written (R35). -/
def State.Room (s : State) (x : Warp) (b : Body) (dst : List Nat) : Prop :=
  actOf s x b ||| zeroOf s x b = 0 ∨ exceeds x dst = false

/-- A vector instruction that admits the prefix fields `k` and writes `dst` executes (R35, R62). -/
def State.Executes (s : State) (x : Warp) (b : Body) (k : Option Allow) (dst : List Nat) : Prop :=
  s.Runs x b ∧ fits k s.chip.cur.pfx = true ∧ s.Room x b dst

/-! ## What an instruction writes -/

/-- The instruction answers a next state in which its warp is `y`. -/
def State.Gives (s : State) (i : Instr) (P : State → Warp → Prop) : Prop :=
  ∃ t y, exec i s = .next t ∧ sget t.chip.warps s.warpNo = some y ∧ P t y

/-- vd of the warp: the value `f` in the threads of `act`, 0 in those of `zero`, and as before in the others (R34, R61). -/
def Wrote (x y : Warp) (act zero : BitVec 32) (d : Nat) (f : Fin 32 → W32) : Prop :=
  ∀ k, vread y d k = if lane act k then f k else if lane zero k then 0 else vread x d k

/-- The pair v(d + 1) : v(d) likewise. -/
def WrotePair (x y : Warp) (act zero : BitVec 32) (d : Nat) (f : Fin 32 → W64) : Prop :=
  ∀ k, pair64 y d k = if lane act k then f k else if lane zero k then 0 else pair64 x d k

/-- A predicate of the warp: the value `f` in the threads of `act`, and as before in the others. -/
def WroteP (x y : Warp) (act : BitVec 32) (d : PReg) (f : Fin 32 → Bool) : Prop :=
  ∀ k, pread y (.p d) k = if lane act k then f k else pread x (.p d) k

/-- The instruction answers a next state with `f` in vd. -/
def State.Writes (s : State) (i : Instr) (x : Warp) (b : Body) (d : Nat) (f : Fin 32 → W32) : Prop :=
  s.Gives i fun _ y => Wrote x y (actOf s x b) (zeroOf s x b) d f

/-- As `Writes`, for a pair. -/
def State.WritesPair (s : State) (i : Instr) (x : Warp) (b : Body) (d : Nat) (f : Fin 32 → W64) : Prop :=
  s.Gives i fun _ y => WrotePair x y (actOf s x b) (zeroOf s x b) d f

/-- As `Writes`, with flags by thread ORed into FPSTAT. -/
def State.WritesFp (s : State) (i : Instr) (x : Warp) (b : Body) (d : Nat) (f : Fin 32 → W32 × Flags) : Prop :=
  s.Gives i fun _ y => Wrote x y (actOf s x b) (zeroOf s x b) d (fun k => (f k).1)
    ∧ y.fpstat = x.fpstat ||| (orFlags (actOf s x b) fun k => (f k).2).setWidth 32

/-- As `Writes`, for a predicate. -/
def State.WritesP (s : State) (i : Instr) (x : Warp) (b : Body) (d : PReg) (f : Fin 32 → Bool) : Prop :=
  s.Gives i fun _ y => WroteP x y (actOf s x b) d f

/-- The scalar register sd holds a value; s0 stays zero (R5, R66). -/
def WroteS (x y : Warp) (sd : SReg) (v : W64) : Prop :=
  ∀ n, sread y n = if n = sd ∧ n.val ≠ 0 then v else sread x n

/-- The instruction answers a next state with a value in sd, and no other scalar register is written. -/
def State.WritesS (s : State) (i : Instr) (x : Warp) (sd : SReg) (v : W64) : Prop :=
  s.Gives i fun _ y => WroteS x y sd v

/-- Two warps that differ in their frontier, body and issue counts alone. -/
def SameButIssue (y z : Warp) : Prop :=
  z = { y with frontier := z.frontier, body := z.body, issued := z.issued, lastIssue := z.lastIssue }

/-- The operands of a vector operation at issue. -/
def aluIn (s : State) (x : Warp) (b : Body) : In :=
  { x := x, act := actOf s x b, mode := modeOf x s.chip.cur.pfx, sat := satOf s.chip.cur.pfx }

/-- The rounding that element j of thread t takes (R94, R100). -/
def rounding (s : State) (x : Warp) (t : Fin 32) (j : Nat) : Rnd := rndOf x (modeOf x s.chip.cur.pfx) t.val j

/-- The prefix's SAT. -/
def satNow (s : State) : Bool := satOf s.chip.cur.pfx

/-! ## Flow, traps and accesses -/

/-- The instruction at issue stands last in its body (R30, R52). -/
def State.AtEnd (s : State) (b : Body) : Prop := b.stop.toNat ≤ s.chip.cur.next.toNat

/-- A thread stands in a frontier entry at `pc` of the clause at `hdr`, in worker or kernel mode (R28). -/
def Stands (y : Warp) (t : Fin 32) (pc hdr : W64) (kernel : Bool) : Prop :=
  ∃ e ∈ y.frontier, lane e.mask t = true ∧ e.pc = pc ∧ e.hdr = hdr ∧ e.kernel = kernel

/-- A clause header lies at an address: it is a multiple of 64 and canonical (R51). -/
def goodHeader (a : W64) : Prop := a.toNat % 64 = 0 ∧ a.toNat < 2 ^ 60

/-- Every register of a warp that software can name is unchanged: vector, scalar and predicate registers, flags, Coils,
and the special registers of R69 that belong to the warp. -/
def SameRegisters (x y : Warp) : Prop :=
  y.v = x.v ∧ y.s = x.s ∧ y.p = x.p ∧ y.flags = x.flags ∧ y.coil = x.coil ∧ y.csp = x.csp ∧ y.coilDep = x.coilDep
    ∧ y.tcmp = x.tcmp ∧ y.tvec = x.tvec ∧ y.tepc = x.tepc ∧ y.tcause = x.tcause ∧ y.rngCtr = x.rngCtr ∧ y.rngLo = x.rngLo
    ∧ y.rngHi = x.rngHi ∧ y.fpctl = x.fpctl ∧ y.fpstat = x.fpstat ∧ y.headroom = x.headroom ∧ y.regions = x.regions
    ∧ y.rgnDepth = x.rgnDepth ∧ y.stage = x.stage

/-- Every register of a warp that software can name is unchanged but its vector registers and flags. -/
def SameSpecials (x y : Warp) : Prop := SameRegisters { x with v := y.v, flags := y.flags } y

/-- The Wheel's kernel entry of a warp's core is a clause header, and the warp is in worker mode, so that a fault is a kernel
trap (R241). -/
def State.CanTrap (s : State) (x : Warp) : Prop :=
  x.kernel = false ∧ (dev s.chip (rKvec (coreOf s.warpNo))).toNat % 64 = 0

/-- What a kernel trap leaves: the resume point saved, kernel mode, and an entry at ERR_KVEC with the threads that trapped
(R241). -/
def Trapped (s t : State) (x y : Warp) (pc hdr : W64) (prio : BitVec 12) (mask : BitVec 32) : Prop :=
  y.kernel = true ∧ y.body = none ∧ SameRegisters x y
    ∧ dev t.chip (rKepc s.warpNo) = pc ∧ dev t.chip (rKhdr s.warpNo) = hdr
    ∧ dev t.chip (rKprio s.warpNo) = mask ++ (0 : BitVec 20) ++ prio
    ∧ ∃ rest, y.frontier = { pc := dev s.chip (rKvec (coreOf s.warpNo)), hdr := dev s.chip (rKvec (coreOf s.warpNo)), prio := 4095,
                             mask := mask, kernel := true } :: rest

/-- The instruction has no effect but a precise fault: a kernel trap whose resume point is the instruction (R248). -/
def State.Faults (s : State) (i : Instr) (x : Warp) (b : Body) : Prop :=
  s.Gives i fun t y => Trapped s t x y s.chip.cur.faultPc b.hdr b.prio b.mask

/-- A fault of the instruction in kernel mode: it has no effect, the warp stops where it is, ERR_FATAL[0] is set, and its core takes no
push any more (R246). -/
def State.StopsWarp (s : State) (i : Instr) (x : Warp) : Prop :=
  s.Gives i fun t y => y.wait = .stopped ∧ SameRegisters x y ∧ y.frontier = x.frontier ∧ y.body = x.body
    ∧ (dev t.chip rFatal).getLsbD 0 = true ∧ (coreAt t.chip (coreOf s.warpNo)).noPush = true

/-- The warp waits for its Coil access `id` in the threads of `act`, at the addresses of `addr` (R33). -/
def WaitsCoil (s t : State) (x y : Warp) (b : Body) (id : Nat) (o : Op) (act : BitVec 32) (addr : Fin 32 → W64) : Prop :=
  y.wait = .coil id ∧ SameRegisters x y ∧ y.body = some b ∧ sget t.chip.ops id = some o ∧ o.w = s.warpNo ∧ o.act = act
    ∧ o.width = 128 ∧ o.addr = Vector.ofFn addr

/-- What the accesses of the running threads find (R247). -/
def State.finds (s : State) (x : Warp) (b : Body) (k : Rule) (addr : Fin 32 → W64) (width : Fin 32 → Nat) :
    List (Except AFault Found) :=
  (List.finRange 32).flatMap fun t =>
    if lane b.mask t then findThread s.mem s.chip (coreOf s.warpNo) x.part.toNat x.kernel k t (addr t).toNat (width t) else []

/-- The pages of the accesses of the running threads that the core's TLB does not hold, and that no walk has just been made for
(R138). -/
def State.walks (s : State) (x : Warp) (b : Body) (k : Rule) (addr : Fin 32 → W64) (width : Fin 32 → Nat) : List Nat :=
  let l := s.finds x b k addr width
  needWalk s.mem s.chip (coreOf s.warpNo) x.part.toNat s.chip.cur.walked
    ((faultsOf l).map AFault.addr ++ (foundOf l).map fun f => f.run.va)

/-- No access of the running threads faults, and their pages are translated. -/
def State.Reaches (s : State) (x : Warp) (b : Body) (k : Rule) (addr : Fin 32 → W64) (width : Fin 32 → Nat) : Prop :=
  faultsOf (s.finds x b k addr width) = [] ∧ s.walks x b k addr width = []

/-- What an instruction that finds its pages untranslated leaves: the warp waits for a walk of each, and of its registers
nothing has changed (R21, R138). -/
def State.Walks (s : State) (i : Instr) (x : Warp) (b : Body) (pages : List Nat) : Prop :=
  s.Gives i fun t y => (∃ since, y.wait = .walk since) ∧ SameRegisters x y ∧ y.body = some b
    ∧ ∀ p ∈ pages, ∃ k ∈ t.chip.walks, k.2.core = coreOf s.warpNo ∧ k.2.part = x.part.toNat ∧ k.2.va = p * 2 ^ 19
        ∧ s.warpNo ∈ k.2.warps

/-- A flag counts one more, none where the header names none (R53). -/
def countedUp (x : Warp) (f : Option (Fin 12)) : Vector (BitVec 6) 12 :=
  match f with
  | some i => x.flags.set i.val (x.flags[i.val] + 1)
  | none => x.flags

/-- What a replayable fault has counted on a flag is counted no more (R54). -/
def countedDown (x : Warp) (f : Option (Fin 12)) : Vector (BitVec 6) 12 :=
  match f with
  | some i => x.flags.set i.val (if x.flags[i.val] = 0 then 0 else x.flags[i.val] - 1)
  | none => x.flags

/-- An event is to come: it stands in the agenda, or it waits for the warp's stores (R151). -/
def Coming (t : State) (e : Ev) : Prop := (∃ n, (n, e) ∈ t.chip.agenda) ∨ ∃ r ∈ t.chip.rel, r.ev = e

/-! ## Steps without a word -/

/-- A step answers a next state of which `P` holds. -/
def State.Next (s : State) (i : Instr) (P : State → Prop) : Prop := ∃ t, exec i s = .next t ∧ P t

/-- An event of the agenda at its cycle. -/
def Due (t : State) (n : Nat) (e : Ev) : Prop := (n, e) ∈ t.chip.agenda

/-- A command may start: it is accepted and its lead has passed, nothing holds it, and it is next in its queue (R178, R193). -/
def State.MayStart (s : State) (id : Nat) (d : Cmd) : Prop :=
  sget s.chip.cmds id = some d ∧ (∃ a, d.accepted = some a ∧ a + lead d ≤ s.chip.cycle) ∧ d.started = false ∧ d.waiting = false
    ∧ d.finished = none ∧ d.released = true ∧ (nextOf s.chip d.core d.queue).map (·.1) = some id

/-- A command stands in the state, of which `P` holds. -/
def CmdIs (t : State) (id : Nat) (P : Cmd → Prop) : Prop := ∃ d, sget t.chip.cmds id = some d ∧ P d

/-- The fetcher holds a word of the running stream `st`, with no bit outside its fields (R205 to R208). -/
def State.HasWord (s : State) (st : StreamId) (w : BitVec 256) : Prop :=
  s.chip.fetcher.busy = some st ∧ s.chip.fetcher.word = w ∧ wordOk w = true ∧ (streamAt s.chip st.val).state = 1
    ∧ (streamAt s.chip st.val).stopping = false

/-- The stream runs on at an address, and the fetcher is free. -/
def RunsOn (t : State) (st : StreamId) (pc : W64) : Prop :=
  t.chip.fetcher.busy = none ∧ (streamAt t.chip st.val).pc = pc ∧ (streamAt t.chip st.val).state = 1

/-- The stream is FAULTED with a code (R203). -/
def Stopped (t : State) (st : StreamId) (code : Nat) : Prop :=
  (streamAt t.chip st.val).state = 6 ∧ (streamAt t.chip st.val).code = BitVec.ofNat 8 code

/-- A name of the event table that an instruction of the warp may use (R219). -/
def goodName (c : Chip) (x : Warp) (sa : SReg) : Prop :=
  (sread x sa).toNat < 2 ^ 26 ∧
    (isLocal c ((sread x sa).setWidth 26) = true → inRange c x.part.toNat (evIdx ((sread x sa).setWidth 26)) = true)

/-- What a register-only instruction of a warp leaves: every other vector register but those that its last-read bits free,
scalar registers and predicates unless it names one, and everything else that software can name: flags, Coils, special
registers, memory, the other warps, accumulators, tags, queues, device registers but the performance counters of its core,
events and streams. -/
def Keeps (s t : State) (x y : Warp) (dst last : List Nat) (ss : List SReg) (ps : List PReg) : Prop :=
  (∀ n, n ∉ dst → n ∉ last → sget y.v n = sget x.v n) ∧ (∀ n, n ∉ ss → sread y n = sread x n)
    ∧ (∀ n k, n ∉ ps → pread y (.p n) k = pread x (.p n) k)
    ∧ y.flags = x.flags ∧ y.coil = x.coil ∧ y.csp = x.csp ∧ y.coilDep = x.coilDep ∧ y.tcmp = x.tcmp ∧ y.tvec = x.tvec
    ∧ y.tepc = x.tepc ∧ y.tcause = x.tcause ∧ y.rngLo = x.rngLo ∧ y.rngHi = x.rngHi ∧ y.fpctl = x.fpctl
    ∧ y.headroom = x.headroom ∧ y.regions = x.regions ∧ y.rgnDepth = x.rgnDepth ∧ y.stage = x.stage ∧ y.kernel = x.kernel
    ∧ (∀ k, t.byte k = s.byte k) ∧ (∀ u, u ≠ s.warpNo → sget t.chip.warps u = sget s.chip.warps u)
    ∧ (∀ k, (coreAt t.chip k).acc = (coreAt s.chip k).acc ∧ (coreAt t.chip k).tags = (coreAt s.chip k).tags
        ∧ (coreAt t.chip k).queues = (coreAt s.chip k).queues ∧ (coreAt t.chip k).phase = (coreAt s.chip k).phase)
    ∧ (∀ n, (∀ i < 16, n ≠ rPmc (coreOf s.warpNo) i ∧ n ≠ rPmSel (coreOf s.warpNo) i) → dev t.chip n = dev s.chip n)
    ∧ t.chip.events = s.chip.events ∧ t.chip.streams = s.chip.streams

/-- A warp's turn brings nothing about but its issue: it is eligible, not counted, or stalled with no line to request (R26, R266). -/
def calm (l : Look) : Bool :=
  match l with
  | .ready _ _ _ _ => true
  | .absent => true
  | .stall _ none => true
  | _ => false

/-! ## Arithmetic of the rules -/

/-- sat_s32 (R97). -/
def satS32 (v : Int) : W32 := BitVec.ofInt 32 (if v < -2147483648 then -2147483648 else if 2147483647 < v then 2147483647 else v)

/-- 32-bit results of two sources by form: the prefix fields each admits, and its result under SAT or not. -/
def intTwoSource : List ((VOps → Instr) × Allow × (Bool → W32 → W32 → W32)) :=
  [(.iadd, { sat := true }, fun sat a b => if sat then satS32 (a.toInt + b.toInt) else a + b),
   (.isub, { sat := true }, fun sat a b => if sat then satS32 (a.toInt - b.toInt) else a - b),
   (.imul, { sat := true }, fun sat a b => if sat then satS32 (a.toInt * b.toInt) else a * b),
   (.imulh, {}, fun _ a b => ((a.signExtend 64 * b.signExtend 64) >>> 32).setWidth 32),
   (.umulh, {}, fun _ a b => ((a.setWidth 64 * b.setWidth 64) >>> 32).setWidth 32),
   (.imin, {}, fun _ a b => if a.slt b then a else b),
   (.imax, {}, fun _ a b => if a.slt b then b else a),
   (.umin, {}, fun _ a b => if a.ult b then a else b),
   (.umax, {}, fun _ a b => if a.ult b then b else a),
   (.and, {}, fun _ a b => a &&& b),
   (.or, {}, fun _ a b => a ||| b),
   (.xor, {}, fun _ a b => a ^^^ b),
   (.andn, {}, fun _ a b => a &&& ~~~b),
   (.shl, {}, fun _ a b => a <<< (b &&& 31)),
   (.shr, {}, fun _ a b => a >>> (b &&& 31)),
   (.sar, {}, fun _ a b => a.sshiftRight (b &&& 31).toNat),
   (.rot, {}, fun _ a b => a.rotateLeft (b &&& 31).toNat),
   (.bfx, {}, fun _ a b => (a >>> (b &&& 31)) &&& ((((1 : W32) <<< ((b >>> 8) &&& 31)) <<< 1) - 1)),
   (.bfxs, {}, fun _ a b =>
      let len := ((b >>> 8) &&& 31).toNat + 1
      (((a.sshiftRight (b &&& 31).toNat) <<< (32 - len)).sshiftRight (32 - len))),
   (.idiv, {}, fun _ a b => if b = 0 then (if a.slt 0 then (1 : W32) else -1) else a.sdiv b),
   (.udiv, {}, fun _ a b => if b = 0 then 0xFFFFFFFF else a / b)]

/-- 32-bit results of one source by form. -/
def intOneSource : List ((UnOps → Instr) × (W32 → W32)) :=
  [(.popc, fun a => BitVec.ofNat 32 ((List.range 32).countP fun i => a.getLsbD i)),
   (.clz, fun a => a.clz),
   (.ctz, fun a => a.ctz),
   (.brev, fun a => a.reverse),
   (.mov, fun a => a)]

/-- The mask of a bit field's len ones (R299). -/
def fieldMask (b : W32) : W32 := (((1 : W32) <<< ((b >>> 8) &&& 31)) <<< 1) - 1

/-- Comparisons by condition code (R63). -/
def intConditions (n : Nat) : List (BitVec n → BitVec n → Bool) :=
  [fun a b => a == b, fun a b => a != b, fun a b => a.slt b, fun a b => a.sle b, fun a b => b.slt a, fun a b => b.sle a,
   fun a b => a.ult b, fun a b => b.ule a]

/-- 64-bit results on bit addresses with a 32-bit B, by form; the third operand is the element width (R284). -/
def pointerNarrow : List ((PairOps → Instr) × (W64 → W32 → Nat → W64)) :=
  [(.aidx, fun a b w => a + b.signExtend 64 * BitVec.ofNat 64 w),
   (.aidxu, fun a b w => a + b.setWidth 64 * BitVec.ofNat 64 w),
   (.algn, fun a b w => BitVec.ofNat 64 ((a.toNat + b.toNat) / w * w)),
   (.b2a, fun a b w => 8 * a + b.signExtend 64 * BitVec.ofNat 64 w),
   (.a2b, fun a b w => (a + b.signExtend 64 * BitVec.ofNat 64 w) >>> 3)]

/-- As `pointerNarrow`, with a 64-bit B. -/
def pointerWide : List ((PairOps → Instr) × (W64 → W64 → Nat → W64)) :=
  [(.adif, fun a b w => (a - b).sdiv (BitVec.ofNat 64 w)),
   (.aadd, fun a b w => a + b * BitVec.ofNat 64 w),
   (.asub, fun a b w => a - b * BitVec.ofNat 64 w)]

/-- The scalar pointer forms (R383). -/
def pointerScalar : List ((SaOps → Instr) × (W64 → W64 → Nat → W64)) :=
  [(.saidx, fun a b w => a + b * BitVec.ofNat 64 w),
   (.salgn, fun a b w => BitVec.ofNat 64 ((a.toNat + b.toNat) / w * w)),
   (.sb2a, fun a b w => 8 * a + b * BitVec.ofNat 64 w),
   (.sa2b, fun a b w => (a + b * BitVec.ofNat 64 w) >>> 3)]

/-- 64-bit scalar results, in the register and the immediate form (R384). -/
def scalarForms : List ((SOps → Instr) × (SImmOps → Instr) × (W64 → W64 → W64)) :=
  [(.sadd, .saddImm, fun a b => a + b),
   (.ssub, .ssubImm, fun a b => a - b),
   (.smul, .smulImm, fun a b => a * b),
   (.smulh, .smulhImm, fun a b => ((a.signExtend 128 * b.signExtend 128) >>> 64).setWidth 64),
   (.sand, .sandImm, fun a b => a &&& b),
   (.sor, .sorImm, fun a b => a ||| b),
   (.sxor, .sxorImm, fun a b => a ^^^ b),
   (.sshl, .sshlImm, fun a b => a <<< (b &&& 63)),
   (.sshr, .sshrImm, fun a b => a >>> (b &&& 63)),
   (.ssar, .ssarImm, fun a b => a.sshiftRight (b &&& 63).toNat),
   (.smin, .sminImm, fun a b => if a.slt b then a else b),
   (.smax, .smaxImm, fun a b => if a.slt b then b else a),
   (.sminu, .sminuImm, fun a b => if a.ult b then a else b),
   (.smaxu, .smaxuImm, fun a b => if a.ult b then b else a),
   (.sdivu, .sdivuImm, fun a b => if b = 0 then BitVec.allOnes 64 else a / b),
   (.smov, .smovImm, fun _ b => b)]

/-- The 16-bit integer forms with the 32-bit forms they abbreviate (R56). -/
def compactForms : List ((COps → Instr) × (VOps → Instr)) :=
  [(.iaddC, .iadd), (.isubC, .isub), (.imulC, .imul), (.andC, .and), (.orC, .or), (.xorC, .xor), (.shlC, .shl),
   (.shrC, .shr), (.iminC, .imin), (.imaxC, .imax), (.faddC, .fadd), (.fsubC, .fsub), (.fmulC, .fmul), (.fminC, .fmin),
   (.fmaxC, .fmax)]

/-- FP32 arithmetic of two sources: the prefix fields each form admits, and its result under a rounding and SAT (R318,
R331, R332). -/
def fp32Forms : List ((VOps → Instr) × Allow × (Rnd → Bool → W32 → W32 → Nat × Flags)) :=
  [(.fadd, { rnd := true, sat := true }, fun r sat a b =>
      finish fp32 r sat (exactAdd r (decodeFmt fp32 a.toNat) (decodeFmt fp32 b.toNat))),
   (.fsub, { rnd := true, sat := true }, fun r sat a b =>
      finish fp32 r sat (exactAdd r (decodeFmt fp32 a.toNat) (decodeFmt fp32 b.toNat).neg)),
   (.fmul, { rnd := true, sat := true }, fun r sat a b =>
      finish fp32 r sat (exactMul (decodeFmt fp32 a.toNat) (decodeFmt fp32 b.toNat))),
   (.fmin, {}, fun _ _ a b => pickNum fp32 false false a.toNat b.toNat),
   (.fmax, {}, fun _ _ a b => pickNum fp32 true false a.toNat b.toNat),
   (.fminn, {}, fun _ _ a b => pickNum fp32 false true a.toNat b.toNat),
   (.fmaxn, {}, fun _ _ a b => pickNum fp32 true true a.toNat b.toNat),
   (.fldexp, {}, fun r _ a b => scaleBy r a.toNat b.toInt)]

/-- Packed arithmetic of two sources, element by element (R294, R337). -/
def packedForms : List ((VOps → Instr) × (Rnd → Bool → Nat → Nat → Nat × Flags)) :=
  [(.badd2, fun r sat a b => finish bf16 r sat (exactAdd r (decodeFmt bf16 a) (decodeFmt bf16 b))),
   (.bmul2, fun r sat a b => finish bf16 r sat (exactMul (decodeFmt bf16 a) (decodeFmt bf16 b))),
   (.bmax2, fun _ _ a b => pickNum bf16 true false a b),
   (.hadd2, fun r sat a b => finish fp16 r sat (exactAdd r (decodeFmt fp16 a) (decodeFmt fp16 b))),
   (.hmul2, fun r sat a b => finish fp16 r sat (exactMul (decodeFmt fp16 a) (decodeFmt fp16 b))),
   (.hmax2, fun _ _ a b => pickNum fp16 true false a b)]

/-- The special functions (R323). -/
def sfuForms : List ((UnOps → Instr) × Sfu) :=
  [(.frcp, .rcp), (.frsq, .rsq), (.fsqrt, .sqrt), (.fexp2, .exp2), (.flog2, .log2), (.fsin, .sin), (.fcos, .cos),
   (.ftanh, .tanh)]

end Sys2Proof.Machine
end

