-- ==== Sys2Proof/Certificates/Slice0/Obligations.lean ====
section
/-!
DEFINITION. Sys2Proof/Certificates/Slice0/Obligations.lean: the statements for the provers.
-/

open Sys2Proof Sys2Proof.Machine

/-! ## The machine as a whole -/

/-- Memory keeps its canonical form over every step. -/
def Obligations.StepKeepsCanonicalMemory : Prop :=
  ∀ s t : State, s.Canonical → step s = .next t → t.Canonical

/-- Decoding undoes encoding: the bytes of every well-formed instruction that has a word decode to it, and to the length
the encoding tables give (R47, R56 to R68). -/
def Obligations.DecodeUndoesEncode : Prop :=
  ∀ (i : Instr) (n w : Nat) (rest : List Byte), wellFormed i = true → encodeWord i = some (n, w) →
    decode (encode i ++ rest) = .ok (i, n / 8)

/-- A word that decodes is the word of the instruction it decodes to: no two words are one instruction, and no bit is
dropped (R71). -/
def Obligations.DecodedWordsAreEncodings : Prop :=
  (∀ (w : BitVec 32) (i : Instr), decode (toBytes 4 w.toNat) = .ok (i, 4) →
    wellFormed i = true ∧ encodeWord i = some (32, w.toNat))
  ∧ ∀ (h : BitVec 16), h.toNat % 2 = 0 → ∃ i, decode (toBytes 2 h.toNat) = .ok (i, 2) ∧ wellFormed i = true ∧
    encodeWord i = some (16, h.toNat)

/-! ## Vector instructions on 32-bit values -/

/-- R340, R346, R410, R411, R289, R366, R414, R382, R386, R299, R344 and R409: the result of each instruction of two sources,
in every thread that executes, for every value of its operands. -/
def Obligations.IntegerTwoSourceResults : Prop :=
  ∀ r ∈ intTwoSource, ∀ (o : VOps) (s : State) (x : Warp) (b : Body), s.Executes x b (some r.2.1) [o.d.val] →
    s.Writes (r.1 o) x b o.d.val fun t => r.2.2 (satNow s) (opd32 x o.a t) (opd32 x o.b t)

/-- R299 (BFI), R301, R310, R334, R345, R357 to R359, R371, R382 and R386: the counts, the reversal and the moves; shifts by an
immediate, funnel shifts, and the moves of immediates and of pairs; the instructions that read their old D, or the prefix's
C. -/
def Obligations.MoveAndShiftResults : Prop :=
  (∀ r ∈ intOneSource, ∀ (o : UnOps) (s : State) (x : Warp) (b : Body), s.Executes x b (some {}) [o.d.val] →
     s.Writes (r.1 o) x b o.d.val fun t => r.2 (opd32 x o.a t))
  ∧ (∀ (s : State) (x : Warp) (b : Body),
       (∀ o : ShOps, s.Executes x b (some {}) [o.d.val] →
         s.Writes (.shlImm o) x b o.d.val (fun t => opd32 x o.a t <<< o.sh.val)
         ∧ s.Writes (.shrImm o) x b o.d.val (fun t => opd32 x o.a t >>> o.sh.val)
         ∧ s.Writes (.sarImm o) x b o.d.val (fun t => (opd32 x o.a t).sshiftRight o.sh.val)
         ∧ s.Writes (.rotImm o) x b o.d.val (fun t => (opd32 x o.a t).rotateLeft o.sh.val))
       ∧ (∀ o : FunOps, s.Executes x b (some {}) [o.d.val] →
         s.Writes (.fshl o) x b o.d.val (fun t => (((vread x o.a.val t ++ vread x o.b.val t : W64) <<< o.sh.val) >>> 32).setWidth 32)
         ∧ s.Writes (.fshr o) x b o.d.val (fun t => ((vread x o.a.val t ++ vread x o.b.val t : W64) >>> o.sh.val).setWidth 32))
       ∧ (∀ o : ImmOps, s.Executes x b (some {}) [o.d.val] →
         s.Writes (.movil o) x b o.d.val (fun _ => BitVec.ofNat 32 o.imm.val)
         ∧ s.Writes (.movih o) x b o.d.val (fun t => BitVec.ofNat 16 o.imm.val ++ (vread x o.d.val t).setWidth 16)
         ∧ s.Writes (.movis o) x b o.d.val (fun _ => (BitVec.ofNat 16 o.imm.val).signExtend 32)
         ∧ s.Writes (.movif o) x b o.d.val (fun _ => BitVec.ofNat 16 o.imm.val ++ (0 : BitVec 16)))
       ∧ (∀ o : UnOps, s.Executes x b (some {}) [o.d.val, o.d.val + 1] →
         s.WritesPair (.mov64 o) x b o.d.val fun t => opd64 x o.a t))
  ∧ (∀ (s : State) (x : Warp) (b : Body),
       (∀ o : VOps, s.Executes x b (some {}) [o.d.val] → s.Writes (.bfi o) x b o.d.val fun t =>
         let p := opd32 x o.b t
         let m := fieldMask p <<< (p &&& 31)
         (vread x o.d.val t &&& ~~~m) ||| ((opd32 x o.a t <<< (p &&& 31)) &&& m))
       ∧ (∀ o : VOps, s.Executes x b (some { sat := true, c := true }) [o.d.val] → s.Writes (.imad o) x b o.d.val fun t =>
         let c := match s.chip.cur.pfx with
           | some q => opd32 x q.c t
           | none => vread x o.d.val t
         if satNow s then satS32 ((opd32 x o.a t).toInt * (opd32 x o.b t).toInt + c.toInt)
         else opd32 x o.a t * opd32 x o.b t + c)
       ∧ (∀ o : LutOps, s.Executes x b (some {}) [o.d.val] → s.Gives (.lut3 o) fun _ y =>
         ∀ k, lane (actOf s x b) k = true → ∀ j : Fin 32, lane (vread y o.d.val k) j =
           bit o.tbl.val (4 * b1 (lane (vread x o.a.val k) j) + 2 * b1 (lane (vread x o.b.val k) j) + b1 (lane (vread x o.d.val k) j))))

/-- R289, R366, R411 and R414, each whole: AND, ANDN, OR, XOR and UMULH: the format, MAJ and FN of every operand, the value of
every operand (an s code supplies its low 32 bits), the 16-bit forms, the prefix fields admitted, the latency of 4 cycles,
the occupancy of R21, and the words that the rules give. -/
def Obligations.LogicalRules : Prop :=
  let rules : List ((VOps → Instr) × Nat × Nat × (W32 → W32 → W32)) :=
    [(.and, 2, 0, fun a b => a &&& b), (.or, 2, 1, fun a b => a ||| b), (.xor, 2, 2, fun a b => a ^^^ b),
     (.andn, 2, 3, fun a b => a &&& ~~~b), (.umulh, 6, 1, fun a b => BitVec.ofNat 32 (a.toNat * b.toNat / 2 ^ 32))]
  (∀ r ∈ rules, ∀ o : VOps,
     encodeWord (r.1 o) = some (32, 1 + r.2.1 * 2 + r.2.2.1 * 2 ^ 7 + o.d.val * 2 ^ 9 + o.a.code * 2 ^ 16 + o.b.code * 2 ^ 23
       + b1 o.a.last * 2 ^ 30 + b1 o.b.last * 2 ^ 31)
     ∧ ∀ (s : State) (x : Warp) (b : Body),
       let act := actOf s x b
       let zero := zeroOf s x b
       let occ := occupancy .lanes (bankCost (usesOf (r.1 o) s.chip.cur.pfx).src) act
       (s.Executes x b (some {}) [o.d.val] → s.Gives (r.1 o) fun u y =>
         Wrote x y act zero o.d.val (fun t => r.2.2.2 (opd32 x o.a t) (opd32 x o.b t))
         ∧ (act ||| zero ≠ 0 → sget y.ready o.d.val = some (some (s.chip.cycle + max 4 occ)))
         ∧ (s.warpNo < 24576 → (sliceAt u.chip (coreOf s.warpNo) (sliceOf s.warpNo)).busy = s.chip.cycle + occ))
       ∧ (s.Runs x b → s.CanTrap x → (∃ q, s.chip.cur.pfx = some q ∧ Allow.ok {} q = false) → s.Faults (r.1 o) x b))
  ∧ (∀ (x : Warp) (t : Fin 32) (n : VReg) (l : Bool), opd32 x (.v n l) t = vread x n.val t)
  ∧ (∀ (x : Warp) (t : Fin 32) (n : SReg), opd32 x (.s n) t = (sread x n).setWidth 32)
  ∧ (∀ (r : (COps → Instr) × Nat × (W32 → W32 → W32)),
       r ∈ ([(.andC, 3, fun a b => a &&& b), (.orC, 4, fun a b => a ||| b), (.xorC, 5, fun a b => a ^^^ b)] :
         List ((COps → Instr) × Nat × (W32 → W32 → W32))) → ∀ o : COps,
       encodeWord (r.1 o) = some (16, r.2.1 * 2 + o.d.val * 2 ^ 5 + o.b.val * 2 ^ 10 + b1 o.lb * 2 ^ 15)
       ∧ ∀ (s : State) (x : Warp) (b : Body), s.Executes x b none [o.d.val] →
         s.Writes (r.1 o) x b o.d.val fun t => r.2.2 (vread x o.d.val t) (vread x o.b.val t))
  ∧ decodeTableWord 32 0x71010785 = some (.andn ⟨3, .v 1 true, .s 2⟩)
  ∧ decodeTableWord 32 0x01010685 = some (.or ⟨3, .v 1 false, .v 2 false⟩)
  ∧ decodeTableWord 16 0x0868 = some (.orC ⟨3, 2, false⟩)
  ∧ decodeTableWord 32 0x01010705 = some (.xor ⟨3, .v 1 false, .v 2 false⟩)
  ∧ decodeTableWord 16 0x086A = some (.xorC ⟨3, 2, false⟩)
  ∧ decodeTableWord 32 0x01820E8D = some (.umulh ⟨7, .v 2 false, .v 3 false⟩)

/-- R284: the pointer family, in every form and element width; a prefix before one is no instruction (R62). -/
def Obligations.PointerResults : Prop :=
  ∀ (o : PairOps) (s : State) (x : Warp) (b : Body), s.Executes x b none [2 * o.d.val, 2 * o.d.val + 1] →
    (∀ r ∈ pointerNarrow, s.WritesPair (r.1 o) x b (2 * o.d.val) fun t =>
      r.2 (pair64 x (2 * o.a.val) t) (src32 x o.b t) (wcWidth o.wc.val))
    ∧ (∀ r ∈ pointerWide, s.WritesPair (r.1 o) x b (2 * o.d.val) fun t =>
      r.2 (pair64 x (2 * o.a.val) t) (src64 x o.b t) (wcWidth o.wc.val))

/-- R312, R343, R367, R370, R392, R412: comparisons, predicates and selection, in every active thread. -/
def Obligations.PredicateResults : Prop :=
  ∀ (s : State) (x : Warp) (b : Body), s.Executes x b none [] →
    (∀ (o : CmpOps) (f : W32 → W32 → Bool), (intConditions 32)[o.cond.val]? = some f →
      s.WritesP (.icmp o) x b o.p fun t => f (opd32 x o.a t) (opd32 x o.b t))
    ∧ (∀ o : PlopOps, s.WritesP (.plop o) x b o.pd fun t => bit o.tbl.val (2 * b1 (pread x o.pa t) + b1 (pread x o.pb t)))
    ∧ (∀ p a, s.WritesP (.v2p p a) x b p fun t => src32 x a t != 0)
    ∧ (∀ p, s.WritesP (.elect p) x b p fun t => (List.finRange 32).all fun u => !lane b.mask u || decide (t ≤ u))
    ∧ (∀ (d : VReg), s.Room x b [d.val] →
      (∀ p, s.Writes (.p2v d p) x b d.val fun t => if pread x p t then 1 else 0)
      ∧ (∀ p a, s.Writes (.pbal d p a) x b d.val fun t => BitVec.ofNat 32
        ((List.finRange 32).countP fun u => lane b.mask u && pread x p u && lane (src32 x a t) u)))
    ∧ (∀ o : SelOps, s.Room x b [o.d.val] →
      s.Writes (.sel o) x b o.d.val fun t => if pread x o.p t then vread x o.a.val t else vread x o.b.val t)

/-- R56, R341: a 16-bit instruction does what the 32-bit instruction it abbreviates does, and MOV.C moves. -/
def Obligations.CompactFormsAbbreviate : Prop :=
  ∀ (o : COps) (s : State) (x : Warp) (b : Body), s.Executes x b none [o.d.val] →
    (∀ r ∈ compactForms, ∃ t, exec (r.1 o) s = .next t ∧ exec (r.2 (wide o)) s = .next t)
    ∧ s.Writes (.movC o) x b o.d.val fun t => vread x o.b.val t

/-! ## Floating-point instructions -/

/-- R318, R331 and R332: each FP32 result of two sources is the exact result rounded once, with its flags in FPSTAT. -/
def Obligations.Fp32TwoSourceResults : Prop :=
  ∀ r ∈ fp32Forms, ∀ (o : VOps) (s : State) (x : Warp) (b : Body), s.Executes x b (some r.2.1) [o.d.val] →
    s.WritesFp (r.1 o) x b o.d.val fun t => pat (r.2.2 (rounding s x t 0) (satNow s) (opd32 x o.a t) (opd32 x o.b t))

/-- R294, R318, R337: packed results, element by element, each rounded once; the fused multiply-adds round once, and take
the prefix's C for the old D (R62). -/
def Obligations.PackedAndFusedResults : Prop :=
  (∀ r ∈ packedForms, ∀ (o : VOps) (s : State) (x : Warp) (b : Body),
     s.Executes x b (some { rnd := true, sat := true }) [o.d.val] →
     s.WritesFp (r.1 o) x b o.d.val fun t => both fun e =>
       r.2 (rounding s x t e) (satNow s) (half (opd32 x o.a t) e) (half (opd32 x o.b t) e))
  ∧ (∀ (o : VOps) (s : State) (x : Warp) (b : Body),
       s.Executes x b (some { rnd := true, sat := true, c := true }) [o.d.val] →
       let c := fun t => match s.chip.cur.pfx with
         | some q => opd32 x q.c t
         | none => vread x o.d.val t
       let fma := fun (f : Fmt) (r : Rnd) (x y z : Nat) =>
         finish f r (satNow s) (exactFma r (decodeFmt f x) (decodeFmt f y) (decodeFmt f z))
       s.WritesFp (.ffma o) x b o.d.val (fun t =>
           pat (fma fp32 (rounding s x t 0) (opd32 x o.a t).toNat (opd32 x o.b t).toNat (c t).toNat))
         ∧ s.WritesFp (.bfma2 o) x b o.d.val (fun t => both fun e =>
           fma bf16 (rounding s x t e) (half (opd32 x o.a t) e) (half (opd32 x o.b t) e) (half (c t) e))
         ∧ s.WritesFp (.hfma2 o) x b o.d.val (fun t => both fun e =>
           fma fp16 (rounding s x t e) (half (opd32 x o.a t) e) (half (opd32 x o.b t) e) (half (c t) e)))

/-- R102, R323: a special function writes the rounding of its value, with its flags. The value of the functions that no
finite sum gives is taken to 640 bits from below (log 43). -/
def Obligations.SpecialFunctionResults : Prop :=
  ∀ r ∈ sfuForms, ∀ (o : UnOps) (s : State) (x : Warp) (b : Body), s.Executes x b (some { rnd := true }) [o.d.val] →
    s.WritesFp (r.1 o) x b o.d.val fun t => pat (sfu r.2 (rounding s x t 0) (opd32 x o.a t).toNat)

/-- R320, R321, R324, R325, R331: conversions, rounding to a whole value, the fraction, the class and the comparison; a NaN
converted to an integer gives 0 and sets NV, under every rounding (R96, R97). -/
def Obligations.ConversionResults : Prop :=
  (∀ (s : State) (x : Warp) (b : Body),
     (∀ o : CvtOps, s.Executes x b (some { rnd := true, sat := true }) [o.d.val] →
       let f := fun (sat : Bool) (t : Fin 32) =>
         let a := (opd32 x o.a t).toNat
         pat (if o.toF32 then convFrom o.fmt.val (rounding s x t 0) a else convTo o.fmt.val (rounding s x t 0) sat a)
       s.WritesFp (.fcvt o) x b o.d.val (f (satNow s)) ∧ s.WritesFp (.fcvtSat o) x b o.d.val (f true))
     ∧ (∀ o : UnOps, s.Executes x b (some { rnd := true }) [o.d.val] →
       s.WritesFp (.frnd o) x b o.d.val fun t => pat (roundWhole (rounding s x t 0) (opd32 x o.a t).toNat))
     ∧ (∀ o : UnOps, s.Executes x b (some {}) [o.d.val] →
       s.WritesFp (.ffrac o) x b o.d.val (fun t => pat (fraction (opd32 x o.a t).toNat))
       ∧ s.Writes (.fclass o) x b o.d.val (fun t => BitVec.ofNat 32 (classOf (opd32 x o.a t).toNat)))
     ∧ (∀ o : CmpOps, s.Executes x b none [] → s.Gives (.fcmp o) fun _ y =>
       WroteP x y (actOf s x b) o.p (fun t => (fpCmp o.cond.val (opd32 x o.a t).toNat (opd32 x o.b t).toNat).1)
         ∧ y.fpstat = x.fpstat ||| (orFlags b.mask fun t =>
             (fpCmp o.cond.val (opd32 x o.a t).toNat (opd32 x o.b t).toNat).2).setWidth 32))
  ∧ (∀ (r : Rnd) (sat : Bool) (a : BitVec 32) (f : Nat), f = 14 ∨ f = 15 → (decodeFmt fp32 a.toNat).isNan = true →
       convTo f r sat a.toNat = (0, fNV))

/-- R363: packing, unpacking, extracting and inserting elements of narrow formats. -/
def Obligations.ElementResults : Prop :=
  ∀ (o : PackOps) (s : State) (x : Warp) (b : Body),
    (s.Executes x b (some { rnd := true, sat := true }) [o.d.val] →
      s.WritesFp (.nins o) x b o.d.val (fun t =>
        let r := roundCode o.fmt.val (rounding s x t o.idx.val) (satNow s) (decodeFmt fp32 (src32 x o.a t).toNat)
        (setElem o.fmt.val (vread x o.d.val t) o.idx.val r.1, r.2))
      ∧ s.Gives (.npack o) fun _ y => ∀ t, lane (actOf s x b) t = true → ∀ e ≤ o.idx.val, wellFormed (.npack o) = true →
        elem o.fmt.val (vread y o.d.val t) e =
          (roundCode o.fmt.val (rounding s x t e) (satNow s) (decodeFmt fp32 (vread x (o.a.num + e) t).toNat)).1
            % 2 ^ fmtWidth o.fmt.val)
    ∧ (s.Executes x b (some {}) [o.d.val] →
      s.WritesFp (.next o) x b o.d.val fun t => pat (dec o.fmt.val (elem o.fmt.val (src32 x o.a t) o.idx.val)))
    ∧ (s.Executes x b (some {}) (regRun o.d.val (o.idx.val + 1)) → s.Gives (.nunpk o) fun _ y =>
      ∀ e ≤ o.idx.val, ∀ t, lane (actOf s x b) t = true →
        vread y (o.d.val + e) t = BitVec.ofNat 32 (dec o.fmt.val (elem o.fmt.val (src32 x o.a t) e)).1)

/-- R100, R101, R376: what the generator's instructions write, and when its counter advances. -/
def Obligations.GeneratorResults : Prop :=
  ∀ (s : State) (x : Warp) (b : Body),
    (∀ d : VReg, s.Executes x b (some {}) [d.val] →
      (s.Gives (.rand d) fun _ y => Wrote x y (actOf s x b) (zeroOf s x b) d.val (fun t => draw32 x.rngLo x.rngHi x.rngCtr t.val)
        ∧ y.rngCtr = x.rngCtr + 1 ∧ y.rngLo = x.rngLo ∧ y.rngHi = x.rngHi)
      ∧ (s.Gives (.randf d) fun _ y => y.rngCtr = x.rngCtr + 1 ∧ y.fpstat = x.fpstat ∧
        Wrote x y (actOf s x b) (zeroOf s x b) d.val fun t => BitVec.ofNat 32 (roundFmt fp32 rne false
          (.fin false ((draw32 x.rngLo x.rngHi x.rngCtr t.val).toNat / 256) (-24) false)).1))
    ∧ (∀ (a c : Opd) (t : Fin 32), s.Executes x b (some {}) [] → lowest (actOf s x b) = some t →
      (s.Gives (.rseed a c) fun _ y => y.rngLo = opd32 x a t ∧ y.rngHi = opd32 x c t ∧ y.rngCtr = 0)
      ∧ (s.Gives (.rskip a) fun _ y => y.rngCtr = x.rngCtr + opd32 x a t))

/-! ## Cross-lane instructions -/

/-- R250, R393, R413, R415: SHFL, XPUSH and VOTE among their members, where they do not wait or their members stand in the
entry. -/
def Obligations.CrossLaneResults : Prop :=
  ∀ (s : State) (x : Warp) (b : Body), (waits s.chip.cur.pfx = true → membersOf x s.chip.cur.pfx &&& ~~~b.mask = 0) →
    let mem := membersOf x s.chip.cur.pfx
    let act := actOf s x b
    (∀ o : VOps, s.Executes x b (some crossAllow) [o.d.val] →
      let shfl := fun (i : Instr) (src : Nat → Nat → Nat) => s.Gives i fun _ y =>
        Wrote x y (act &&& mem) (zeroOf s x b) o.d.val fun t =>
          let u : Fin 32 := Fin.ofNat 32 (src t.val ((opd32 x o.b t).toNat % 32))
          if lane mem u then opd32 x o.a u else opd32 x o.a t
      shfl (.shflIdx o) (fun _ n => n) ∧ shfl (.shflUp o) (fun t n => if t < n then t else t - n)
      ∧ shfl (.shflDn o) (fun t n => if 31 < t + n then t else t + n) ∧ shfl (.shflXor o) (fun t n => t ^^^ n)
      ∧ (s.Gives (.xpush o) fun _ y => ∀ t : Fin 32, lane (zeroOf s x b) t = false →
        let hits := fun (u : Fin 32) => lane act u && lane mem u && decide ((opd32 x o.b u).toNat % 32 = t.val)
        (∀ u, hits u = true → (∀ v, u < v → hits v = false) → lane (act &&& mem) t = true → vread y o.d.val t = opd32 x o.a u)
        ∧ ((∀ u, hits u = false) → vread y o.d.val t = vread x o.d.val t))
      ∧ s.Writes (.voteEq o) x b o.d.val fun t => mem &&& act &&& maskOf fun u => opd32 x o.a u == opd32 x o.b t)
    ∧ (∀ o : UnOps, s.Executes x b (some crossAllow) [o.d.val] →
      let yes := fun u => lane act u && opd32 x o.a u != 0
      s.Writes (.voteAll o) x b o.d.val (fun _ => if (List.finRange 32).all (fun u => !lane mem u || yes u) then 1 else 0)
      ∧ s.Writes (.voteAny o) x b o.d.val (fun _ => if (List.finRange 32).any (fun u => lane mem u && yes u) then 1 else 0)
      ∧ s.Writes (.voteBal o) x b o.d.val (fun _ => maskOf fun u => lane mem u && yes u))

/-- R88, R378, R379, R389, R390: reductions and scans combine the operands of the active members, the identity elsewhere, and a
NaN result of the floating-point ones is the canonical NaN, that of a single operand too. -/
def Obligations.ReductionResults : Prop :=
  ∀ (o : RedOps) (s : State) (x : Warp) (b : Body), (waits s.chip.cur.pfx = true → membersOf x s.chip.cur.pfx &&& ~~~b.mask = 0) →
    s.Executes x b (some (redAllow o.op.val)) [o.d.val] →
    let l := redInput x o (actOf s x b) (membersOf x s.chip.cur.pfx)
    let nan := fun (v : W32) => if 8 ≤ o.op.val ∧ (decodeFmt fp32 v.toNat).isNan = true then (0x7FC00000 : W32) else v
    (o.op.val ≠ 8 →
      s.Writes (.redux o) x b o.d.val (fun _ => l.tail.foldl (fun a c => (redStep o.op.val a c).1) (l.headD 0))
      ∧ s.Writes (.scan o) x b o.d.val (fun t => nan ((l.tail.take t.val).foldl (fun a c => (redStep o.op.val a c).1) (l.headD 0)))
      ∧ s.Writes (.scanX o) x b o.d.val (fun t => if t.val = 0 then redIdentity o.op.val
          else nan ((l.tail.take (t.val - 1)).foldl (fun a c => (redStep o.op.val a c).1) (l.headD 0))))
    ∧ (o.op.val = 8 →
      (∀ t < 32, (decodeFmt fp32 (((scanAll (aluIn s x b) 8 l).1.getD t 0)).toNat).isNan = true →
        (scanAll (aluIn s x b) 8 l).1.getD t 0 = 0x7FC00000)
      ∧ s.Writes (.redux o) x b o.d.val (fun _ => (reduce (aluIn s x b) 8 l).1)
      ∧ s.Writes (.scan o) x b o.d.val (fun t => (scanAll (aluIn s x b) 8 l).1.getD t.val 0)
      ∧ s.Writes (.scanX o) x b o.d.val (fun t => if t.val = 0 then redIdentity 8
          else (scanAll (aluIn s x b) 8 l).1.getD (t.val - 1) 0))

/-! ## Scalar instructions -/

/-- R5, R66, R377, R383, R384, R391, R395: every scalar operation in its register and its immediate form writes SD once for
the warp, and s0 stays zero; the scalar pointer family, SMOVI, SCMP and the reads of one thread. -/
def Obligations.ScalarResults : Prop :=
  (∀ r ∈ scalarForms, ∀ (s : State) (x : Warp) (b : Body), s.Runs x b → s.Bare →
     (∀ o : SOps, s.WritesS (r.1 o) x o.sd (r.2.2 (sread x o.sa) (sread x o.sb)))
     ∧ (∀ o : SImmOps, s.WritesS (r.2.1 o) x o.sd (r.2.2 (sread x o.sa) ((BitVec.ofNat 10 o.imm.val).signExtend 64))))
  ∧ (∀ (s : State) (x : Warp) (b : Body), s.Runs x b → s.Bare →
       (∀ r ∈ pointerScalar, ∀ o : SaOps, s.WritesS (r.1 o) x o.sd (r.2 (sread x o.sa) (sread x o.sb) (wcWidth o.wc.val)))
       ∧ (∀ (sd : SReg) (n : Fin 65536),
         let v := sread x sd
         let k := BitVec.ofNat 16 n.val
         s.WritesS (.smoviZ sd n) x sd (k.setWidth 64)
         ∧ s.WritesS (.smoviH1 sd n) x sd (v.extractLsb' 32 32 ++ k ++ v.extractLsb' 0 16)
         ∧ s.WritesS (.smoviH2 sd n) x sd (v.extractLsb' 48 16 ++ k ++ v.extractLsb' 0 32)
         ∧ s.WritesS (.smoviH3 sd n) x sd (k ++ v.extractLsb' 0 48))
       ∧ (∀ (o : ScmpOps) (f : W64 → W64 → Bool), (intConditions 64)[o.cond.val]? = some f →
         s.Gives (.scmp o) fun _ y => WroteP x y b.mask o.p fun _ => f (sread x o.sa) (sread x o.sb))
       ∧ (∀ (sd : SReg) (a : VReg),
         (∀ k : Fin 32, s.WritesS (.rdlane sd a k) x sd ((vread x a.val k).setWidth 64))
         ∧ (∀ k, lowest b.mask = some k → s.WritesS (.rdfirst sd a) x sd ((vread x a.val k).setWidth 64))))

/-! ## Special registers, the prefix and what suits an instruction -/

/-- R69, R257, R360 to R362: MOVSR writes the special register's value for each thread, and reading a low half latches the high
one (CONE_LO and its latch when the stamps of the cycle are issued); with no active thread MOVSR and MOVSW change nothing;
the registers that say where a thread is, and the halves of the 64-bit ones; MOVSW writes each writable register from the
lowest active thread, CSPL and CSPH by thread. That TCAUSE keeps [31:28] of what is written, and PHALLOW [7:0] alone, is the model's
choice (log 39). -/
def Obligations.SpecialRegisterResults : Prop :=
  (∀ (d : VReg) (n : Fin 43) (s : State) (x : Warp) (b : Body), s.Executes x b (some {}) [d.val] →
     let w := s.warpNo
     s.Gives (.movsr d n) fun t y =>
       (actOf s x b = 0 → y.v = x.v ∧ y.latches = x.latches)
       ∧ (actOf s x b ≠ 0 →
         (n.val ≠ 23 → Wrote x y (actOf s x b) (zeroOf s x b) d.val (sreg s.chip w x n.val))
         ∧ (n.val = 16 → y.latches.cycle = some (BitVec.ofNat 32 (s.chip.cycle / 2 ^ 32)))
         ∧ (n.val = 18 → y.latches.tcmp = some (x.tcmp.extractLsb' 32 32))
         ∧ (n.val = 23 → t.chip.stamps = s.chip.stamps ++ [(w, .coneLo w d.val (actOf s x b))])))
  ∧ (∀ (m : Memory) (c : Chip) (w d : Nat) (act : BitVec 32) (x : Warp), sget c.warps w = some x →
       c.stamps = [(w, .coneLo w d act)] → c.lastStamp ≠ BitVec.allOnes 64 →
       let u := settleStamps m c
       let stamp := max (c.conePhys.toNat * 2 ^ 16) (c.lastStamp.toNat + 1)
       u.lastStamp.toNat = stamp ∧ ∃ y, sget u.warps w = some y ∧ y.latches.cone = some (BitVec.ofNat 32 (stamp / 2 ^ 32))
         ∧ Wrote x y act 0 d fun _ => BitVec.ofNat 32 stamp)
  ∧ (∀ (c : Chip) (w : Nat) (x : Warp) (t : Fin 32), w < 24576 →
       let r := fun n => (sreg c w x n t).toNat
       r 0 = t.val ∧ r 1 = 4 * r 2 + w % 4 ∧ r 2 < 32 ∧ r 3 = w / 128 ∧ r 3 < 192 ∧ r 6 = x.part.toNat ∧ r 7 = b1 x.kernel
         ∧ r 26 = x.rgnDepth.toNat ∧ r 36 = x.fpstat.toNat
         ∧ (x.csp[t.val]).toNat = r 29 + 2 ^ 32 * r 30
         ∧ (x.latches.tcmp = none → x.tcmp.toNat = r 18 + 2 ^ 32 * r 19)
         ∧ (x.latches.cone = none → r 24 = c.lastStamp.toNat / 2 ^ 32))
  ∧ (∀ (n : Fin 43) (a : Opd) (s : State) (x : Warp) (b : Body) (k : Fin 32), s.Executes x b (some {}) [] →
       lowest (actOf s x b) = some k → (isRW n.val = true ∨ (isRK n.val = true ∧ x.kernel = true)) →
       let v := opd32 x a k
       s.Gives (.movsw n a) fun t y =>
         let core := coreAt t.chip (coreOf s.warpNo)
         let was := coreAt s.chip (coreOf s.warpNo)
         (n.val = 10 → core.tagBmp = was.tagBmp.extractLsb' 32 32 ++ v) ∧ (n.val = 11 → core.tagBmp = v ++ was.tagBmp.setWidth 32)
         ∧ (n.val = 18 → y.tcmp = x.tcmp.extractLsb' 32 32 ++ v) ∧ (n.val = 19 → y.tcmp = v ++ x.tcmp.setWidth 32)
         ∧ (n.val = 20 → y.tvec = v) ∧ (n.val = 21 → y.tepc = v) ∧ (n.val = 22 → y.tcause = v)
         ∧ (n.val = 27 → core.phase = v) ∧ (n.val = 28 → core.phAllow = v.setWidth 8)
         ∧ (∀ j, lane (actOf s x b) j = true →
           (n.val = 29 → y.csp[j.val] = (x.csp[j.val]).extractLsb' 32 32 ++ opd32 x a j)
           ∧ (n.val = 30 → y.csp[j.val] = opd32 x a j ++ (x.csp[j.val]).setWidth 32))
         ∧ (n.val = 32 → y.rngCtr = v) ∧ (n.val = 33 → y.rngLo = v) ∧ (n.val = 34 → y.rngHi = v)
         ∧ (n.val = 35 → (v &&& 7).toNat < 6 → y.fpctl = v &&& 7) ∧ (n.val = 36 → y.fpstat = v &&& 31))
  ∧ ∀ (n : Fin 43) (a : Opd) (s : State) (x : Warp) (b : Body), s.Executes x b (some {}) [] → actOf s x b = 0 →
       isRW n.val = true ∨ isRK n.val = true → s.Gives (.movsw n a) fun t y => SameSpecials x y ∧ y.flags = x.flags ∧ y.latches = x.latches
         ∧ (∀ k, k ∉ opdLast a → sget y.v k = sget x.v k)
         ∧ (coreAt t.chip (coreOf s.warpNo)).phase = (coreAt s.chip (coreOf s.warpNo)).phase
         ∧ (coreAt t.chip (coreOf s.warpNo)).phAllow = (coreAt s.chip (coreOf s.warpNo)).phAllow

/-- R35, R41, R51, R57, R64, R69, R71: precise faults with no effect: a MOVSW of a read-only register, and in worker mode,
where a thread is active, of a kernel-only one; a first write beyond the warp's share of a bank; what is no instruction; a
privileged instruction in worker mode; a branch to an address that is no header; a barrier or PHADV of a group of which the warp
is no member. -/
def Obligations.IllegalAndPrivilegedFaults : Prop :=
  (∀ (n : Fin 43) (a : Opd) (s : State) (x : Warp) (b : Body), s.Runs x b → s.CanTrap x → isRW n.val = false →
     (isRK n.val = true → actOf s x b ≠ 0) → s.Faults (.movsw n a) x b)
  ∧ (∀ (s : State) (x : Warp) (b : Body), s.Runs x b → s.CanTrap x →
       (∀ r ∈ intTwoSource, ∀ o : VOps, fits (some r.2.1) s.chip.cur.pfx = true → ¬s.Room x b [o.d.val] → s.Faults (r.1 o) x b)
       ∧ (∀ r ∈ pointerNarrow, ∀ o : PairOps, s.Bare → ¬s.Room x b [2 * o.d.val, 2 * o.d.val + 1] → s.Faults (r.1 o) x b)
       ∧ (∀ o : LdOps, s.Bare → exceeds x (regRun o.d.val (wcRegs o.wc.val)) = true → s.Faults (.ld o) x b))
  ∧ (∀ (s : State) (x : Warp) (b : Body), s.Runs x b → s.CanTrap x →
       s.Faults .encodingNotAnInstruction x b
       ∧ (s.Bare → (∀ sd sa n, s.Faults (.sysr sd sa n) x b) ∧ (∀ sd sa n, s.Faults (.sysw sd sa n) x b)
         ∧ (∀ sa k, s.Faults (.tlbi sa k) x b)
         ∧ (s.AtEnd b → s.Faults .halt x b ∧ s.Faults .kret x b)))
  ∧ (∀ (s : State) (x : Warp) (b : Body), s.Runs x b → s.Bare → s.AtEnd b → s.CanTrap x →
       (∀ a : Src, (∃ t, lane b.mask t = true ∧ ¬goodHeader (src64 x a t)) → s.Faults (.brx a) x b ∧ s.Faults (.callx a) x b))
  ∧ (∀ (g : Fin 256) (s : State) (x : Warp) (b : Body), s.Runs x b → s.CanTrap x → isMember s.chip s.warpNo g.val = false →
       s.Faults (.bara g) x b ∧ s.Faults (.bar g) x b ∧ s.Faults (.barw g) x b ∧ s.Faults (.phadv g) x b)

/-- R61, R62: the prefix governs the 32-bit instruction behind it: nothing but the issue's context changes; a second prefix,
one at the end of its body, or one whose fields do not suit what it governs, is a precise fault. -/
def Obligations.PrefixResults : Prop :=
  (∀ (o : Prefix) (s : State) (x : Warp) (b : Body), s.Runs x b →
     let c := s.chip.cur
     (s.Bare → c.next.toNat + 32 ≤ b.stop.toNat →
       (∀ h, fetchBits s.mem s.chip s.warpNo c.next 16 = .val h → h % 2 = 1) →
       ∃ t, exec (.pfx o) s = .next t ∧ t.chip = { s.chip with cur := { c with pfx := some o, pc := c.next }, wlog := [] })
     ∧ (s.CanTrap x → c.pfx.isSome = true ∨ b.stop.toNat < c.next.toNat + 32 → s.Faults (.pfx o) x b))
  ∧ (∀ (s : State) (x : Warp) (b : Body), s.Runs x b → s.CanTrap x →
       (∀ r ∈ intTwoSource, ∀ o, fits (some r.2.1) s.chip.cur.pfx = false → s.Faults (r.1 o) x b)
       ∧ (∀ r ∈ fp32Forms, ∀ o, fits (some r.2.1) s.chip.cur.pfx = false → s.Faults (r.1 o) x b)
       ∧ (∀ r ∈ pointerNarrow, ∀ o, ¬s.Bare → s.Faults (r.1 o) x b)
       ∧ (∀ r ∈ scalarForms, ∀ o, ¬s.Bare → s.Faults (r.1 o) x b)
       ∧ (∀ r ∈ compactForms, ∀ o, ¬s.Bare → s.Faults (r.1 o) x b)
       ∧ (∀ o, ¬s.Bare → s.Faults (.ld o) x b) ∧ (∀ o, ¬s.Bare → s.Faults (.st o) x b) ∧ (¬s.Bare → s.Faults .nop x b))

/-! ## Control transfers -/

/-- R30, R32, R33, R65, R302 to R307, R380: after a branch each thread of the entry stands at its destination; a destination that is no
header is a precise fault; a call whose Coils have room pushes the return header in each thread, and one that finds a full Coil waits
for its spills; a return pops it, waits for its refills where a Coil is empty and COILDEP is not 0, and takes threads with nothing to
return to out of the warp; in kernel mode such a thread stops the warp. -/
def Obligations.BranchAndCallResults : Prop :=
  (∀ (s : State) (x : Warp) (b : Body), s.Runs x b → s.Bare → s.AtEnd b →
     (∀ off : Fin 65536,
       let d := b.hdr + (BitVec.ofNat 16 off.val).signExtend 64 * 64
       goodHeader d →
       (s.Gives (.bra off) fun _ y => SameRegisters x y ∧ ∀ t, lane b.mask t = true → Stands y t d d b.kernel)
       ∧ ∀ (p : PReg) (neg : Bool), s.Gives (.brp p neg off) fun _ y => SameRegisters x y ∧ ∀ t, lane b.mask t = true →
         let go := if pread x (.p p) t != neg then d else nextHeader b.stop
         Stands y t go go b.kernel)
     ∧ (∀ a : Src, (∀ t, lane b.mask t = true → goodHeader (src64 x a t)) →
       s.Gives (.brx a) fun _ y => SameRegisters x y ∧
         ∀ t, lane b.mask t = true → Stands y t (src64 x a t) (src64 x a t) b.kernel)
     ∧ (∀ off : Fin 65536, b.mask ≠ 0 → ¬goodHeader (b.hdr + (BitVec.ofNat 16 off.val).signExtend 64 * 64) → s.CanTrap x →
       s.Faults (.bra off) x b ∧ s.Faults (.call off) x b ∧ ∀ p neg, s.Faults (.brp p neg off) x b))
  ∧ (∀ (s : State) (x : Warp) (b : Body), s.Runs x b → s.Bare → s.AtEnd b →
       let called := fun (y : Warp) (dest : Fin 32 → W64) => y.v = x.v ∧ y.s = x.s ∧ y.p = x.p ∧ ∀ t, lane b.mask t = true →
         Stands y t (dest t) (dest t) b.kernel ∧ y.coilDep[t.val] = x.coilDep[t.val] + 1
           ∧ ∃ e, y.coil[t.val] = e :: x.coil[t.val] ∧ e.pc = nextHeader b.stop
       ((∀ t, lane b.mask t = true → (x.coil[t.val]).length < 4) →
         (∀ off : Fin 65536,
           let d := b.hdr + (BitVec.ofNat 16 off.val).signExtend 64 * 64
           goodHeader d → s.Gives (.call off) fun _ y => called y fun _ => d)
         ∧ (∀ a : Src, (∀ t, lane b.mask t = true → goodHeader (src64 x a t)) →
           s.Gives (.callx a) fun _ y => called y (src64 x a)))
       ∧ (b.mask ≠ 0 → (∀ t, lane b.mask t = true → ∃ e r, x.coil[t.val] = e :: r ∧ goodHeader e.pc) →
         s.Gives .ret fun _ y => y.v = x.v ∧ y.s = x.s ∧ y.p = x.p ∧ ∀ t, lane b.mask t = true → ∃ e r, x.coil[t.val] = e :: r
           ∧ y.coil[t.val] = r ∧ y.coilDep[t.val] = x.coilDep[t.val] - 1 ∧ Stands y t e.pc e.pc b.kernel))
  ∧ (∀ (s : State) (x : Warp) (b : Body), s.Runs x b → s.Bare → s.AtEnd b →
       let full := b.mask &&& maskOf fun t => decide (4 ≤ (x.coil[t.val]).length)
       let below := fun (t : Fin 32) => x.csp[t.val] - 4096
       let spills := fun (i : Instr) => s.Gives i fun t y => ∃ id o, WaitsCoil s t x y b id o full below ∧ id ∈ y.stores
         ∧ o.data = Vector.ofFn (spillData x) ∧ isStore o.kind = true
       full ≠ 0 → s.Reaches x { b with mask := full } { acc := .store } below (fun _ => 128) →
         (∀ off : Fin 65536, goodHeader (b.hdr + (BitVec.ofNat 16 off.val).signExtend 64 * 64) → spills (.call off))
         ∧ ∀ a : Src, (∀ t, lane b.mask t = true → goodHeader (src64 x a t)) → spills (.callx a))
  ∧ ∀ (s : State) (x : Warp) (b : Body), s.Runs x b → s.Bare → s.AtEnd b →
       let refill := b.mask &&& maskOf fun t => (x.coil[t.val]).isEmpty && x.coilDep[t.val] != 0
       let gone := b.mask &&& maskOf fun t => (x.coil[t.val]).isEmpty && x.coilDep[t.val] == 0
       (x.kernel = true → gone ≠ 0 → s.StopsWarp .ret x)
       ∧ (x.kernel = false → gone = b.mask → (∃ e ∈ x.frontier, e.mask ≠ 0) → s.Gives .ret fun _ y =>
         SameRegisters x y ∧ y.body = none
           ∧ y.frontier.map (fun e => (e.pc, e.hdr, e.mask)) = x.frontier.map fun e => (e.pc, e.hdr, e.mask))
       ∧ (refill ≠ 0 → (x.kernel = true → gone = 0) → (∀ t, lane b.mask t = true → ∀ e r, x.coil[t.val] = e :: r → goodHeader e.pc) →
         s.Reaches x { b with mask := refill } { acc := .load } (fun t => x.csp[t.val]) (fun _ => 128) →
         s.Gives .ret fun t y => ∃ id o, WaitsCoil s t x y b id o refill (fun k => x.csp[k.val]) ∧ id ∈ y.loads ∧ o.kind = .refill)

/-- R316, R317, R365, R406: EXIT takes the entry's threads out of the warp and leaves the other entries; with the last one the warp ends,
its slot is free, it is in no group, and its part in its job is over; in kernel mode EXIT stops the warp; NOP changes nothing; TMSET
sets the comparator. -/
def Obligations.ExitNopTmsetResults : Prop :=
  ∀ (s : State) (x : Warp) (b : Body), s.Runs x b → s.Bare →
    (s.AtEnd b → x.kernel = false → (∃ e ∈ x.frontier, e.mask ≠ 0) →
      s.Gives .exit fun _ y => SameRegisters x y ∧ y.body = none
        ∧ y.frontier.map (fun e => (e.pc, e.hdr, e.mask)) = x.frontier.map fun e => (e.pc, e.hdr, e.mask))
    ∧ (s.AtEnd b → x.kernel = false → (∀ e ∈ x.frontier, e.mask = 0) → x.bars = [] → s.Next .exit fun t =>
      sget t.chip.warps s.warpNo = none ∧ dev t.chip (rWgrp s.warpNo) = 0
        ∧ (∀ u ≠ s.warpNo, ∀ y, sget s.chip.warps u = some y → ∃ z, sget t.chip.warps u = some z ∧ SameRegisters y z)
        ∧ ∀ n g, x.job = some n → x.block = some g →
          let e := eventAt s.chip (evIdx n)
          e.info.block = some (coreOf s.warpNo, g) → (eventAt t.chip (evIdx n)).info.parts = e.info.parts - 1
            ∧ ((warpsOfBlock s.chip (coreOf s.warpNo) g).filter (· != s.warpNo) = [] → (eventAt t.chip (evIdx n)).info.failed = true))
    ∧ (s.AtEnd b → x.kernel = true → s.StopsWarp .exit x)
    ∧ (s.Gives .nop fun _ y => SameButIssue x y)
    ∧ (∀ sa, s.Gives (.tmset sa) fun _ y => SameButIssue { x with tcmp := sread x sa } y)

/-- R240, R407, R408: TRAP with a user vector goes to it in worker mode and saves the resume point in TEPC and its cause in
TCAUSE; without one, or with a code of 16 or more, it is a kernel trap behind the TRAP; TRET goes back to TEPC; in kernel mode
either stops the warp (R246). -/
def Obligations.TrapResults : Prop :=
  (∀ (s : State) (x : Warp) (b : Body), s.Runs x b → s.Bare → s.AtEnd b → x.kernel = true →
    (∀ n : Fin 2048, s.StopsWarp (.trap n) x) ∧ s.StopsWarp .tret x)
  ∧ ∀ (s : State) (x : Warp) (b : Body), s.Runs x b → s.Bare → s.AtEnd b → x.kernel = false →
    let region := fun (v : W32) => BitVec.ofNat 64 (b.hdr.toNat / 2 ^ 38 * 2 ^ 38 + v.toNat * 64)
    let next := nextHeader b.stop
    (∀ n : Fin 2048, (n.val < 16 ∧ x.tvec ≠ 0 → s.Gives (.trap n) fun _ y =>
        y.kernel = false ∧ y.tepc = BitVec.ofNat 32 (next.toNat / 64) ∧ y.tcause.toNat % 64 = 0x11 ∧ y.tcause.toNat / 64 % 1024 = n.val
        ∧ ∀ t, lane b.mask t = true → Stands y t (region x.tvec) (region x.tvec) b.kernel)
      ∧ (¬(n.val < 16 ∧ x.tvec ≠ 0) → s.CanTrap x → s.Gives (.trap n) fun t y =>
        Trapped s t x y next next (headerPrio s.mem s.chip s.warpNo next) b.mask))
    ∧ (s.Gives .tret fun _ y => SameRegisters x y ∧ ∀ t, lane b.mask t = true → Stands y t (region x.tepc) (region x.tepc) b.kernel)

/-- R242, R339, R351: in kernel mode KRET puts its threads at the saved resume point in worker mode, and HALT suspends the
warp at the next header. -/
def Obligations.KernelReturnAndHalt : Prop :=
  ∀ (s : State) (x : Warp) (b : Body), s.Runs x b → s.Bare → s.AtEnd b → x.kernel = true → b.mask ≠ 0 →
    let pc := dev s.chip (rKepc s.warpNo)
    let hdr := dev s.chip (rKhdr s.warpNo)
    (resumeOk s.mem s.chip s.warpNo pc hdr = true →
      s.Gives .kret fun _ y => SameRegisters x y ∧ (∀ t, lane b.mask t = true → Stands y t pc hdr false)
        ∧ (x.frontier.all (fun e => !e.kernel) = true → y.kernel = false))
    ∧ (s.Gives .halt fun _ y => SameRegisters x y ∧ y.wait = .halt ∧
        ∀ t, lane b.mask t = true → Stands y t (nextHeader b.stop) (nextHeader b.stop) b.kernel)

/-- R240, R241, R246: what taking a kernel trap saves and where it goes, whatever was taken and wherever the warp resumes; a
fault in kernel mode stops the warp, sets ERR_FATAL[0], and closes its core to pushes. -/
def Obligations.KernelTraps : Prop :=
  (∀ (c : Chip) (w : Nat) (x : Warp) (r : Report) (at_ : Resume), sget c.warps w = some x → x.kernel = false →
     let kvec := dev c (rKvec (coreOf w))
     kvec.toNat % 64 = 0 →
     let d := kernelTrap c w r at_
     dev d (rKepc w) = at_.pc ∧ dev d (rKhdr w) = at_.hdr ∧ dev d (rKprio w) = at_.mask ++ (0 : BitVec 20) ++ at_.prio
       ∧ ∃ y, sget d.warps w = some y ∧ y.kernel = true ∧ y.wait = .none ∧ y.body = none ∧ SameRegisters x y
         ∧ y.frontier = { pc := kvec, hdr := kvec, prio := 4095, mask := at_.mask, kernel := true } :: x.frontier)
  ∧ (∀ (c : Chip) (w : Nat) (x : Warp) (r : Report) (at_ : Resume), sget c.warps w = some x → x.kernel = true →
       let d := kernelTrap c w r at_
       (dev d rFatal).getLsbD 0 = true ∧ (coreAt d (coreOf w)).noPush = true
         ∧ ∃ y, sget d.warps w = some y ∧ y.wait = .stopped ∧ SameRegisters x y ∧ y.frontier = x.frontier ∧ y.body = x.body)

/-! ## Memory instructions -/

/-- R53, R54, R352 to R356: a load whose accesses reach memory counts on its flag, claims its destination until it returns
and goes on; no other register and, with no atomic in flight, no byte of memory changes. -/
def Obligations.LoadsStart : Prop :=
  ∀ (s : State) (x : Warp) (b : Body), s.Runs x b → s.Bare →
    let starts := fun (i : Instr) (dst : List Nat) (addr : Fin 32 → W64) => s.Gives i fun t y =>
      y.flags = countedUp x b.setA ∧ (∀ r ∈ dst, sget y.ready r = some none) ∧ y.wait = x.wait ∧ SameSpecials x y
        ∧ (∀ n, n ∉ dst → sget y.v n = sget x.v n)
        ∧ (s.Canonical → (∀ e ∈ s.chip.ops, isAtom e.2.kind = false) → ∀ k, t.byte k = s.byte k)
        ∧ ∃ id o, y.loads = x.loads ++ [id] ∧ sget t.chip.ops id = some o ∧ o.w = s.warpNo ∧ o.act = b.mask
          ∧ o.addr = Vector.ofFn addr ∧ o.flag = b.setA
    (∀ o : LdOps,
      let dst := regRun o.d.val (wcRegs o.wc.val)
      let w := wcWidth o.wc.val
      exceeds x dst = false →
      (s.Reaches x b { acc := .load } (scaledAddr o.sb o.x w x) (fun _ => w) → starts (.ld o) dst (scaledAddr o.sb o.x w x))
      ∧ (s.Reaches x b { acc := .load } (fullAddr o.sb o.x x) (fun _ => w) → starts (.ldv o) dst (fullAddr o.sb o.x x)))
    ∧ (∀ o : LdaOps,
      let dst := regRun o.d.val (if o.w64 then 2 else 1)
      let w := if o.w64 then 64 else 32
      exceeds x dst = false → s.Reaches x b { acc := .load, suits := classN } (scaledAddr o.sb o.x w x) (fun _ => w) →
      starts (.lda o) dst (scaledAddr o.sb o.x w x) ∧ starts (.ldc o) dst (scaledAddr o.sb o.x w x))

/-- R53, R54, R396 to R400: a store whose accesses reach memory counts on its flag and goes on with its data taken. -/
def Obligations.StoresStart : Prop :=
  ∀ (s : State) (x : Warp) (b : Body), s.Runs x b → s.Bare → b.mask ≠ 0 →
    let starts := fun (i : Instr) (addr : Fin 32 → W64) (data : Fin 32 → Nat) => s.Gives i fun t y =>
      y.flags = countedUp x b.setB ∧ y.v = x.v ∧ SameSpecials x y ∧ y.wait = x.wait
        ∧ (s.Canonical → ∀ k, t.byte k = s.byte k)
        ∧ ∃ id o, y.stores = x.stores ++ [id] ∧ sget t.chip.ops id = some o ∧ o.w = s.warpNo ∧ o.act = b.mask
          ∧ o.addr = Vector.ofFn addr ∧ o.data = Vector.ofFn data ∧ o.flag = b.setB
    (∀ o : StOps,
      let w := wcWidth o.wc.val
      (s.Reaches x b { acc := .store } (scaledAddr o.sb o.x w x) (fun _ => w) →
        (∀ t, lowest b.mask = some t → inWindow (scaledAddr o.sb o.x w x t).toNat = false) →
        starts (.st o) (scaledAddr o.sb o.x w x) (storeData x o.d o.wc.val))
      ∧ (s.Reaches x b { acc := .store } (fullAddr o.sb o.x x) (fun _ => w) →
        starts (.stv o) (fullAddr o.sb o.x x) (storeData x o.d o.wc.val)))
    ∧ (∀ o : StrOps,
      let w := if o.w64 then 64 else 32
      s.Reaches x b { acc := .store, suits := classN } (scaledAddr o.sb o.x w x) (fun _ => w) →
      starts (.str o) (scaledAddr o.sb o.x w x) (storeData x o.d (if o.w64 then 8 else 7))
      ∧ starts (.stc o) (scaledAddr o.sb o.x w x) (storeData x o.d (if o.w64 then 8 else 7)))

/-- R165, R166, R169: the five-store protocol: a store to W0 to W3 puts its value in the staging word; a GO that passes its
checks makes its tag busy and its command from the staging words; one that does not is a precise fault, and so is every other access
in the window (R116): a store of several threads, of another width, with .nt or .lu, through STV, STR or STC, a load, an atomic, a
CINV. -/
def Obligations.EngineWindowStores : Prop :=
  (∀ (s : State) (x : Warp) (b : Body) (t : Fin 32), s.Runs x b → s.Bare → s.CanTrap x → lane b.mask t = true →
    let within := fun (a : Fin 32 → W64) => inWindow (a t).toNat = true
    (∀ o : StOps,
      (popCount b.mask ≠ 1 ∨ o.wc.val ≠ 8 ∨ o.nt = true ∨ o.lu = true → within (scaledAddr o.sb o.x (wcWidth o.wc.val) x) →
        s.Faults (.st o) x b)
      ∧ (within (fullAddr o.sb o.x x) → s.Faults (.stv o) x b))
    ∧ (∀ o : LdOps, exceeds x (regRun o.d.val (wcRegs o.wc.val)) = false →
      (within (scaledAddr o.sb o.x (wcWidth o.wc.val) x) → s.Faults (.ld o) x b) ∧ (within (fullAddr o.sb o.x x) → s.Faults (.ldv o) x b))
    ∧ (∀ o : LdaOps, exceeds x (regRun o.d.val (if o.w64 then 2 else 1)) = false →
      within (scaledAddr o.sb o.x (if o.w64 then 64 else 32) x) → s.Faults (.lda o) x b ∧ s.Faults (.ldc o) x b)
    ∧ (∀ o : StrOps, within (scaledAddr o.sb o.x (if o.w64 then 64 else 32) x) → s.Faults (.str o) x b ∧ s.Faults (.stc o) x b)
    ∧ (∀ o : AtomOps, within (atomAddr o x) → (exceeds x (regRun o.d.val (if o.size = .w64 then 2 else 1)) = false →
      s.Faults (.atom o) x b) ∧ s.Faults (.atomn o) x b)
    ∧ ∀ o : PrefOps, within (scaledAddr o.sb o.x (wcWidth o.wc.val) x) → s.Faults (.cinv o) x b)
  ∧ ∀ (o : StOps) (s : State) (x : Warp) (b : Body) (t : Fin 32), s.Runs x b → s.Bare →
    o.wc.val = 8 → o.nt = false → o.lu = false → popCount b.mask = 1 → lowest b.mask = some t →
    let a := (scaledAddr o.sb o.x 64 x t).toNat
    let v := src64 x o.d t
    inWindow a = true →
    (∀ k, winWord a = some (.stage k) → s.Gives (.st o) fun _ y =>
      y.stage = x.stage.set k.val v ∧ y.flags = countedUp x b.setB ∧ y.v = x.v ∧ y.s = x.s ∧ y.p = x.p)
    ∧ (winWord a = some .go → goOk s.chip s.warpNo v.toNat = true → s.warpNo < 24576 → s.Gives (.st o) fun n y =>
      y.stage = x.stage ∧ y.goPending = true ∧ (coreAt n.chip (coreOf s.warpNo)).tags[fld v.toNat 5 6 % 64]'(Nat.mod_lt _ (by decide)) = .busy
        ∧ ∃ id d, sget n.chip.cmds id = some d ∧ d.words = x.stage ∧ d.core = coreOf s.warpNo ∧ d.accepted = none)
    ∧ (s.CanTrap x → winWord a = none ∨ (winWord a = some .go ∧ goOk s.chip s.warpNo v.toNat = false) → s.Faults (.st o) x b)

/-- R290 to R293: an atomic whose accesses reach memory counts on its flag, claims the register of its return value, and goes
on with its operand taken. -/
def Obligations.AtomicsStart : Prop :=
  ∀ (o : AtomOps) (s : State) (x : Warp) (b : Body), s.Runs x b → s.Bare →
    s.Reaches x b { acc := .store, suits := if o.size = .bf then inGranule else classN, atomic := true, bytes := false }
      (atomAddr o x) (atomWidth o x) →
    let starts := fun (i : Instr) (flag : Option (Fin 12)) (dst : List Nat) => s.Gives i fun t y =>
      y.flags = countedUp x flag ∧ (∀ r ∈ dst, sget y.ready r = some none) ∧ SameSpecials x y
        ∧ (∀ n, n ∉ dst → sget y.v n = sget x.v n) ∧ (s.Canonical → ∀ k, t.byte k = s.byte k)
        ∧ ∃ id p, y.stores = x.stores ++ [id] ∧ y.loads = x.loads ++ [id] ∧ sget t.chip.ops id = some p ∧ p.act = b.mask
          ∧ p.addr = Vector.ofFn (atomAddr o x) ∧ p.flag = flag
    let dst := regRun o.d.val (if o.size = .w64 then 2 else 1)
    (exceeds x dst = false → starts (.atom o) b.setA dst) ∧ starts (.atomn o) b.setB []

/-- R54, R118, R138, R140, R141, R247: a strong access whose width or address is not of class N is a precise fault, whatever else it
meets; where the worst fault of a load is replayable, the warp waits, its LDs' flag counts the load, and no other register changes; and
a load, a store or an atomic whose pages the core's TLB does not hold waits for their walks, and changes no register. -/
def Obligations.AccessFaults : Prop :=
  (∀ (s : State) (x : Warp) (b : Body) (t : Fin 32), s.Runs x b → s.Bare → s.CanTrap x → lane b.mask t = true →
     (∀ o : LdaOps,
       let w := if o.w64 then 64 else 32
       let a := scaledAddr o.sb o.x w x
       exceeds x (regRun o.d.val (if o.w64 then 2 else 1)) = false → (a t).toNat % w ≠ 0 →
       s.Faults (.lda o) x b ∧ s.Faults (.ldc o) x b)
     ∧ (∀ o : StrOps,
       let w := if o.w64 then 64 else 32
       let a := scaledAddr o.sb o.x w x
       (a t).toNat % w ≠ 0 → s.Faults (.str o) x b ∧ s.Faults (.stc o) x b))
  ∧ (∀ (o : LdOps) (s : State) (x : Warp) (b : Body) (f : AFault) (n : Nat), s.Runs x b → s.Bare →
       let w := wcWidth o.wc.val
       let a := scaledAddr o.sb o.x w x
       exceeds x (regRun o.d.val (wcRegs o.wc.val)) = false → s.walks x b { acc := .load } a (fun _ => w) = [] →
       worst (faultsOf (s.finds x b { acc := .load } a (fun _ => w))) = some f → f.again = true →
       instrAt s.mem s.chip s.warpNo s.chip.cur.pc b.stop = .word (.ld o) n →
       s.Gives (.ld o) fun _ y => y.wait = .replay false ∧ SameSpecials x y ∧ y.v = x.v ∧ y.body = some b
         ∧ y.flags = countedUp x b.setA ∧ y.waitFlag = b.setA)
  ∧ (∀ (s : State) (x : Warp) (b : Body), s.Runs x b → s.Bare → (∀ e ∈ s.chip.walks, e.1 < s.chip.fresh) →
       let waits := fun (i : Instr) (k : Rule) (a : Fin 32 → W64) (w : Fin 32 → Nat) =>
         s.walks x b k a w ≠ [] → (∀ f ∈ faultsOf (s.finds x b k a w), 6 ≤ f.rank) → s.Walks i x b (s.walks x b k a w)
       (∀ o : LdOps, exceeds x (regRun o.d.val (wcRegs o.wc.val)) = false →
         waits (.ld o) { acc := .load } (scaledAddr o.sb o.x (wcWidth o.wc.val) x) fun _ => wcWidth o.wc.val)
       ∧ (∀ o : StrOps, let w := if o.w64 then 64 else 32
         b.mask ≠ 0 → waits (.str o) { acc := .store, suits := classN } (scaledAddr o.sb o.x w x) fun _ => w)
       ∧ ∀ o : AtomOps, o.size ≠ .bf → waits (.atomn o) { acc := .store, suits := classN, atomic := true, bytes := false } (atomAddr o x)
         (atomWidth o x))

/-- R151, R308, R309, R329, R330, R372: FENCE, CINV and PREF. -/
def Obligations.FenceAndCacheResults : Prop :=
  ∀ (s : State) (x : Warp) (b : Body), s.Runs x b → s.Bare →
    (∀ (scope : Scope) (kind : FenceKind), b.mask ≠ 0 → s.Gives (.fence scope kind) fun t y =>
      SameRegisters x y
        ∧ (kind ≠ .acquire → (∀ k ∈ x.stores, k ∈ y.hold) ∧ (scope = .core → y.coreRelease = x.coreRelease ||| b.mask))
        ∧ (kind ≠ .release → (∀ k ∈ x.loads, k ∈ y.hold)
          ∧ (scope ≠ .warp → (coreAt t.chip (coreOf s.warpNo)).l1 = [] ∧ s.chip.cycle + 4 ≤ y.holdUntil
            ∧ y.fenced = !y.hold.isEmpty)))
    ∧ (∀ o : PrefOps,
      let w := wcWidth o.wc.val
      let f := s.finds x b { acc := .load } (scaledAddr o.sb o.x w x) fun _ => w
      let starts := fun (t : State) (l1 : Bool) => faultsOf f = [] → (∃ g ∈ foundOf f, g.x.home < 2) →
        ∃ id q, sget t.chip.ops id = some q ∧ q.kind = .pref l1 ∧ q.w = s.warpNo
      (s.Gives (.prefL1 o) fun t y => SameRegisters x y ∧ y.wait = x.wait ∧ starts t true)
      ∧ (s.Gives (.prefL2 o) fun t y => SameRegisters x y ∧ y.wait = x.wait ∧ starts t false)
      ∧ (s.Reaches x b { acc := .store, bytes := false } (scaledAddr o.sb o.x w x) (fun _ => w) →
        s.Gives (.cinv o) fun t y => SameRegisters x y ∧
          ∀ f ∈ foundOf (s.finds x b { acc := .store, bytes := false } (scaledAddr o.sb o.x w x) fun _ => w), f.x.home < 2 →
            ∀ e ∈ (coreAt t.chip (coreOf s.warpNo)).l1, e.1 / 4 ≠ lineOf f.x.pa))

/-- R24, R54, R127, R352, R354: the last reply of a load puts its data in its registers in the threads that met no error, makes
them available and lowers its flag. -/
def Obligations.LoadReplyResults : Prop :=
  ∀ (s : State) (id : Nat) (x : Warp) (r : Req) (o : Op) (d wc : Nat) (l1 fill : Bool),
    let c := takeEffect s.mem s.chip id
    sget c.reqs id = some r → sget c.ops r.op = some o → o.left = 1 → o.kind = .load d wc l1 fill → promotes s.chip id = none →
    sget c.warps o.w = some x →
    ∃ t y, exec (.loadReply id) s = .next t ∧ sget t.chip.warps o.w = some y
      ∧ (∀ j < regsOf o.width, ∀ k, lane (o.act &&& ~~~(o.poison ||| o.gone)) k = true →
        vread y (d + j) k = BitVec.ofNat 32 (loaded wc (o.data[k.val] % 2 ^ o.width) / 2 ^ (32 * j)))
      ∧ (∀ n, (n < d ∨ d + regsOf o.width ≤ n) → sget y.v n = sget x.v n)
      ∧ y.s = x.s ∧ y.p = x.p
      ∧ (∀ f, o.flag = some f → y.flags[f.val] = if x.flags[f.val] = 0 then 0 else x.flags[f.val] - 1)

/-- R120, R121, R398: a store of one piece performed at its home, behind those of its cycle that go before it, writes the bits of its
piece and no other bit of memory. -/
def Obligations.StorePerformsItsBits : Prop :=
  ∀ (s : State) (id : Nat) (r : Req) (o : Op) (p : Piece), s.Canonical →
    sget s.chip.reqs id = some r → r.done = false → r.pieces = [p] → sget s.chip.ops r.op = some o → o.kind = .store →
    o.left = 1 → earlier s.chip r o.w = [] → homeGone s.chip r.home = false → sameKey s.chip r.home.isL2 r.enc o.part.toNat p = true →
    homeFirst s.chip id = false →
    ∃ t, exec (.storeAtHome id) s = .next t
      ∧ (∀ k, (k < p.pa.key ∨ p.pa.key + (p.pa.bit % 8 + p.width + 7) / 8 ≤ k) → t.byte k = s.byte k)
      ∧ (∀ j < (p.pa.bit % 8 + p.width + 7) / 8, ∀ n < 8,
        (t.byte (p.pa.key + j)).getLsbD n =
          let q := 8 * j + n
          if p.pa.bit % 8 ≤ q ∧ q < p.pa.bit % 8 + p.width then
            o.data[p.t.val].testBit (p.pos + (q - p.pa.bit % 8))
          else (s.byte (p.pa.key + j)).getLsbD n)

/-- R68, R120, R121, R290, R292: an atomic of one thread performed at its home writes the new value of its bits, and no byte
outside them; the new value of each operation. -/
def Obligations.AtomicPerformsItsBits : Prop :=
  (∀ (s : State) (id : Nat) (r : Req) (o : Op) (p : Piece) (d : Option Nat) (op : AtomOp) (size : AtomSize), s.Canonical →
     sget s.chip.reqs id = some r → r.done = false → r.pieces = [p] → sget s.chip.ops r.op = some o → o.kind = .atom d op size →
     o.left = 1 → earlier s.chip r o.w = [] → homeGone s.chip r.home = false → sameKey s.chip r.home.isL2 r.enc o.part.toNat p = true →
     badSectors s.chip p = [] → undefMask s.chip p = 0 → homeFirst s.chip id = false →
     let old := readBits s.mem s.chip p.pa p.width
     let new := atomNew op p.width old (o.data[p.t.val] % 2 ^ p.width) (o.data2[p.t.val] % 2 ^ p.width)
     ∃ t, exec (.atomicAtHome id) s = .next t ∧ readBits t.mem t.chip p.pa p.width = new % 2 ^ p.width
       ∧ (∀ k, (k < p.pa.key ∨ p.pa.key + (p.pa.bit % 8 + p.width + 7) / 8 ≤ k) → t.byte k = s.byte k))
  ∧ (∀ (old x k : BitVec 32),
       let f := fun (op : AtomOp) => BitVec.ofNat 32 (atomNew op 32 old.toNat x.toNat k.toNat)
       f .add = old + x ∧ f .imin = (if old.sle x then old else x) ∧ f .imax = (if x.sle old then old else x)
         ∧ f .umin = (if old.ule x then old else x) ∧ f .umax = (if x.ule old then old else x) ∧ f .and = old &&& x
         ∧ f .or = old ||| x ∧ f .xor = old ^^^ x ∧ f .exch = x ∧ f .cas = (if old = k then x else old)
         ∧ f .incw = (if x.ule old then 0 else old + 1) ∧ f .decw = (if old = 0 ∨ x.ult old then x else old - 1))

/-! ## Barriers, phases, tags, messages and resources -/

/-- R296 to R298: BARA arrives once and goes on, BAR arrives unless its warp has and waits, BARW waits only for an arrival of
its own warp; when the last member has arrived the generation toggles, the count of arrivals is 0, and every waiter of that
generation returns 16 cycles and its leg later. -/
def Obligations.BarrierResults : Prop :=
  (∀ (g : Fin 256) (s : State) (x : Warp) (b : Body), s.Runs x b → s.Bare → isMember s.chip s.warpNo g.val = true →
     (∀ e ∈ s.chip.abandoned, e.1 ≠ s.warpNo) →
     let gen := gGen s.chip g.val
     let arrived := sget x.arrived g.val = some gen
     (s.Gives (.bara g) fun t y => SameRegisters x y ∧ y.wait = x.wait ∧ sget y.arrived g.val = some gen
       ∧ (¬arrived → Coming t (.arrive s.warpNo g)))
     ∧ (s.Gives (.bar g) fun t y => SameRegisters x y ∧ y.body = some b ∧ (∃ own, y.wait = .bar g gen own)
       ∧ sget y.arrived g.val = some gen ∧ (¬arrived → Coming t (.arrive s.warpNo g)))
     ∧ (arrived → s.Gives (.barw g) fun _ y => SameRegisters x y ∧ y.wait = .bar g gen false ∧ y.body = some b)
     ∧ (¬arrived → s.Gives (.barw g) fun _ y => SameRegisters x y ∧ y.wait = x.wait)
     ∧ (s.Gives (.phadv g) fun t y => SameRegisters x y ∧ y.wait = .phadv g ∧ y.body = some b ∧ Coming t (.phaseReady s.warpNo)))
  ∧ (∀ (g : Fin 256) (s : State), gArrived s.chip g.val = gMembers s.chip g.val → 0 < gMembers s.chip g.val →
       ∃ t, exec (.barrierComplete g) s = .next t ∧ gArrived t.chip g.val = 0 ∧ gGen t.chip g.val = !gGen s.chip g.val
         ∧ gMembers t.chip g.val = gMembers s.chip g.val ∧ t.chip.warps = s.chip.warps
         ∧ ∀ e ∈ s.chip.warps, ∀ own, e.2.wait = .bar g (gGen s.chip g.val) own →
           ∃ v, (s.chip.cycle + 16 + trip (clusterOf ((sget s.chip.barCore g.val).getD 0)) (clusterOf (coreOf e.1)), .wake e.1 v) ∈ t.chip.agenda)

/-- R235, R236: a PHADV that its members and neighbours allow advances its core's PHASE by one, its warps return 4 cycles
later, and every core is sent the new value; an arriving value is what the core holds of the sender. -/
def Obligations.PhaseResults : Prop :=
  (∀ (s : State) (core : CoreId) (g : Fin 256), phaseHolds s.chip core.val g = true →
    (∀ h, h ≠ g → phaseWaiters s.chip core.val h = []) → s.chip.abandoned = [] →
    ∃ t, exec (.phaseAdvance core) s = .next t ∧ (coreAt t.chip core.val).phase = (coreAt s.chip core.val).phase + 1
      ∧ (∀ w ∈ phaseWaiters s.chip core.val g, (s.chip.cycle + 4, .wake w 0) ∈ t.chip.agenda)
      ∧ ∀ k : CoreId, (s.chip.cycle + phaseDelay core.val k.val,
        .phaseValueArrival core k ((coreAt s.chip core.val).phase + 1)) ∈ t.chip.agenda)
  ∧ (∀ (s : State) (src dst : CoreId) (v : BitVec 32), ∃ t, exec (.phaseValueArrival src dst v) s = .next t
      ∧ seenAt t.chip dst.val src.val = v ∧ (∀ n, n ≠ src.val → seenAt t.chip dst.val n = seenAt s.chip dst.val n)
      ∧ t.chip.warps = s.chip.warps)

/-- R171, R403: TAGWA, TAGWY and TAGFF wait for their condition on the tags of their mask and return 4 cycles after it holds;
TAGCLR frees the complete tags of its mask and no other; TAGRD reads a tag. -/
def Obligations.TagResults : Prop :=
  ∀ (s : State) (x : Warp) (b : Body), s.Runs x b → s.Bare →
    let core := coreOf s.warpNo
    let waits := fun (i : Instr) (k : Wait) => s.Gives i fun t y => SameRegisters x y ∧ y.wait = k ∧ y.body = some b
      ∧ ∀ v, tagHolds (tagView s.chip core) k = some v → (s.chip.cycle + 4, .wake s.warpNo v) ∈ t.chip.agenda
    (∀ sa, waits (.tagwa sa) (.tagwa (sread x sa)))
    ∧ (∀ sd sa, waits (.tagwy sd sa) (.tagwy sd (sread x sa)) ∧ waits (.tagff sd sa) (.tagff sd (sread x sa)))
    ∧ (∀ sa, s.Gives (.tagclr sa) fun t y => SameRegisters x y ∧ ∀ i : Fin 64,
        (coreAt t.chip core).tags[i.val] =
          if (sread x sa).getLsbD i.val && ((coreAt s.chip core).tags[i.val]).isDone && (tagView s.chip core i).isDone then .idle
          else (coreAt s.chip core).tags[i.val])
    ∧ (∀ sd (i : Fin 64), s.WritesS (.tagrd sd i) x sd (tagWord (tagView s.chip core i)))

/-- R231 to R233, R373: QSND sends SA to the queue that SD names and counts on its flag; a destination outside the chip or the
partition is a precise fault; QRCV waits; QPOLL takes the message that stands for it, or says that there is none. -/
def Obligations.MessageResults : Prop :=
  ∀ (s : State) (x : Warp) (b : Body), s.Runs x b → s.Bare →
    (∀ sd sa,
      let d := (sread x sd).toNat
      let ok := d < 1024 ∧ d % 256 < 192 ∧ bit (dev s.chip (rPtn x.part.toNat 1)).toNat (clusterOf (d % 256)) = true
      (ok → s.Gives (.qsnd sd sa) fun t y => y.flags = countedUp x b.setB ∧ y.v = x.v ∧ y.s = x.s ∧ y.p = x.p
        ∧ ∃ id g, sget t.chip.msgs id = some g ∧ g.value = sread x sa ∧ g.dst = d % 256 ∧ g.q.val = d / 256
          ∧ g.src = coreOf s.warpNo ∧ Coming t (.sendMsg id))
      ∧ (¬ok → s.CanTrap x → s.Faults (.qsnd sd sa) x b))
    ∧ (∀ sd q, s.Gives (.qrcv sd q) fun _ y => y.wait = .qrcv sd q b.setA ∧ y.flags = countedUp x b.setA ∧ y.v = x.v
        ∧ y.s = x.s ∧ y.p = x.p ∧ y.body = some b)
    ∧ (∀ (sd : SReg) (q : Fin 4) (p : PReg),
      let core := coreOf s.warpNo
      let n := (queueWaiters s.chip core q).length
      let held := (coreAt s.chip core).queues[q.val]
      (∀ h, held[n]? = some h → h.at_ < s.chip.cycle → s.Gives (.qpoll sd q p) fun t y =>
        WroteS x y sd h.value ∧ WroteP x y b.mask p (fun _ => true)
          ∧ (coreAt t.chip core).queues[q.val] = held.eraseIdx n)
      ∧ ((∀ h, held[n]? = some h → s.chip.cycle ≤ h.at_) → s.Gives (.qpoll sd q p) fun t y =>
        WroteS x y sd 0 ∧ WroteP x y b.mask p (fun _ => false) ∧ (coreAt t.chip core).queues[q.val] = held))

/-- R233, R234: a message in turn is taken by a queue with room and acknowledged, and refused with a NACK by a full one; a
NACK has it sent again after the back-off; an acknowledgement lowers the flag of its QSND. R234 whole: NC_QBACKOFF's fields, its zero bits, and the back-off they give. -/
def Obligations.MessageDelivery : Prop :=
  (∀ (s : State) (id : Nat) (g : Msg), sget s.chip.msgs id = some g →
     let p := pairAt s.chip g.key
     let held := (coreAt s.chip g.dst).queues[g.q.val]
     (p.expect = g.num → (p.blocked = none ∨ p.blocked = some g.num) →
       (held.length < 32 → ∃ t, exec (.queueMessageArrival id) s = .next t
         ∧ (coreAt t.chip g.dst).queues[g.q.val] = held ++ [{ value := g.value, at_ := s.chip.cycle }]
         ∧ (s.chip.cycle + ackTime g.src g.dst, .queueAck id) ∈ t.chip.agenda)
       ∧ (32 ≤ held.length → ∃ t, exec (.queueMessageArrival id) s = .next t
         ∧ (coreAt t.chip g.dst).queues[g.q.val] = held ∧ (pairAt t.chip g.key).blocked = some g.num
         ∧ (s.chip.cycle + ackTime g.src g.dst, .queueNack id) ∈ t.chip.agenda))
     ∧ (∃ t, exec (.queueNack id) s = .next t ∧ (s.chip.cycle + backoff s.chip (g.nacks + 1), .queueBackoffResend id) ∈ t.chip.agenda
         ∧ sget t.chip.msgs id = some { g with nacks := g.nacks + 1 })
     ∧ (id ∈ p.window → g.left = true → ∃ t n, exec (.queueBackoffResend id) s = .next t
         ∧ (n, .queueMessageArrival id) ∈ t.chip.agenda ∧ s.chip.cycle + msgTime g.src g.dst ≤ n)
     ∧ (∀ x, sget s.chip.warps g.w = some x → ∃ t y, exec (.queueAck id) s = .next t ∧ sget t.chip.warps g.w = some y
         ∧ (∀ f, g.flag = some f → y.flags[f.val] = if x.flags[f.val] = 0 then 0 else x.flags[f.val] - 1)
         ∧ id ∉ (pairAt t.chip g.key).window))
  ∧ (∀ (s : State) (n : Nat),
       let r := (dev s.chip rBackoff).toNat
       let base := if r % 65536 = 0 then 1 else r % 65536
       let cap := if r / 65536 % 65536 < base then base else r / 65536 % 65536
       backoff s.chip 1 = base ∧ backoff s.chip (n + 2) = min cap (2 * backoff s.chip (n + 1)))
  ∧ ∀ (s : State) (v : W64),
       (s.Next (.registerWrite (.bar0 0 rBackoff v)) fun t => (dev t.chip rBackoff).toNat = v.toNat % 2 ^ 32)
       ∧ s.Next (.registerWrite (.wheel rBackoff v)) fun t => (dev t.chip rBackoff).toNat = v.toNat % 2 ^ 32

/-- R36, R196, R374, R375: RACQ is granted at issue when its resource is free and nothing waits before it, and waits
otherwise; an id that the block holds already is granted at once; RREL gives back what its block holds; RQRY reads what is free; the
waits end with the grant, or with the release. That a wait ends in the cycle of its grant, with SD written then and available 8 cycles
later, is the model's reading (log 37). -/
def Obligations.ResourceResults : Prop :=
  (∀ (s : State) (x : Warp) (b : Body), s.Runs x b → s.Bare →
     let w := s.warpNo
     (∀ (sd : SReg) (kind : Fin 4) (k : Fin 512), racqOk x kind k.val = true → racqHeld s.chip w kind k.val = false →
       racqWaiters s.chip (coreOf w) = [] →
       (∀ v c, racqTry s.chip w kind k.val = some (v, c) → s.Gives (.racq sd kind k) fun _ y => WroteS x y sd v ∧ y.wait = x.wait)
       ∧ (racqTry s.chip w kind k.val = none → s.Gives (.racq sd kind k) fun _ y => SameRegisters x y ∧ y.body = some b
         ∧ y.wait = .racq sd kind k s.chip.cycle))
     ∧ (∀ (sd : SReg) (kind : Fin 4) (k : Fin 512), racqOk x kind k.val = true → racqHeld s.chip w kind k.val = true →
       s.WritesS (.racq sd kind k) x sd (BitVec.ofNat 64 k.val))
     ∧ (∀ (sd : SReg) (kind : Fin 4) (k : Fin 512), racqOk x kind k.val = false → s.CanTrap x → s.Faults (.racq sd kind k) x b)
     ∧ (∀ k : Fin 512, k.val % 4 = 0 → s.Gives (.rrel 0 k) fun _ y => y.headroom.toNat = x.headroom.toNat - k.val
         ∧ y.v = x.v ∧ y.s = x.s ∧ y.p = x.p)
     ∧ (∀ (kind : Fin 4) (k : Fin 512), kind = 1 ∨ kind = 2 →
       (rrelIds s.chip w kind k.val).all (fun i => !accBusy s.chip (coreOf w) x.block kind.val i) = true →
       s.Gives (.rrel kind k) fun t y => SameRegisters x y ∧ ∀ i ∈ rrelIds s.chip w kind k.val,
         (kind = 1 → ∀ h : i < 4, (coreAt t.chip (coreOf w)).tileHolder[i] = none)
         ∧ (kind = 2 → ∀ h : i < 8, (coreAt t.chip (coreOf w)).planeHolder[i] = none))
     ∧ (∀ (kind : Fin 4) (k : Fin 512), kind = 1 ∨ kind = 2 →
       (rrelIds s.chip w kind k.val).any (fun i => accBusy s.chip (coreOf w) x.block kind.val i) = true →
       s.Gives (.rrel kind k) fun _ y => SameRegisters x y ∧ y.wait = .rrel kind k)
     ∧ (∀ k : Fin 512, k.val < 64 ∨ k.val = 511 → s.Gives (.rrel 3 k) fun t y => SameRegisters x y ∧ ∀ i : Fin 64,
       (k.val = 511 ∨ k.val = i.val) → x.block.isSome = true → (coreAt s.chip (coreOf w)).poolHolder[i.val] = x.block →
         (coreAt t.chip (coreOf w)).poolHolder[i.val] = none)
     ∧ (∀ k : Fin 512, s.CanTrap x → (k.val % 4 ≠ 0 → s.Faults (.rrel 0 k) x b)
       ∧ (64 ≤ k.val → k.val ≠ 511 → s.Faults (.rrel 3 k) x b))
     ∧ (∀ (sd : SReg) (kind : Fin 4), s.WritesS (.rqry sd kind) x sd (rqryValue s.chip w kind)))
  ∧ (∀ (s : State) (w : WarpId) (x : Warp) (b : Body), sget s.chip.warps w.val = some x → x.body = some b →
       (∀ sd kind k n v c, x.wait = .racq sd kind k n → racqTry s.chip w.val kind k.val = some (v, c) →
         ∃ t y, exec (.racqGrant w) s = .next t ∧ sget t.chip.warps w.val = some y ∧ y.wait = .none ∧ WroteS x y sd v)
       ∧ (∀ kind k, x.wait = .rrel kind k →
         (rrelIds s.chip w.val kind k.val).all (fun i => !accBusy s.chip (coreOf w.val) x.block kind.val i) = true →
         ∃ t y, exec (.rrelFree w) s = .next t ∧ sget t.chip.warps w.val = some y ∧ y.wait = .none ∧ SameRegisters x y))

/-! ## What an instruction leaves -/

/-- R34, R61, R64: the frame of each instruction named here, all of them on registers alone: every register but its
destinations stays, but a register that a last-read bit frees, and so does everything else that `Keeps` names: flags, Coils,
special registers (FPSTAT and RNGCTR but where the form sets flags or draws), every byte of memory, other warps, accumulators,
tags, queues, events, streams and device registers but the performance counters of its core. -/
def Obligations.RegisterInstructionsKeepTheRest : Prop :=
  ∀ (s : State) (x : Warp) (b : Body), s.Canonical →
    let last := fun (i : Instr) => (usesOf i s.chip.cur.pfx).last
    let keeps := fun (i : Instr) (dst : List Nat) (ss : List SReg) (ps : List PReg) (fp : Bool) => s.Gives i fun t y =>
      Keeps s t x y dst (last i) ss ps ∧ (fp = false → y.fpstat = x.fpstat ∧ y.rngCtr = x.rngCtr)
    (∀ r ∈ intTwoSource, ∀ o : VOps, s.Executes x b (some r.2.1) [o.d.val] → keeps (r.1 o) [o.d.val] [] [] false)
    ∧ (∀ r ∈ intOneSource, ∀ o : UnOps, s.Executes x b (some {}) [o.d.val] → keeps (r.1 o) [o.d.val] [] [] false)
    ∧ (∀ r ∈ fp32Forms, ∀ o : VOps, s.Executes x b (some r.2.1) [o.d.val] → keeps (r.1 o) [o.d.val] [] [] true)
    ∧ (∀ r ∈ packedForms, ∀ o : VOps, s.Executes x b (some { rnd := true, sat := true }) [o.d.val] →
      keeps (r.1 o) [o.d.val] [] [] true)
    ∧ (∀ o : ImmOps, s.Executes x b (some {}) [o.d.val] → keeps (.movil o) [o.d.val] [] [] false
      ∧ keeps (.movih o) [o.d.val] [] [] false ∧ keeps (.movis o) [o.d.val] [] [] false ∧ keeps (.movif o) [o.d.val] [] [] false)
    ∧ (∀ o : PairOps, s.Executes x b none [2 * o.d.val, 2 * o.d.val + 1] →
      (∀ r ∈ pointerNarrow, keeps (r.1 o) [2 * o.d.val, 2 * o.d.val + 1] [] [] false)
      ∧ ∀ r ∈ pointerWide, keeps (r.1 o) [2 * o.d.val, 2 * o.d.val + 1] [] [] false)
    ∧ (s.Executes x b none [] → (∀ o : CmpOps, keeps (.icmp o) [] [] [o.p] false) ∧ (∀ o : PlopOps, keeps (.plop o) [] [] [o.pd] false)
      ∧ ∀ p a, keeps (.v2p p a) [] [] [p] false)
    ∧ (s.Runs x b → s.Bare →
      (∀ r ∈ scalarForms, (∀ o : SOps, keeps (r.1 o) [] [o.sd] [] false) ∧ ∀ o : SImmOps, keeps (r.2.1 o) [] [o.sd] [] false)
      ∧ (∀ r ∈ pointerScalar, ∀ o : SaOps, keeps (r.1 o) [] [o.sd] [] false)
      ∧ (∀ sd n, keeps (.smoviZ sd n) [] [sd] [] false ∧ keeps (.smoviH1 sd n) [] [sd] [] false
        ∧ keeps (.smoviH2 sd n) [] [sd] [] false ∧ keeps (.smoviH3 sd n) [] [sd] [] false)
      ∧ (∀ o : ScmpOps, keeps (.scmp o) [] [] [o.p] false)
      ∧ (∀ sd a, (∀ k, keeps (.rdlane sd a k) [] [sd] [] false) ∧ keeps (.rdfirst sd a) [] [sd] [] false)
      ∧ keeps .nop [] [] [] false)
    ∧ (∀ o : ShOps, s.Executes x b (some {}) [o.d.val] → keeps (.shlImm o) [o.d.val] [] [] false
      ∧ keeps (.shrImm o) [o.d.val] [] [] false ∧ keeps (.sarImm o) [o.d.val] [] [] false ∧ keeps (.rotImm o) [o.d.val] [] [] false)
    ∧ (∀ o : FunOps, s.Executes x b (some {}) [o.d.val] → keeps (.fshl o) [o.d.val] [] [] false
      ∧ keeps (.fshr o) [o.d.val] [] [] false)
    ∧ (∀ o : UnOps, s.Executes x b (some {}) [o.d.val, o.d.val + 1] → keeps (.mov64 o) [o.d.val, o.d.val + 1] [] [] false)
    ∧ (∀ o : VOps, (s.Executes x b (some {}) [o.d.val] → keeps (.bfi o) [o.d.val] [] [] false)
      ∧ (s.Executes x b (some { sat := true, c := true }) [o.d.val] → keeps (.imad o) [o.d.val] [] [] false)
      ∧ (s.Executes x b (some { rnd := true, sat := true, c := true }) [o.d.val] → keeps (.ffma o) [o.d.val] [] [] true
        ∧ keeps (.bfma2 o) [o.d.val] [] [] true ∧ keeps (.hfma2 o) [o.d.val] [] [] true))
    ∧ (∀ o : LutOps, s.Executes x b (some {}) [o.d.val] → keeps (.lut3 o) [o.d.val] [] [] false)
    ∧ (∀ o : COps, s.Executes x b none [o.d.val] → keeps (.movC o) [o.d.val] [] [] false
      ∧ ∀ r ∈ compactForms, keeps (r.1 o) [o.d.val] [] [] true)
    ∧ (s.Executes x b none [] → (∀ p, keeps (.elect p) [] [] [p] false) ∧ ∀ o : CmpOps, keeps (.fcmp o) [] [] [o.p] true)
    ∧ (∀ d : VReg, s.Executes x b none [d.val] → (∀ p, keeps (.p2v d p) [d.val] [] [] false)
      ∧ ∀ p a, keeps (.pbal d p a) [d.val] [] [] false)
    ∧ (∀ o : SelOps, s.Executes x b none [o.d.val] → keeps (.sel o) [o.d.val] [] [] false)
    ∧ (∀ r ∈ sfuForms, ∀ o : UnOps, s.Executes x b (some { rnd := true }) [o.d.val] → keeps (r.1 o) [o.d.val] [] [] true)
    ∧ (∀ o : CvtOps, s.Executes x b (some { rnd := true, sat := true }) [o.d.val] → keeps (.fcvt o) [o.d.val] [] [] true
      ∧ keeps (.fcvtSat o) [o.d.val] [] [] true)
    ∧ (∀ o : UnOps, (s.Executes x b (some { rnd := true }) [o.d.val] → keeps (.frnd o) [o.d.val] [] [] true)
      ∧ (s.Executes x b (some {}) [o.d.val] → keeps (.ffrac o) [o.d.val] [] [] true ∧ keeps (.fclass o) [o.d.val] [] [] false))
    ∧ (∀ o : PackOps, (s.Executes x b (some { rnd := true, sat := true }) [o.d.val] → keeps (.nins o) [o.d.val] [] [] true
        ∧ keeps (.npack o) [o.d.val] [] [] true)
      ∧ (s.Executes x b (some {}) [o.d.val] → keeps (.next o) [o.d.val] [] [] true)
      ∧ (s.Executes x b (some {}) (regRun o.d.val (o.idx.val + 1)) → keeps (.nunpk o) (regRun o.d.val (o.idx.val + 1)) [] [] true))
    ∧ (∀ d : VReg, s.Executes x b (some {}) [d.val] → keeps (.rand d) [d.val] [] [] true ∧ keeps (.randf d) [d.val] [] [] true
      ∧ ∀ n : Fin 43, n.val ≠ 23 → keeps (.movsr d n) [d.val] [] [] false)
    ∧ ((waits s.chip.cur.pfx = true → membersOf x s.chip.cur.pfx &&& ~~~b.mask = 0) →
      (∀ o : VOps, s.Executes x b (some crossAllow) [o.d.val] → ∀ i ∈ ([.shflIdx o, .shflUp o, .shflDn o, .shflXor o, .xpush o,
        .voteEq o] : List Instr), keeps i [o.d.val] [] [] false)
      ∧ (∀ o : UnOps, s.Executes x b (some crossAllow) [o.d.val] → ∀ i ∈ ([.voteAll o, .voteAny o, .voteBal o] : List Instr),
        keeps i [o.d.val] [] [] false)
      ∧ ∀ o : RedOps, s.Executes x b (some (redAllow o.op.val)) [o.d.val] → ∀ i ∈ ([.redux o, .scan o, .scanX o] : List Instr),
        keeps i [o.d.val] [] [] true)

/-! ## System registers, regions and traps of the debugger -/

/-- R138, R139, R270, R271, R401, R402, R404, R405: in kernel mode SYSR reads its register Lc - 12 cycles after issue and claims SD,
SYSW and TLBI wait behind the warp's stores; a completed TLBI leaves no TLB entry that it names; a write of function 0 or of
the Wheel to a register puts the bits of its fields there, and one of a function that may not write it does not; a BAR0 read
gives a function the register where it sees it, and else zero, logged. -/
def Obligations.SystemRegisterResults : Prop :=
  (∀ (s : State) (x : Warp) (b : Body), s.Runs x b → s.Bare → x.kernel = true →
    let w := s.warpNo
    (∀ sd sa n, s.Gives (.sysr sd sa n) fun t y => SameRegisters x y ∧ y.wait = x.wait
        ∧ (sd.val ≠ 0 → sget y.ready (codeS sd.val) = some none)
        ∧ Due t (s.chip.cycle + (regDelay (coreOf w) (regNumber x sa n) - 12)) (.sysr w sd (regNumber x sa n)))
    ∧ (∀ sd sa n, s.Gives (.sysw sd sa n) fun t y => SameRegisters x y ∧ y.wait = .sysw ∧ y.body = some b
        ∧ Coming t (.sysw w (regNumber x sa n) (sread x sd)))
    ∧ (∀ sa k, tlbiOk x sa k = true → s.Gives (.tlbi sa k) fun t y => SameRegisters x y ∧ y.wait = .tlbi k (sread x sa) x.part
        ∧ y.body = some b ∧ Coming t (.tlbiComplete (Fin.ofNat 24576 w))))
  ∧ (∀ (s : State) (w : WarpId) (x : Warp) (b : Body) (k : Fin 3) (v : W64) (p : BitVec 4), sget s.chip.warps w.val = some x →
    x.body = some b → x.wait = .tlbi k v p → s.Next (.tlbiComplete w) fun t =>
      (∃ y, sget t.chip.warps w.val = some y ∧ y.wait = .none ∧ SameRegisters x y)
      ∧ (∀ n, ∀ e ∈ (coreAt t.chip n).tlb, tlbiHits k v p e = false)
      ∧ ∀ n l, sget t.chip.ctlb n = some l → ∀ e ∈ l, tlbiHits k v p e = false)
  ∧ (∀ (s : State) (v : W64) (f : Fin 16) (n : Nat),
    (n = rCoTimeout ∨ n = rBackoff ∨ n = rRoute ∨ n = rMcast ∨ ∃ core : CoreId, n = rKvec core.val ∨ n = rFrBase core.val
      ∨ n = rTrBase core.val ∨ n = rTrCtl core.val ∨ n = rSmpl core.val) →
    (s.Next (.registerWrite (.bar0 0 n v)) fun t => dev t.chip n = v &&& regMask n)
    ∧ (s.Next (.registerWrite (.wheel n v)) fun t => dev t.chip n = v &&& regMask n)
    ∧ (f ≠ 0 → s.Next (.registerWrite (.bar0 f n v)) fun t => dev t.chip n = dev s.chip n))
  ∧ (∀ (s : State) (f : Fin 16) (n : Nat), writeFirst s.chip n 24576 = false →
    (regNamed n = true → mayRead s.chip f.val n = true → s.Next (.registerWrite (.bar0Read f n)) fun t =>
      t.chip.out = s.chip.out ++ [.bar0 f (regRead s.chip f.val n)])
    ∧ (regNamed n = false ∨ mayRead s.chip f.val n = false → s.Next (.registerWrite (.bar0Read f n)) fun t =>
      t.chip.out = s.chip.out ++ [.bar0 f 0]
        ∧ fld (dev t.chip rLogHead).toNat 0 8 = (fld (dev s.chip rLogHead).toNat 0 8 + 1) % 256))

/-- R257, R261 to R265, R300: ENTER and LEAVE push and pop the region stack; CONERD asks for a stamp, and those of a cycle
are issued at its end in the order of core and WARP, each greater than the one before; BKPT does nothing in
kernel mode, and in worker mode is a kernel trap behind itself; a stop request starts anew for every warp of its core; a
sample takes the next warp. -/
def Obligations.RegionAndDebugResults : Prop :=
  (∀ (s : State) (x : Warp) (b : Body), s.Runs x b → s.Bare →
    (∀ n : Fin 2048, s.Gives (.enter n) fun _ y => y.regions = (BitVec.ofNat 11 n.val :: x.regions).take 16
      ∧ y.rgnDepth = (if x.rgnDepth = 255 then 255 else x.rgnDepth + 1) ∧ y.v = x.v ∧ y.s = x.s ∧ y.p = x.p)
    ∧ (∀ n : Fin 2048, s.Gives (.leave n) fun _ y => y.v = x.v ∧ y.s = x.s ∧ y.p = x.p
      ∧ y.regions = (if x.rgnDepth = 0 then x.regions else x.regions.drop 1)
      ∧ y.rgnDepth = if x.rgnDepth = 0 then 0 else if x.rgnDepth = 255 then 255 else x.rgnDepth - 1)
    ∧ (∀ sd, s.Gives (.conerd sd) fun t y => SameRegisters x y
      ∧ t.chip.stamps = s.chip.stamps ++ [(s.warpNo, .conerd s.warpNo sd)]
      ∧ (sd.val ≠ 0 → sget y.ready (codeS sd.val) = some (some (s.chip.cycle + 8))))
    ∧ (∀ n, (x.kernel = true → s.Gives (.bkpt n) fun _ y => SameButIssue x y)
      ∧ (s.CanTrap x → (s.chip.cur.next.toNat < b.stop.toNat → s.Gives (.bkpt n) fun t y =>
          Trapped s t x y s.chip.cur.next b.hdr b.prio b.mask)
        ∧ (b.stop.toNat ≤ s.chip.cur.next.toNat → s.Gives (.bkpt n) fun t y =>
          ∃ prio, Trapped s t x y (nextHeader b.stop) (nextHeader b.stop) prio b.mask))))
  ∧ (∀ (m : Memory) (c : Chip) (a b : Nat) (x y : Warp) (sa sb : SReg), a < b → sget c.warps a = some x →
    sget c.warps b = some y → c.stamps = [(b, .conerd b sb), (a, .conerd a sa)] → c.lastStamp.toNat + 1 < 2 ^ 64 - 1 →
    c.conePhys.toNat * 2 ^ 16 < 2 ^ 64 - 1 →
    let u := settleStamps m c
    let first := max (c.conePhys.toNat * 2 ^ 16) (c.lastStamp.toNat + 1)
    u.stamps = [] ∧ u.lastStamp.toNat = first + 1 ∧ (∃ z, sget u.warps a = some z ∧ WroteS x z sa (BitVec.ofNat 64 first))
      ∧ ∃ z, sget u.warps b = some z ∧ WroteS y z sb (BitVec.ofNat 64 (first + 1)))
  ∧ (∀ (s : State) (core : CoreId) (v : BitVec 64), s.Next (.dbgStop core v) fun t =>
    fld (dev t.chip (rDbgStop core.val)).toNat 0 8 = fld v.toNat 0 8
      ∧ ∀ w x, sget s.chip.warps w = some x → ∃ y, sget t.chip.warps w = some y ∧ SameRegisters x y
        ∧ (coreOf w = core.val → y.dbgStopped = false))
  ∧ (∀ (s : State) (core : CoreId) (w : Nat), sampleWarp s.chip core.val (coreAt s.chip core.val).sampleNext = some w →
    s.Next (.traceSample core) fun t => (coreAt t.chip core.val).sampleNext = slotOf w + 1 ∧ t.chip.warps = s.chip.warps
      ∧ (bit (dev s.chip (rTrCtl core.val)).toNat 5 = true →
          (coreAt t.chip core.val).traceSeq = (coreAt s.chip core.val).traceSeq + 1))

/-! ## Jobs and the event table -/

/-- R43, R64, R219, R220, R314, R322, R327, R333, R335, R336, R347 to R349: JPOP waits with its block; JDONE and JYIELD end the
warp's part; each job instruction sends its request to the event table and goes on, but for an FWAIT, which waits unless its
block is reclaimed or drained; without a current job, or with a count of 0, it is a precise fault. -/
def Obligations.JobInstructionResults : Prop :=
  ∀ (s : State) (x : Warp) (b : Body), s.Runs x b → s.Bare →
    let w := s.warpNo
    let asks := fun (i : Instr) (name : BitVec 26) (op : KilnOp) (P : Warp → Prop) => s.Gives i fun t y => SameRegisters x y ∧ P y
      ∧ ∃ id r, sget t.chip.kreqs id = some r ∧ r.w = w ∧ r.part = x.part ∧ r.name = name ∧ r.op = op
        ∧ Coming t (.eventRequestArrival id)
    (∀ (sd : SReg) (mb : Fin 8) (g : Fin 256), x.block = some g → x.kernel = false → mb.val = gMbox s.chip g.val → x.job = none →
      s.Gives (.jpop sd mb) fun _ y => SameRegisters x y ∧ y.wait = .jpop sd ∧ y.body = some b)
    ∧ (∀ name, x.job = some name →
      asks .jdone name (.jdone (blockKey s.chip w)) (fun y => y.job = none)
      ∧ (∀ sa, asks (.jyield sa) name (.jyield (blockKey s.chip w) (sread x sa)) (fun y => y.job = none))
      ∧ (∀ (sd sa : SReg),
        let words : Vector W64 4 := Vector.ofFn fun i => sread x (Fin.ofNat 32 (sa.val + i.val))
        asks (.fspawn sd sa) (words[0].setWidth 26) (.fspawn sd words (eventAt s.chip (evIdx name)).stream name false)
          (fun y => y.job = some name))
      ∧ asks .fcommit name .fcommit (fun y => s.chip.cycle + 16 ≤ y.nextIssue))
    ∧ (∀ sa : SReg, goodName s.chip x sa →
      let name := (sread x sa).setWidth 26
      (∀ n : Fin 2048, n.val ≠ 0 → asks (.fref sa n) name (.fref n.val) (fun y => y.wait = x.wait)
        ∧ asks (.fdrop sa n) name (.fdrop n.val) (fun y => y.wait = x.wait)
        ∧ asks (.evsig sa n) name (.evsig n.val) (fun y => y.wait = x.wait))
      ∧ (x.rcl = false → x.drn = false → asks (.fwait sa) name .fwait (fun y => y.wait = .fwait name ∧ y.body = some b))
      ∧ (x.rcl = true ∨ x.drn = true → s.Gives (.fwait sa) fun _ y => SameRegisters x y ∧ y.wait = x.wait)
      ∧ ∀ sd p, asks (.fpoll sd sa p) name (.fpoll sd p b.mask) (fun y => y.polls = x.polls + 1))
    ∧ (s.CanTrap x → (x.job = none → s.Faults .jdone x b ∧ s.Faults .fcommit x b ∧ (∀ sa, s.Faults (.jyield sa) x b)
        ∧ ∀ sd sa, s.Faults (.fspawn sd sa) x b)
      ∧ ∀ sa, s.Faults (.fref sa 0) x b ∧ s.Faults (.fdrop sa 0) x b ∧ s.Faults (.evsig sa 0) x b)

/-- R43, R213, R214, R216, R218, R219, R221, R246, R349: what each request does at a local entry, the end of a job's last part, a
job's push and pop and the return of a JPOP, the requests and answers of other chips, none of which works in recovery (R279), and the
Wheel's write of an entry. -/
def Obligations.EventTableResults : Prop :=
  ∀ s : State,
    (∀ id r, sget s.chip.kreqs id = some r → isLocal s.chip r.name = true →
      let e := eventAt s.chip (evIdx r.name)
      let after := fun (P : Event → Prop) => s.Next (.eventRequestArrival id) fun t => P (eventAt t.chip (evIdx r.name))
      (∀ n, r.op = .fref n → e.state = sWAITING ∨ e.state = sREADY ∨ e.state = sRUNNING ∨ e.state = sDONE →
        after fun f => f.cnt = BitVec.ofNat 16 (min 65535 (e.cnt.toNat + n)) ∧ f.state = e.state)
      ∧ (∀ n, r.op = .fdrop n → n < e.cnt.toNat → e.state ≠ sFREE → e.state ≠ sCOUNTER →
        after fun f => f.cnt.toNat = e.cnt.toNat - n ∧ f.state = e.state)
      ∧ (r.op = .fcommit → after fun f => f.cmt = true ∧ f.state = e.state)
      ∧ (∀ sd p act x, r.op = .fpoll sd p act → sget s.chip.warps r.w = some x → s.Next (.eventRequestArrival id) fun t =>
        ∃ y, sget t.chip.warps r.w = some y ∧ WroteS x y sd (pollWord x e.state.val e.gen e.cval) ∧ y.v = x.v
          ∧ WroteP x y act p (fun _ => (e.state == sDONE || (e.state == sCOUNTER && e.cval != 0)) && !x.rcl && !x.drn)
          ∧ y.polls = x.polls - 1)
      ∧ (∀ n, r.op = .evsig n →
        (e.state = sCOUNTER → after fun f => f = { e with cval := e.cval + BitVec.ofNat 32 n })
        ∧ (e.state ≠ sCOUNTER → reusable e = true → after fun f => f.state = sCOUNTER ∧ f.gen = e.gen + 1 ∧ f.cval = BitVec.ofNat 32 n
          ∧ f.cnt = 0)
        ∧ (e.state ≠ sCOUNTER → reusable e = false → after fun f => f = e))
      ∧ (∀ sd words stream parent x, r.op = .fspawn sd words stream parent false → sget s.chip.warps r.w = some x →
        let good := words[0].toNat < 2 ^ 38 ∧ words[1].toNat < 2 ^ 48 ∧ words[3] = 0
          ∧ inRange s.chip r.part.toNat (evIdx r.name) = true ∧ tplValid s.chip (fld words[0].toNat 26 12) = true
          ∧ (eventAt s.chip (evIdx parent)).info.children.length < 64 ∧ x.rcl = false ∧ x.drn = false ∧ reusable e = true
        let gives := fun (v : W64) (P : Event → Prop) => s.Next (.eventRequestArrival id) fun t =>
          P (eventAt t.chip (evIdx r.name)) ∧ ∃ y, sget t.chip.warps r.w = some y ∧ WroteS x y sd v
        (good → ∀ out c, kilnRead s.mem s.chip r.part words[2].toNat 64 = .ok (out, c) → gives (r.name.setWidth 64) fun f =>
          f.state = sREADY ∧ f.gen = e.gen + 1 ∧ f.cnt = BitVec.ofNat 16 (min 65535 (fld words[1].toNat 32 16 + 1))
            ∧ f.tpl = BitVec.ofNat 12 (fld words[0].toNat 26 12) ∧ f.x = BitVec.ofNat 16 words[1].toNat
            ∧ f.y = BitVec.ofNat 16 (words[1].toNat / 2 ^ 16) ∧ f.stream = stream ∧ f.info.arg = words[2]
            ∧ f.info.out = BitVec.ofNat 64 out ∧ f.info.child = true ∧ f.info.parent = parent)
        ∧ (good → ∀ q, kilnRead s.mem s.chip r.part words[2].toNat 64 = .error q → q.again = false →
          gives (BitVec.allOnes 64) fun f => f = e)
        ∧ (¬good → gives (BitVec.allOnes 64) fun f => f = e))
      ∧ (∀ key : Nat, e.info.block.map (fun p => p.1 * 256 + p.2.val) = some key → e.state = sRUNNING → e.info.popped = true →
        e.info.jdone = false → e.info.parts ≤ 1 → e.info.reclaim = false → e.info.failed = false →
        (r.op = .jdone key → e.info.yieldTo = none →
          after fun f => f.pend = BitVec.ofNat 8 e.info.cmds ∧ f.info.block = none ∧ f.cnt = e.cnt
            ∧ f.state = if e.info.cmds = 0 then sDONE else sRUNNING)
        ∧ ∀ cont, r.op = .jyield key cont →
          after fun f => f.state = sREADY ∧ f.info.arg = cont ∧ f.info.cont = true ∧ f.info.block = none ∧ f.cnt = e.cnt))
    ∧ (∀ i core mb, (eventAt s.chip i).info.queued = some (core, mb) → core < 192 →
      let closed := (coreAt s.chip core).noPush || fenced s.chip core
      (closed = false → s.Next (.mailboxPush i) fun t =>
        (coreAt t.chip core).mail[mb % 8] =
            (coreAt s.chip core).mail[mb % 8] ++ [{ idx := i, words := jobWords s.chip i (eventAt s.chip i) }]
          ∧ ∃ k : CoreId, k.val = core ∧ Due t s.chip.cycle (.jobPop k (Fin.ofNat 8 mb)))
      ∧ (closed = true → s.Next (.mailboxPush i) fun t => (∀ z ∈ (coreAt t.chip core).mail[mb % 8], z.idx ≠ i)
        ∧ (eventAt t.chip i).info.queued = none ∧ (eventAt t.chip i).state = (eventAt s.chip i).state))
    ∧ (∀ (core : CoreId) (mb : Fin 8) (g : Nat) (gs : List Nat) (z : MboxEntry) (zs : List MboxEntry),
      waitingBlocks s.chip core.val mb = g :: gs →
      (coreAt s.chip core.val).mail[mb.val] = z :: zs → s.Next (.jobPop core mb) fun t =>
        (coreAt t.chip core.val).mail[mb.val] = zs ∧ (eventAt t.chip z.idx).state = sRUNNING
        ∧ (eventAt t.chip z.idx).core = BitVec.ofNat 8 core.val
        ∧ (eventAt t.chip z.idx).info.words = z.words
        ∧ ∀ w ∈ warpsOfBlock s.chip core.val (Fin.ofNat 256 g), ∀ x, sget s.chip.warps w = some x →
          ∃ y, sget t.chip.warps w = some y ∧ y.job = some (localName s.chip z.idx) ∧ SameRegisters x y
            ∧ Due t (s.chip.cycle + 12) (.wake w 0))
    ∧ (∀ w x b sd n, sget s.chip.warps w = some x → x.body = some b → x.wait = .jpop sd → x.job = some n →
      ∃ t y, fire (.wake w 0) s = .next t ∧ sget t.chip.warps w = some y ∧ y.wait = .none ∧ y.v = x.v
        ∧ y.rcl = (eventAt s.chip (evIdx n)).info.reclaim ∧ y.jobGen = (eventAt s.chip (evIdx n)).gen
        ∧ (sd.val + 3 < 32 → ∀ k : Fin 4, sd.val + k.val ≠ 0 →
          sread y (Fin.ofNat 32 (sd.val + k.val)) = (eventAt s.chip (evIdx n)).info.words[k.val]))
    ∧ (s.Canonical → s.chip.recovery = true → (∀ r : RemoteReq, s.Next (.kilnRemoteRequest r) fun t => t = s)
      ∧ ∀ a : RemoteAns, s.Next (.kilnRemoteAnswer a) fun t => t = s)
    ∧ (∀ r : RemoteReq, s.chip.recovery = false → inRange s.chip r.part.val r.idx.val = true →
      let e := eventAt s.chip r.idx.val
      (∀ n, r.op = .fref n → e.state = sWAITING ∨ e.state = sREADY ∨ e.state = sRUNNING ∨ e.state = sDONE →
        s.Next (.kilnRemoteRequest r) fun t => (eventAt t.chip r.idx.val).cnt = BitVec.ofNat 16 (min 65535 (e.cnt.toNat + n.val)))
      ∧ (∀ token, r.op = .query token false → s.Next (.kilnRemoteRequest r) fun t =>
        t.chip.stamps = s.chip.stamps ++ [(ownStamp, .send (.answer r.chip.val 0
          { token := token, state := e.state, gen := e.gen, cval := e.cval, held := false, stamp := 0 }))])
      ∧ (∀ token, r.op = .subscribe token → e.state = sWAITING ∨ e.state = sREADY ∨ e.state = sRUNNING →
        s.Next (.kilnRemoteRequest r) fun t => (eventAt t.chip r.idx.val).cnt = BitVec.ofNat 16 (min 65535 (e.cnt.toNat + 1))
          ∧ subsOf t.chip r.idx.val = subsOf s.chip r.idx.val ++ [.chip (token * 1024 + r.chip.val)]))
    ∧ (∀ (a : RemoteAns) (q : KilnReq), s.chip.recovery = false → sget s.chip.kreqs a.token = some q → q.op = .fwait →
      s.Next (.kilnRemoteAnswer a) fun t => Due t (s.chip.cycle + 24 + linkOw s.chip (chipOf q.name))
        (.wake q.w (if a.state.val = 4 ∨ (a.state.val = 7 ∧ a.cval ≠ 0) then 1 else 0)))
    ∧ (∀ (e : Fin 65536) (v : BitVec 128), (fld v.toNat 2 3 ≠ 0 → s.Next (.klnEvFreeWrite e v) fun t =>
        (eventAt t.chip e.val).state = (eventAt s.chip e.val).state ∧ (eventAt t.chip e.val).cnt = (eventAt s.chip e.val).cnt)
      ∧ (fld v.toNat 2 3 = 0 → s.Next (.klnEvFreeWrite e v) fun t =>
        (eventAt t.chip e.val).state = sFREE ∧ (eventAt t.chip e.val).gen = (eventAt s.chip e.val).gen
          ∧ (eventAt t.chip e.val).cnt = 0 ∧ (eventAt t.chip e.val).cval = 0))

/-! ## Operator streams -/

/-- R203 to R208, R214: what each word of a running stream does: the words that move the stream (JUMP, LOOP, YIELD, FENCE, WAITEV,
HOSTSIG, END), that signal and drop events (SIGEV, DROP), a word of no KOP, and a word whose page cannot be read. -/
def Obligations.OperatorWordResults : Prop :=
  ∀ (s : State) (st : StreamId) (w : BitVec 256),
    let x := streamAt s.chip st.val
    let next := x.pc + 256
    (s.HasWord st w →
      ((wArg w).toNat % 256 = 0 → s.Next (.jump st) fun t => RunsOn t st (wArg w))
      ∧ ((wArg w).toNat % 256 ≠ 0 → (s.Next (.jump st) fun t => Stopped t st 0x02) ∧ s.Next (.loop st) fun t => Stopped t st 0x02)
      ∧ ((wArg w).toNat % 256 = 0 →
        let k := wF w 8 2
        let old := fld x.loop.toNat (16 * k) 16
        let left := (if old = 0 then max 1 (wCons w) else old) - 1
        s.Next (.loop st) fun t => RunsOn t st (if left = 0 then next else wArg w)
          ∧ fld (streamAt t.chip st.val).loop.toNat (16 * k) 16 = left)
      ∧ (s.Next (.yield st) fun t => RunsOn t st next ∧ t.chip.fetcher.yielded = some st)
      ∧ (wCons w ≤ 63 → s.Next (.hostsig st) fun t => RunsOn t st next ∧ (streamAt t.chip st.val).host = wArg w
        ∧ (s.chip.recovery = false → ((sget s.chip.msixMask x.part.toNat).getD 0).getLsbD (wCons w) = false →
          64 * x.part.toNat + wCons w ∈ t.chip.raised))
      ∧ (63 < wCons w → s.Next (.hostsig st) fun t => Stopped t st 0x02)
      ∧ (s.Next (.endStream st) fun t => (streamAt t.chip st.val).state = 5 ∧ (streamAt t.chip st.val).pc = next
        ∧ t.chip.fetcher.busy = none)
      ∧ (streamBusy s.chip st.val = false → s.Next (.kopFence st) fun t => RunsOn t st next)
      ∧ (streamBusy s.chip st.val = true → s.Next (.kopFence st) fun t => (streamAt t.chip st.val).state = 2
        ∧ (streamAt t.chip st.val).wait = .fence ∧ (streamAt t.chip st.val).pc = x.pc ∧ t.chip.fetcher.busy = none)
      ∧ (isLocal s.chip (wProd w) = true →
        let e := eventAt s.chip (evIdx (wProd w))
        (e.state = sDONE ∨ (e.state = sCOUNTER ∧ wCons w ≤ e.cval.toNat) → s.Next (.waitev st) fun t => RunsOn t st next)
        ∧ (e.state = sFAILED ∨ e.state = sRECLAIMED → s.Next (.waitev st) fun t => Stopped t st 0x07)
        ∧ (e.state = sWAITING ∨ e.state = sREADY ∨ e.state = sRUNNING → s.Next (.waitev st) fun t =>
          (streamAt t.chip st.val).state = 2 ∧ (streamAt t.chip st.val).wait = .waitev (wProd w) (BitVec.ofNat 16 (wCons w)))
        ∧ (e.state = sCOUNTER → e.cval ≠ 0 → s.Next (.sigev st) fun t => RunsOn t st next
          ∧ (eventAt t.chip (evIdx (wProd w))).cval = e.cval + BitVec.ofNat 32 (wCons w))
        ∧ (e.state = sFREE → s.Next (.sigev st) fun t => RunsOn t st next
          ∧ (eventAt t.chip (evIdx (wProd w))).state = sCOUNTER ∧ (eventAt t.chip (evIdx (wProd w))).gen = e.gen + 1
          ∧ (eventAt t.chip (evIdx (wProd w))).cval.toNat = wCons w)
        ∧ (e.state = sWAITING ∨ e.state = sREADY ∨ e.state = sRUNNING → s.Next (.sigev st) fun t => Stopped t st 0x04))
      ∧ (wGx w * wGy w = 1 →
        let i := (wEb w % 65536 + wordOff x w) % 65536
        let e := eventAt s.chip i
        wEb w % 2 ^ 26 / 65536 = s.chip.chipNo.toNat → wCons w < e.cnt.toNat → e.state ≠ sFREE → e.state ≠ sCOUNTER →
        s.Next (.drop st) fun t => RunsOn t st next ∧ (eventAt t.chip i).cnt.toNat = e.cnt.toNat - wCons w
          ∧ (eventAt t.chip i).state = e.state))
    ∧ (s.chip.fetcher.busy = some st → x.state = 1 → x.stopping = false →
      (s.Next (.badkop st) fun t => Stopped t st 0x01 ∧ t.chip.fetcher.busy = none)
      ∧ (s.Next (.operatorWordFetchFault st) fun t => Stopped t st 0x06 ∧ t.chip.fetcher.busy = none))

/-- R205, R207, R209 to R213: TILE is checked when it begins; it then creates one event a cycle from the index at which it stopped
before, with its fields from the word and its output address from the argument block, READY where it has no producer, and with the
producer that a stencil of one bit names in each of its states; it goes on behind the last. PIN, UNPIN and PREFETCH enter copy queue 3
of the core that they name. -/
def Obligations.TileAndCopyWordResults : Prop :=
  ∀ (s : State) (st : StreamId) (w : BitVec 256), s.HasWord st w →
    let x := streamAt s.chip st.val
    let next := x.pc + 256
    let i := if s.chip.fetcher.begun then s.chip.fetcher.index else if x.part_way then x.eidx.toNat else 0
    let tiles := wGx w * wGy w
    let base := wEb w % 65536 + wordOff x w
    let n := (wEb w + wordOff x w + i) % 65536
    let begins := s.chip.fetcher.begun = true ∨ tileBad s.chip x w = none
    let creates := fun (P : State → Event → Prop) => begins → i < tiles → reusable (eventAt s.chip n) = true →
      ∀ out c, kilnRead s.mem s.chip x.part (wArg w).toNat 64 = .ok (out, c) → s.Next (.tile st) fun t =>
        let e := eventAt t.chip n
        t.chip.fetcher.index = i + 1 ∧ t.chip.fetcher.busy = some st ∧ Due t (s.chip.cycle + 1) (.tile st)
          ∧ e.gen = (eventAt s.chip n).gen + 1 ∧ e.tpl.toNat = wTpl w ∧ e.cnt.toNat = wCons w
          ∧ e.x = BitVec.ofNat 16 (i % wGx w) ∧ e.y = BitVec.ofNat 16 (i / wGx w) ∧ e.stream.toNat = st.val
          ∧ e.info.arg = wArg w ∧ e.info.out = BitVec.ofNat 64 (out + i * tplOutSz s.chip (wTpl w)) ∧ P t e
    (s.chip.fetcher.begun = false →
      let stops := fun (code : Nat) => s.Next (.tile st) fun t => Stopped t st code ∧ t.chip.fetcher.busy = none
      let runs := ∃ e ∈ s.chip.warps, ∃ g, e.2.block = some g ∧ gValid s.chip g.val = true ∧ gWorker s.chip g.val = true
        ∧ gTemplate s.chip g.val = wF w 16 16 ∧ e.2.part = x.part
      let unfit := 4096 ≤ wF w 16 16 ∨ tplValid s.chip (wF w 16 16) = false ∨ ¬runs
      (wEb w / 65536 ≠ s.chip.chipNo.toNat → stops 0x02)
      ∧ (wEb w / 65536 = s.chip.chipNo.toNat →
        (tiles = 0 → s.Next (.tile st) fun t => RunsOn t st next)
        ∧ (0 < tiles → unfit → stops 0x05)
        ∧ (0 < tiles → ¬unfit → 65536 ≤ base + tiles - 1 ∨ inRange s.chip x.part.toNat base = false
            ∨ inRange s.chip x.part.toNat (base + tiles - 1) = false → stops 0x03)))
    ∧ (wSten w = 0 → creates fun _ e => e.state = sREADY ∧ e.info.refs = [])
    ∧ (∀ b < 25, wSten w = 2 ^ b →
      let px := i % wGx w + b % 5
      let py := i / wGx w + b / 5
      let inside := 2 ≤ px ∧ px < wGx w + 2 ∧ 2 ≤ py ∧ py < wGy w + 2
      let k := ((wProd w).toNat + wordOff x w + (py - 2) * wGx w + (px - 2)) % 65536
      let p := BitVec.ofNat 26 ((wProd w).toNat / 65536 * 65536 + k)
      let q := eventAt s.chip k
      (¬inside → creates fun _ e => e.state = sREADY ∧ e.info.refs = [])
      ∧ (inside → (wProd w).toNat / 65536 = s.chip.chipNo.toNat → k ≠ n →
        let taken := fun (t : State) => (eventAt t.chip k).cnt = BitVec.ofNat 16 (min 65535 (q.cnt.toNat + 1))
          ∧ (eventAt t.chip k).state = q.state
        (q.state = sWAITING ∨ q.state = sREADY ∨ q.state = sRUNNING → creates fun t e => e.state = sWAITING ∧ e.pend = 1
          ∧ e.info.refs = [(p, q.gen)] ∧ taken t)
        ∧ (q.state = sDONE → creates fun t e => e.state = sREADY ∧ e.info.refs = [(p, q.gen)] ∧ taken t)
        ∧ (q.state = sFREE ∨ (q.state = sCOUNTER ∧ q.cval ≠ 0) → creates fun t e => e.state = sREADY ∧ e.info.refs = []
          ∧ eventAt t.chip k = q)
        ∧ (q.state = sCOUNTER → q.cval = 0 → creates fun t e => e.state = sWAITING ∧ e.pend = 1 ∧ e.info.refs = []
          ∧ eventAt t.chip k = q)
        ∧ (q.state = sFAILED ∨ q.state = sRECLAIMED → creates fun t e => e.state = sFAILED ∧ eventAt t.chip k = q)))
    ∧ (begins → i < tiles → reusable (eventAt s.chip n) = false → s.Next (.tile st) fun t =>
        Stopped t st 0x04 ∧ (streamAt t.chip st.val).eidx = BitVec.ofNat 32 i ∧ (streamAt t.chip st.val).part_way = true)
    ∧ (begins → tiles ≤ i → s.Next (.tile st) fun t => RunsOn t st next)
    ∧ (let sends := fun (i : Instr) (words : Vector W64 4) (signal : Option (BitVec 32)) => s.Next i fun t => RunsOn t st next
        ∧ (streamAt t.chip st.val).copies = x.copies + 1
        ∧ ∃ id, CmdIs t id fun d => d.words = words ∧ d.signal = signal ∧ d.core = wGx w ∧ d.queue = 3 ∧ d.stream = some st
      (wGx w < 192 →
        sends (.pin st) #v[wArg w, BitVec.ofNat 64 (wLen w), 0, 0xFF3] none
        ∧ sends (.kopUnpin st) #v[wArg w, BitVec.ofNat 64 (wLen w), 0, 0xFF4] none
        ∧ ∀ v c, kilnRead s.mem s.chip x.part (wArg w).toNat 256 = .ok (v, c) →
          sends (.prefetch st) (Vector.ofFn fun i => BitVec.ofNat 64 (fld v (64 * i.val) 64)) (some (BitVec.ofNat 32 (wEb w)))))
    ∧ (192 ≤ wGx w → (s.Next (.pin st) fun t => Stopped t st 0x02) ∧ (s.Next (.kopUnpin st) fun t => Stopped t st 0x02)
      ∧ s.Next (.prefetch st) fun t => Stopped t st 0x02)

/-- R202, R203, R222 to R224, R271: RUN starts a stream and stops it at its next boundary; its registers are written only while it is
IDLE, ENDED or FAULTED; a drain begins, ends its steps and times out, but never where KLN_DRAINTMO is 0; a saved stream is read back
and verified. That the verification of a save area that cannot be read comes 8 cycles later is the model's choice (log 33). -/
def Obligations.StreamResults : Prop :=
  ∀ (s : State) (st : StreamId),
    let x := streamAt s.chip st.val
    let still := x.state = 0 ∨ x.state = 5 ∨ x.state = 6
    let gives := fun (i : Instr) (P : Stream → Prop) => s.Next i fun t => P (streamAt t.chip st.val)
    (s.chip.accepted.contains x.part.toNat = true → still → s.Next (.streamRun st) fun t =>
      (streamAt t.chip st.val).run = true ∧ (streamAt t.chip st.val).state = 1 ∧ Due t s.chip.cycle .fetch)
    ∧ (x.state = 1 → (s.chip.fetcher.busy ≠ some st → gives (.streamStop st) fun y => y.run = false ∧ y.state = 0)
      ∧ (s.chip.fetcher.busy = some st → gives (.streamStop st) fun y => y.run = false ∧ y.state = 1 ∧ y.stopping = true))
    ∧ (∀ v, (still → gives (.klnSloopWrite st v) (fun y => y.loop = v)
        ∧ (v.toNat % 256 = 0 → gives (.klnSpcWrite st v) fun y => y.pc = v)
        ∧ (v.toNat % 4096 = 0 → gives (.klnSsaveWrite st v) fun y => y.save = v))
      ∧ (¬still → gives (.klnSloopWrite st v) (fun y => y = x) ∧ gives (.klnSpcWrite st v) (fun y => y = x)
        ∧ gives (.klnSsaveWrite st v) (fun y => y = x)))
    ∧ (∀ v : BitVec 64, fld v.toNat 0 6 = st.val → fld v.toNat 8 6 ≠ st.val → x.state.val < 3 →
      s.Next (.klnPreempt v) fun t => (streamAt t.chip st.val).state = 3 ∧ (streamAt t.chip st.val).frozen = true
        ∧ (∃ d, (streamAt t.chip st.val).drain = some d ∧ d.step = 2 ∧ d.favour.val = fld v.toNat 8 6)
        ∧ Due t s.chip.cycle (.drainStepAdvance st))
    ∧ (∀ e, preemptDue s.chip (eventAt s.chip e) = true → victim s.chip (eventAt s.chip e) = some st.val →
      s.Next (.preemptAutomatic e) fun t => (streamAt t.chip st.val).state = 3
        ∧ (∃ d, (streamAt t.chip st.val).drain = some d ∧ d.step = 2 ∧ d.favour.val = (eventAt s.chip e).stream.toNat)
        ∧ Due t s.chip.cycle (.drainStepAdvance st))
    ∧ (∀ d, x.drain = some d →
      (d.step = 2 → d.timedOut = false → (s.chip.events.all fun e => !(e.2.stream.toNat == st.val && e.2.state == sRUNNING)) = true →
        s.Next (.drainStepAdvance st) fun t => (streamAt t.chip st.val).drain = some { d with step := 3 }
          ∧ Due t s.chip.cycle (.drainStepAdvance st))
      ∧ (d.step = 3 → s.chip.fetcher.busy ≠ some st → (s.chip.cmds.all fun e => decide (e.2.stream ≠ some st)) = true → saveOk (saveFound s.mem s.chip x .store) = false →
        gives (.drainStepAdvance st) fun y => y.state = 6 ∧ y.code = 0x06 ∧ y.drain = none)
      ∧ (dev s.chip rDrainTmo = 0 → s.Next (.drainTimeout st) fun t => t.chip.streams = s.chip.streams
          ∧ t.chip.warps = s.chip.warps)
      ∧ (dev s.chip rDrainTmo ≠ 0 → d.step = 2 → d.timedOut = false → d.since + (dev s.chip rDrainTmo).toNat ≤ s.chip.cycle →
        s.Next (.drainTimeout st) fun t => (streamAt t.chip st.val).drain = some { d with timedOut := true }
          ∧ Due t s.chip.cycle (.drainStepAdvance st)))
    ∧ (x.state = 4 → (saveOk (saveFound s.mem s.chip x .load) = false → s.Next (.streamResume st) fun t =>
        (streamAt t.chip st.val).resuming = true ∧ Due t (s.chip.cycle + 8) (.restoreVerify st))
      ∧ (saveOk (saveFound s.mem s.chip x .load) = true → s.Next (.streamResume st) fun t =>
        (streamAt t.chip st.val).resuming = true ∧ (streamAt t.chip st.val).state = 4
          ∧ ∃ id o, sget t.chip.ops id = some o ∧ o.kind = .restore st ∧ o.width = 1024 ∧ reqsOf t.chip id ≠ []
            ∧ ∀ j : Fin 3, o.addr[j.val] = x.save + BitVec.ofNat 64 (1024 * j.val))
      ∧ ((s.chip.ops.all fun o => o.2.kind != .restore st) = true → gives (.restoreVerify st) fun y => y.state = 6 ∧ y.code = 0x16)
      ∧ (∀ id o r, (s.chip.ops.find? fun o => o.2.kind == .restore st) = some (id, o) → goodRecord s.chip x st.val o = some r →
        fld r (128 + 33) 2 = 0 → gives (.restoreVerify st) fun y => y.state = 1 ∧ y.pc = BitVec.ofNat 64 (fld r 0 64)
          ∧ y.loop = BitVec.ofNat 64 (fld r 64 64) ∧ y.frozen = false ∧ y.wait = .none))

/-! ## The matrix engine and the accumulator file -/

/-- R104, R105, R187 to R200, R388: the instructions that read, write, clear and scale the accumulator file, where their block holds
what they name, and their precise fault where it does not; an SCACC performed changes exactly its band, and an instruction of a lower WARP
still reads in that cycle what stood before it; a matrix command takes its turn at the array, and is REJECTED there and not before;
its drain writes four rows a cycle. -/
def Obligations.MatrixResults : Prop :=
  (∀ (s : State) (x : Warp) (b : Body), s.Runs x b → s.Bare → s.warpNo < 24576 →
    let core := coreOf s.warpNo
    (∀ ac : Fin 4, holdsTile s.chip core x.block ac.val = true →
      (∀ (d : VReg) (row : Fin 128), exceeds x (regRun d.val 4) = false → s.Gives (.accrd ⟨d, ac, row⟩) fun _ y =>
        y.flags = countedUp x b.setA ∧ y.s = x.s ∧ y.p = x.p ∧ ∀ q < 4, ∀ t, lane b.mask t = true →
          vread y (d.val + q) t = accSeen s.chip core (slotOf s.warpNo) (accKey ac.val row.val (32 * q + t.val)))
      ∧ (∀ (d : VReg) (row : Fin 128), s.Gives (.accwr ⟨d, ac, row⟩) fun t y => SameRegisters x y ∧ ∃ n vals, s.chip.cycle < n
        ∧ Due t n (.accWrite s.warpNo (Fin.ofNat 192 core) (accKey ac.val row.val 0) vals)
        ∧ sget y.ready (codeAcc ac.val) = some (some n) ∧ vals.length = 128
        ∧ ∀ k < 128, vals[k]? = some (if lane b.mask (Fin.ofNat 32 k) then some (vread x (d.val + k / 32) (Fin.ofNat 32 k)) else none))
      ∧ (∀ band : Fin 4, s.Gives (.accclr ac band) fun t y => SameRegisters x y ∧ ∃ n, s.chip.cycle + 12 ≤ n
        ∧ Due t n (.accWrite s.warpNo (Fin.ofNat 192 core) (accKey ac.val (32 * band.val) 0) (List.replicate 4096 (some 0)))
        ∧ sget y.ready (codeAcc ac.val) = some (some n)))
    ∧ (∀ pl : Fin 8, holdsPlane s.chip core x.block pl.val = true → ∀ (d : VReg) (row : Fin 128),
      exceeds x (regRun d.val 4) = false → s.Gives (.plnrd ⟨d, pl, row⟩) fun _ y =>
        y.flags = countedUp x b.setA ∧ y.s = x.s ∧ y.p = x.p ∧ ∀ q < 4, ∀ t, lane b.mask t = true →
          vread y (d.val + q) t = accSeen s.chip core (slotOf s.warpNo) (accKey (4 + pl.val) row.val (32 * q + t.val)))
    ∧ (∀ o : ScaccOps, holdsTile s.chip core x.block o.ac.val = true → holdsPlane s.chip core x.block o.pl.val = true →
      let queues := fun (i : Instr) (ue : Bool) => s.Gives i fun t y => y.flags = countedUp x b.setB ∧ y.v = x.v ∧ y.s = x.s
        ∧ ∃ z, (coreAt t.chip core).scaccs = (coreAt s.chip core).scaccs ++ [z] ∧ z.w = s.warpNo ∧ z.ac = o.ac ∧ z.pl = o.pl
          ∧ z.imm = o.imm ∧ z.ue = ue ∧ z.at_ = max (s.chip.cycle + 12) (coreAt s.chip core).scaleFree
          ∧ z.sa = Vector.ofFn (src32 x o.va) ∧ (coreAt t.chip core).scaleFree = z.at_ + 8
          ∧ Due t z.at_ (.scaccPerform (Fin.ofNat 192 core))
      queues (.scacc o) false ∧ queues (.scaccUe4m3 o) true)
    ∧ (s.CanTrap x → ∀ ac : Fin 4, holdsTile s.chip core x.block ac.val = false →
      (∀ d row, s.Faults (.accwr ⟨d, ac, row⟩) x b) ∧ ∀ band, s.Faults (.accclr ac band) x b))
  ∧ (∀ (s : State) (core : CoreId) (z : Scacc) (r : List Scacc), (coreAt s.chip core.val).scaccs = z :: r → z.at_ ≤ s.chip.cycle →
    s.Next (.scaccPerform core) fun t =>
      (coreAt t.chip core.val).scaccs = r
      ∧ (∀ (i u : Fin 32) (k : Fin 4) (v : Vector W32 32), z.sb[k.val]? = some v →
        let row := 32 * (z.imm.val / 4) + i.val
        let col := 32 * k.val + u.val
        let old := accGet s.chip core.val
        accGet t.chip core.val (accKey z.ac.val row col) =
          scaledSum z.ue (old (accKey z.ac.val row col)) (old (accKey (4 + z.pl.val) row col))
            (fld z.sa[i.val].toNat (8 * (z.imm.val % 4)) 8) (fld v[u.val].toNat (8 * (z.imm.val % 4)) 8))
      ∧ (∀ key, (∀ (i : Fin 32) (j : Fin 128), key ≠ accKey z.ac.val (32 * (z.imm.val / 4) + i.val) j.val) →
        accGet t.chip core.val key = accGet s.chip core.val key)
      ∧ ((coreAt s.chip core.val).accPastAt ≠ s.chip.cycle → ∀ slot key, accSeen t.chip core.val slot key =
        if slot < slotOf z.w then accGet s.chip core.val key else accGet t.chip core.val key))
  ∧ (∀ (s : State) (id : Nat) (d : Cmd) (sh : BitVec 512), s.MayStart id d → d.mx = none → d.shape = some sh →
    (coreAt s.chip d.core).mxC ≤ s.chip.cycle → arrayWinner s.chip d.core = some id →
    ∀ i ∈ ([.matrixAcc id, .matrixPlane id, .matrixAccClear id] : List Instr), s.Next i fun t =>
      CmdIs t id (fun e => e.mx.isSome = true ∧ e.words = d.words) ∧ Due t s.chip.cycle (.matrixBlockStep id))
  ∧ (∀ (s : State) (id : Nat) (d : Cmd) (c : Chip), s.MayStart id d → d.mx = none → d.shape = none →
    readParams s.mem s.chip d = .ok (none, c) →
    ∀ i ∈ ([.matrixAcc id, .matrixPlane id, .matrixAccClear id] : List Instr),
      ((coreAt s.chip d.core).mxC ≤ s.chip.cycle → arrayWinner s.chip d.core = some id → s.Next i fun t =>
        CmdIs t id fun e => e.finished = some 3)
      ∧ (s.chip.cycle < (coreAt s.chip d.core).mxC → s.Next i fun t =>
        CmdIs t id (fun e => e.finished = none ∧ e.mx = none) ∧ Due t (coreAt s.chip d.core).mxC (startEv d id)))
  ∧ (∀ (s : State) (id : Nat) (d : Cmd) (r : MxRun) (sh : BitVec 512) (x y : Nat) (sums : List W32), sget s.chip.cmds id = some d →
    d.mx = some r → d.shape = some sh → d.finished = none → r.plan = [] → r.blocks = [(x, y)] → x + pbP sh.toNat < s.chip.cycle →
    y ≤ s.chip.cycle → s.chip.cycle < y + 32 → sget r.sums 0 = some sums →
    s.Next (.matrixBlockStep id) fun t => Due t (s.chip.cycle + 1) (.matrixBlockStep id)
      ∧ ∀ q < 4, ∀ j < pbN sh.toNat,
        let i := 4 * (s.chip.cycle - y) + q
        let v := sums.getD (i * pbN sh.toNat + j) 0
        let key := accKey (mxTile d) i j
        i < pbM sh.toNat → (mxMode d = 1 → accGet t.chip d.core (accKey (4 + mxPlane d) i j) = v)
          ∧ (mxMode d = 2 → accGet t.chip d.core key = accAdd sh.toNat 0 v)
          ∧ (mxMode d = 0 → accGet t.chip d.core key = accAdd sh.toNat (accGet s.chip d.core key) v))

/-! ## Reset, steps and decoding -/

/-- R271, R283, R170, R196, R235, R214 and R259: what reset leaves where the spec says it: no block is placed, no stream runs,
every event is FREE, tags are idle, accumulators are +0, PHASE and PHALLOW are 0, and each device register of R271's table has
its value at bring-up. The clock is at 2.5 GHz (R3). What the spec does not give a value is not named here (log 1). -/
def Obligations.ResetLeaves : Prop :=
  let c := State.reset.chip
  State.reset.Canonical ∧ (∀ w, sget c.warps w = none) ∧ c.cycle = 0 ∧ c.period = 400 ∧ c.conePhys = 0 ∧ c.recovery = false
    ∧ (∀ n, let x := streamAt c n
        x.state = 0 ∧ x.run = false ∧ x.part = 0 ∧ x.prio = 0 ∧ x.pc = 0 ∧ x.loop = 0 ∧ x.save = 0 ∧ x.host = 0 ∧ x.code = 0
          ∧ x.eidx = 0 ∧ x.wait = .none)
    ∧ (∀ i, let e := eventAt c i
        e.state = sFREE ∧ e.gen = 0 ∧ e.cval = 0 ∧ e.cmt = false ∧ e.core = 0 ∧ e.stream = 0 ∧ e.y = 0 ∧ e.x = 0 ∧ e.tpl = 0
          ∧ e.cnt = 0 ∧ e.pend = 0)
    ∧ (∀ k, (∀ i : Fin 64, (coreAt c k).tags[i.val] = .idle) ∧ (coreAt c k).phase = 0 ∧ (coreAt c k).phAllow = 0
        ∧ ∀ n, accGet c k n = 0)
    ∧ dev c rPrewait = 16384 ∧ dev c rDrainTmo = 65536 ∧ dev c rCoTimeout = 1048576 ∧ dev c rBackoff = 0x10000040
    ∧ dev c rRoute = 0xD93B48 ∧ (∀ p < 16, dev c (rPtn p 6) = 65536)
    ∧ (∀ p < 16, ∀ k < 12, k ≠ 6 → dev c (rPtn p k) = 0)
    ∧ (∀ n ∈ [rPreempt, rKlnErr, rConePhys, rLogBase, rLogHead, rCeCnt, rFatal, rFence 0, rFence 1, rFence 2, rMcast, rThrCause,
        rSite 0, rSite 1, rSite 2], dev c n = 0)
    ∧ (∀ n, 16 ≤ n → n < 48 → dev c n = 0) ∧ (∀ n, 512 ≤ n → n < 608 → dev c n = 0)
    ∧ (∀ n, 1024 ≤ n → n < 262144 → dev c n = 0)

/-- R26, R47, R52, R61: a step whose warp's bytes at the program counter decode to an instruction is the meaning of that
instruction, with the next instruction behind its bytes; an event that is due runs by its own meaning; a cycle ends when every
slice has had its turn; and every instruction of the table answers a next state in every state. -/
def Obligations.StepRunsDecodedInstruction : Prop :=
  (∀ (s : State) (x : Warp) (b : Body) (i : Instr) (h g : Nat),
    s.Runs x b → s.chip.phase = .issue → fetchBits s.mem s.chip s.warpNo s.chip.cur.pc 16 = .val h →
      (h % 2 = 0 → decode (halfBytes h) = .ok (i, 2) → step s = exec i (atIssue s 16))
      ∧ (h % 2 = 1 → s.chip.cur.pc.toNat + 32 ≤ b.stop.toNat →
          fetchBits s.mem s.chip s.warpNo (s.chip.cur.pc + 16) 16 = .val g →
          (decode (halfBytes h ++ halfBytes g) = .ok (i, 4) → step s = exec i (atIssue s 32))
          ∧ (∀ e, decode (halfBytes h ++ halfBytes g) = .error e → step s = exec .encodingNotAnInstruction (atIssue s 32)))
      ∧ (h % 2 = 1 → b.stop.toNat < s.chip.cur.pc.toNat + 32 → step s = exec .encodingNotAnInstruction (atIssue s 16)))
  ∧ (∀ (s : State) (n : Nat), (atIssue s n).mem = s.mem
      ∧ (atIssue s n).chip = { s.chip with cur := { s.chip.cur with next := s.chip.cur.pc + BitVec.ofNat 64 n } })
  ∧ (∀ (s : State) (e : Ev), s.chip.phase = .idle → dueEvent s.chip = some e → step s = fire e (popEvent s))
  ∧ (∀ s : State, s.chip.phase = .idle → dueEvent s.chip = none → 6144 ≤ s.chip.pos → s.chip.stamps = [] → s.chip.abandoned = [] →
      s.chip.wlog = [] → ∃ t, step s = .next t ∧ t.chip.cycle = s.chip.cycle + 1 ∧ t.chip.wall = s.chip.wall + s.chip.period ∧ t.chip.pos = 0
        ∧ t.mem = s.mem)
  ∧ ∀ (i : Instr) (s : State), ∃ t, exec i s = .next t

/-- R56, R58, R61, R63: a few words laid out from the spec's encodings are the instructions they stand for. -/
def Obligations.DecodedExampleWords : Prop :=
  decodeTableWord 32 0x01011591 = some (.ffma ⟨10, .v 1 false, .v 2 false⟩)
    ∧ decodeTableWord 32 0x082686FF = some (.pfx ⟨false, true, false, .v 9 false, 5, .p 3, .keep⟩)
    ∧ decodeTableWord 32 (0x01 + 0x00 * 2 + 5 * 2 ^ 9 + 6 * 2 ^ 16 + (96 + 7) * 2 ^ 23 + 2 ^ 30) = some (.iadd ⟨5, .v 6 true, .s 7⟩)
    ∧ decodeTableWord 32 (0x01 + 0x30 * 2 + 3 * 2 ^ 11 + 4 * 2 ^ 16 + 1023 * 2 ^ 21 + 2 ^ 31) = some (.saddImm ⟨3, 4, 1023⟩)
    ∧ decodeTableWord 32 (0x01 + 0x20 * 2 + 1 * 2 ^ 7 + 9 * 2 ^ 9 + 5 * 2 ^ 16 + 2 * 2 ^ 21 + 7 * 2 ^ 28) = some (.ld ⟨9, 5, .v 2, 7, true, false⟩)
    ∧ decodeTableWord 32 (0x01 + 0x28 * 2 + 3 * 2 ^ 7 + 17 * 2 ^ 21) = some (.bar 17)
    ∧ decodeTableWord 32 (0x01 + 0x37 * 2 + 4 * 2 ^ 9 + 2 ^ 15 + 0xFFFE * 2 ^ 16) = some (.brp 4 true 0xFFFE)
    ∧ decodeTableWord 16 (0 * 2 + 8 * 2 ^ 5 + 4 * 2 ^ 10) = some (.iaddC ⟨8, 4, false⟩)
    ∧ decodeTableWord 32 (0x01 + 0x1F * 2) = none ∧ decodeTableWord 32 (0x01 + 0x3B * 2) = none
    ∧ decodeTableWord 32 (0x01 + 0x00 * 2 + 96 * 2 ^ 9) = none

/-! ## Engines -/

/-- R156, R168 to R178, R129: an engine command from its acceptance to its end: it enters its queue, a word that breaks a rule
ends it as REJECTED, a copy command starts where its shape and pages suit it and ends in ERROR where they do not, a QFENCE ends
when nothing is left before it, PINL2 and UNPIN pin and unpin lines,
and the end of a command completes its tag. -/
def Obligations.EngineCommandResults : Prop :=
  ∀ (s : State) (id : Nat) (d : Cmd), sget s.chip.cmds id = some d →
    (∀ (core : CoreId) (eng : Fin 9) (t : Nat) (r : List (Nat × Nat)),
      (coreAt s.chip core.val).go[eng.val] = (id, t) :: r → t ≤ s.chip.cycle → d.finished = none → d.w < 24576 →
      ((coreAt s.chip core.val).eng[eng.val].length < 16 → d.queue = eng → s.Next (.goAccept core eng) fun u =>
        (coreAt u.chip core.val).eng[eng.val] = (coreAt s.chip core.val).eng[eng.val] ++ [id]
          ∧ (coreAt u.chip core.val).go[eng.val] = r
          ∧ (wordsBad s.chip d = false → CmdIs u id fun e => e.accepted = some s.chip.cycle ∧ e.finished = none ∧ e.words = d.words)
          ∧ (wordsBad s.chip d = true → CmdIs u id fun e => e.finished = some 3)
          ∧ (wordsBad s.chip d = false → engOf eng = 3 → 2 ≤ coP d → openColl s.chip (coGroup d) = none →
            ∃ key k, sget u.chip.colls key = some k ∧ k.g = coGroup d ∧ k.p = coP d ∧ k.members = [] ∧ k.closed = false
              ∧ (dev s.chip rCoTimeout ≠ 0 → Due u (s.chip.cycle + (dev s.chip rCoTimeout).toNat) (.collectiveTimeout key))))
      ∧ (16 ≤ (coreAt s.chip core.val).eng[eng.val].length → s.Next (.goAccept core eng) fun u =>
        coreAt u.chip core.val = coreAt s.chip core.val ∧ u.chip.cmds = s.chip.cmds))
    ∧ (∀ i : Fin 64, d.tag = some i → d.notify = false → s.Next (.engineCommandComplete id) fun u =>
        (coreAt u.chip d.core).tags[i.val] = .done (d.finished.getD 0) ∧ id ∉ (coreAt u.chip d.core).eng[d.queue.val])
    ∧ (∀ (i : Fin 64) (n : BitVec 26), d.tag = some i → d.notify = true → d.job = some n →
        let e := eventAt s.chip (evIdx n)
        e.gen ≠ d.gen ∨ e.info.jdone = false ∨ 1 < e.info.cmds → s.Next (.engineCommandComplete id) fun u =>
          (coreAt u.chip d.core).tags[i.val] = .done (d.finished.getD 0) ∧ id ∉ (coreAt u.chip d.core).eng[d.queue.val]
            ∧ (eventAt u.chip (evIdx n)).info.cmds = if e.gen = d.gen then e.info.cmds - 1 else e.info.cmds)
    ∧ (s.MayStart id d → ∀ i ∈ [Instr.copy id, .fill id, .bcol id, .accout id],
      (∀ c, readShape s.mem s.chip d = .ok (none, c) → s.Next i fun u => CmdIs u id fun e => e.finished = some 2)
      ∧ (∀ sh c, readShape s.mem s.chip d = .ok (some sh, c) →
        let src := if cpOp d = 6 then [] else findAll s.mem c d .load (cpReads d sh)
        let dst := findAll s.mem c d .store (cpWrites d sh)
        let bad := (src.flatMap fun e => foundOf e.2).any (fun f => f.x.cls == 4)
          || (cpOp d == 5 && (dst.flatMap fun e => foundOf e.2).any fun f => f.x.cls != 4)
        (shapeSuits d sh = false → s.Next i fun u => CmdIs u id fun e => e.finished = some 2)
        ∧ (shapeSuits d sh = true → faultsOf ((src ++ dst).flatMap (·.2)) = [] →
          (bad = true → s.Next i fun u => CmdIs u id fun e => e.finished = some 2)
          ∧ (bad = false → s.Next i fun u => CmdIs u id fun e => e.started = true ∧ e.finished = none
            ∧ e.shape = some (BitVec.ofNat 512 sh) ∧ e.words = d.words))))
    ∧ (s.MayStart id d →
      (d.dst = [] → s.Next (.qfence id) fun u => CmdIs u id (fun e => e.finished = some 0)
        ∧ Due u s.chip.cycle (.engineCommandComplete id))
      ∧ (d.dst ≠ [] → s.Next (.qfence id) fun u => CmdIs u id fun e => e.started = true ∧ e.finished = none ∧ e.dst = d.dst))
    ∧ (s.MayStart id d → faultsOf (pinPages s.mem s.chip d) = [] →
      let found := foundOf (pinPages s.mem s.chip d)
      let lines := found.flatMap linesOf
      let new := lines.eraseDups.filter fun n => !s.chip.pinned.contains n
      let fits := ∀ k ∈ new, pinnedIn s.chip (sliceOfLine k) + (new.filter fun n => sliceOfLine n == sliceOfLine k).length ≤ pinLimit
      let sound := ∀ n ∈ lines, ∀ k < 4, sget s.chip.poison (n * 4 + k) = none
      (sound → (∀ f ∈ found, f.x.home = 1) → fits → s.Next (.pinl2 id) fun u =>
        (∀ n, n ∈ u.chip.pinned ↔ n ∈ s.chip.pinned ∨ n ∈ lines) ∧ (∀ n ∈ lines, l2Has u.chip n 0 1024 = true)
          ∧ Due u (s.chip.cycle + 8) (.engineCommandComplete id))
      ∧ (sound → ¬((∀ f ∈ found, f.x.home = 1) ∧ fits) → s.Next (.pinl2 id) fun u =>
        u.chip.pinned = s.chip.pinned ∧ CmdIs u id fun e => e.finished = some 2)
      ∧ s.Next (.unpin id) fun u => (∀ n, n ∈ u.chip.pinned ↔ n ∈ s.chip.pinned ∧ n ∉ lines)
        ∧ Due u (s.chip.cycle + 8) (.engineCommandComplete id))

/-- R115, R177, R178: what a source block brings to its command: nothing but the end of the command where it is poisoned or its
owner is gone; else its data, and each destination block of a copy command whose source bits are then all there is sent with
the value that the command writes to it. -/
def Obligations.SourceReplyResults : Prop :=
  ∀ (s : State) (q : Nat) (r : Req) (o : Op) (id b : Nat) (d : Cmd),
    let c := takeEffect s.mem s.chip q
    sget c.reqs q = some r → sget c.ops r.op = some o → o.kind = .cmdRead id b → sget c.cmds id = some d → d.finished = none →
    (o.poison ≠ 0 → s.Next (.engineSourceReply q) fun u => CmdIs u id fun e => e.finished = some 2 ∧ e.cause = cPOISON.toNat)
    ∧ (o.poison = 0 → o.gone ≠ 0 → s.Next (.engineSourceReply q) fun u =>
        CmdIs u id fun e => e.finished = some 2 ∧ e.cause = cPEERGONE.toNat)
    ∧ (o.poison = 0 → o.gone = 0 →
      let v := if engOf d.queue = 0 ∧ cpOp d = 6 then accGroup c d b else o.data[0]
      let e := { d with src := sput d.src b (some v) }
      let sent := fun (u : State) (op n : Nat) => (∃ p, sget u.chip.ops op = some p ∧ p.data[0] = n)
        ∧ ∃ t, s.chip.cycle ≤ t ∧ Due u t (.sendOp op)
      (engOf d.queue = 0 → ∀ sh, d.shape = some sh → s.Next (.engineSourceReply q) fun u =>
        CmdIs u id (fun e' => e'.src = e.src ∧ e'.finished = none)
          ∧ ∀ op ∈ d.dst, op ≠ r.op → ∀ p, sget c.ops op = some p →
            let w := cpDstW d sh.toNat
            let mine := ((List.range (shCount sh.toNat)).map fun l => (l, cpDst e sh.toNat l)).filter fun (_, a) =>
              (runsOf a w).any fun k => k.va / 1024 == opBlock p
            (∀ l ∈ mine, cpOp d = 1 ∨ gotAll e.src (cpSrc e sh.toNat l.1) (cpSrcW d sh.toNat) = true) →
            sent u op (mergeBlock (opBlock p) (mine.map fun (l, a) => (a, w, cpValue e sh.toNat l))))
      ∧ (engOf d.queue = 2 → d.stage = 1 → (∀ k ∈ e.src, k.2.isSome = true) → s.Next (.engineSourceReply q) fun u =>
        ∀ op ∈ d.dst, op ≠ r.op → ∀ p, sget c.ops op = some p →
          sent u op (mergeBlock (opBlock p) ((List.range (gaCount d)).map fun j =>
            ((d.words[1] + BitVec.ofNat 64 (j * gaWidth d)).toNat, gaWidth d,
              gotBits e.src (((sget e.src (2 ^ 60 + j)).bind (·)).getD 0) (gaWidth d)))))
      ∧ (engOf d.queue = 3 → coP d = 1 → coArrived e = true → s.Next (.engineSourceReply q) fun u =>
        ∀ op ∈ d.dst, op ≠ r.op → ∀ p, sget c.ops op = some p →
          sent u op (mergeBlock (opBlock p) ((List.range (coCount d)).map fun j =>
            ((d.words[1] + BitVec.ofNat 64 (32 * j)).toNat, 32, (coElem e j).toNat)))))

/-- R179 to R182: a gather starts where its destination stands on SRAM, and goes on to its elements; a collective starts where
its pages are there, its instance closes when every participant's contribution has arrived and each is sent the combination
in the order of arrival, and an instance that times out ends every member in ERROR. That the order of arrival is the order in which the
contributions' last elements have been read is read from the rules by inference (log 20), and that both start with no lead
after acceptance is the model's choice (log 22). -/
def Obligations.GatherCollectiveResults : Prop :=
  (∀ (s : State) (id : Nat) (d : Cmd),
    (s.MayStart id d →
      let idx := findAll s.mem s.chip d .load (gaIdxReads d)
      let dst := findAll s.mem s.chip d .store (gaWrites d)
      faultsOf ((idx ++ dst).flatMap (·.2)) = [] →
      ((∀ f ∈ dst.flatMap (fun e => foundOf e.2), f.x.home = 2) → s.Next (.gather id) fun u =>
        CmdIs u id fun e => e.started = true ∧ e.finished = none ∧ e.dst.length = dst.length)
      ∧ (¬(∀ f ∈ dst.flatMap (fun e => foundOf e.2), f.x.home = 2) → s.Next (.gather id) fun u =>
        CmdIs u id fun e => e.finished = some 2))
    ∧ (sget s.chip.cmds id = some d → d.started = true → d.finished = none → d.waiting = false → d.stage = 0 →
      (∀ e ∈ d.src, e.2.isSome = true) →
      let src := findAll s.mem s.chip d .load ((List.range (gaCount d)).map fun j => (gaAddr d j, gaWidth d))
      faultsOf (src.flatMap (·.2)) = [] →
      ((∀ f ∈ src.flatMap (fun e => foundOf e.2), f.x.home ≤ 1) → s.Next (.gather id) fun u =>
        CmdIs u id fun e => e.stage = 1 ∧ e.finished = none ∧ ∀ j < gaCount d, sget e.src (2 ^ 60 + j) = some (some (gaAddr d j)))
      ∧ (¬(∀ f ∈ src.flatMap (fun e => foundOf e.2), f.x.home ≤ 1) → s.Next (.gather id) fun u =>
        CmdIs u id fun e => e.finished = some 2))
    ∧ (s.MayStart id d → faultsOf ((findAll s.mem s.chip d .load (coReads d) ++ findAll s.mem s.chip d .store (coWrites d)).flatMap (·.2)) = [] →
      ∀ i ∈ [Instr.nred id, .bcast id], 1 ≤ coP d →
        (coP d = 1 → s.Next i fun u => CmdIs u id fun e => e.started = true ∧ e.finished = none)
        ∧ (2 ≤ coP d → (openColl s.chip (coGroup d) = none → s.Next i fun u =>
            CmdIs u id (fun e => e.started = true ∧ e.finished = none)
              ∧ ∃ k j, sget u.chip.colls k = some j ∧ j.g = coGroup d ∧ j.p = coP d ∧ j.members = [id] ∧ j.closed = false)
          ∧ (∀ k j, openColl s.chip (coGroup d) = some (k, j) → j.members.length + 1 < j.p → s.Next i fun u =>
            CmdIs u id (fun e => e.started = true ∧ e.finished = none)
              ∧ sget u.chip.colls k = some { j with members := j.members ++ [id] }))))
  ∧ (∀ (s : State) (q : Nat) (r : Req) (o : Op) (id b : Nat) (d : Cmd) (key : Nat) (j : Coll),
    let c := takeEffect s.mem s.chip q
    let e := { d with src := sput d.src b (some (o.data[0])) }
    let others := j.members.filter (· != id)
    let l := coMembers { c with cmds := sput c.cmds id e } { j with members := others ++ [id] }
    sget c.reqs q = some r → sget c.ops r.op = some o → o.kind = .cmdRead id b → sget c.cmds id = some d → d.finished = none →
    o.poison = 0 → o.gone = 0 → engOf d.queue = 3 → coP d ≠ 1 →
    (c.colls.find? fun k => k.2.members.contains id) = some (key, j) → j.closed = true → j.p ≤ l.length →
    (∀ k ∈ l, coArrived k.2 = true) →
    (coAgree l = true → s.Next (.engineSourceReply q) fun u =>
      ∀ k f, (k, f) ∈ l → ∀ op ∈ f.dst, op ≠ r.op → (∀ k' f', (k', f') ∈ l → k' ≠ k → op ∉ f'.dst) → ∀ p, sget c.ops op = some p →
        ∃ p', sget u.chip.ops op = some p' ∧ p'.data[0] = mergeBlock (opBlock p) ((List.range (coCount f)).map fun n =>
            ((f.words[1] + BitVec.ofNat 64 (32 * n)).toNat, 32, (coResult (coOp d) (coBcast d) (l.map (·.2)) n).toNat))
          ∧ ∃ t, s.chip.cycle ≤ t ∧ Due u t (.sendOp op))
    ∧ (coAgree l = false → s.Next (.engineSourceReply q) fun u =>
      ∀ k f, (k, f) ∈ l → f.finished = none → CmdIs u k fun e' => e'.finished = some 2))
  ∧ ∀ (s : State) (key : Nat) (j : Coll), sget s.chip.colls key = some j → j.closed = false →
    s.Next (.collectiveTimeout key) fun u => ∀ id ∈ j.members, ∀ d, sget s.chip.cmds id = some d → d.finished = none →
      CmdIs u id fun e => e.finished = some 2

/-! ## Memory events and faults that wait -/

/-- R138, R141, R142, R162, R241, R248, R253, R254, R275, R430, R431: errors of reads, page walks, instruction lines, the fault
buffer and its replays, deferred faults, and the slots and rows of HBM. Which request an error meets, and that the second read
of one without a slot of HBM counts behind its slot, is read from the rules by inference (log 32), and so is the replay in the cycle of
its resolution (log 26). -/
def Obligations.MemoryEventResults : Prop :=
  ∀ s : State, s.Canonical →
    let logged := fun k => (dev s.chip rLogBase).toNat + 256 * fld (dev s.chip rLogHead).toNat 0 8 = 256 * k
    (∀ (key id : Nat) (r : Req) (o : Op), fileError key = none → (s.chip.reqs.find? fun e => readsSector key e.2) = some (id, r) →
      sget s.chip.ops r.op = some o →
      let unserved := r.waiting = true ∨ ∃ n, Due s n (.hbmSlotServe id)
      let late := fun (t : State) => (unserved → ∃ q, sget t.chip.reqs id = some q ∧ q.extra = r.extra + classLatency s.chip o r)
        ∧ (¬unserved → ∀ n, Due s n (.loadReply id) → Due t (n + classLatency s.chip o r) (.loadReply id))
      (s.Next (.uncorrectableRead key .single) fun t =>
        (dev t.chip rCeCnt).toNat = min (2 ^ 48 - 1) ((dev s.chip rCeCnt).toNat + 1) ∧ t.chip.poison = s.chip.poison)
      ∧ (s.Next (.uncorrectableRead key .transient) fun t => (∀ k, ¬logged k → sget t.chip.poison k = sget s.chip.poison k)
        ∧ fld (dev t.chip rLogHead).toNat 0 8 = (fld (dev s.chip rLogHead).toNat 0 8 + 1) % 256 ∧ late t)
      ∧ (s.Next (.uncorrectableRead key .lasting) fun t => (¬logged key → sget t.chip.poison key = some o.core)
        ∧ (∀ k, k ≠ key → ¬logged k → sget t.chip.poison k = sget s.chip.poison k) ∧ (∀ k, logged k → sget t.chip.poison k = none)
        ∧ fld (dev t.chip rLogHead).toNat 0 8 = (fld (dev s.chip rLogHead).toNat 0 8 + 1) % 256 ∧ late t))
    ∧ (∀ (key w : Nat) (sub : BitVec 6) (x : Warp), fileError key = some (w, sub) → sget s.chip.warps w = some x →
      s.Next (.uncorrectableRead key .lasting) fun t => t.chip.poison = s.chip.poison ∧ ∃ y d, sget t.chip.warps w = some y
        ∧ y.deferred = x.deferred ++ [d] ∧ d.code = cPOISON ∧ d.sub = sub ∧ d.addr = 0 ∧ d.tmask = (resumeOf s.chip w).mask
        ∧ d.kernel = x.kernel ∧ SameRegisters x y)
    ∧ (∀ id k, sget s.chip.walks id = some k → s.Next (.pageWalkComplete id) fun t =>
        (∀ e, k.entry = some e → e ∈ (coreAt t.chip k.core).tlb ∧ ∃ l, sget t.chip.ctlb (clusterOf k.core) = some l ∧ e ∈ l)
          ∧ ∀ w ∈ k.warps, (∀ e ∈ sdel s.chip.walks id, w ∉ e.2.warps) → Due t s.chip.cycle (.wake w 0))
    ∧ (∀ (core : CoreId) (line id : Nat) (r : IcReq) (o : Op) (q : Req),
        ((coreAt s.chip core.val).icWait.find? fun r => r.line == line) = some r → sget s.chip.ops r.op = some o →
        o.kind = .line core line → o.w = 24576 → o.core = core.val → o.left = 1 → o.gone = 0 → o.data[0] = 0 → reqsOf s.chip r.op = [id] →
        sget s.chip.reqs id = some q → q.done = false → q.pieces = [⟨0, 0, lineAddr line, 1024⟩] →
        let p : Piece := ⟨0, 0, lineAddr line, 1024⟩
        let k := coreAt s.chip core.val
        (homeGone s.chip q.home = false → badSectors s.chip p = [] → undefMask s.chip p = 0 →
          s.Next (.icacheLineFill core line) fun t => let k' := coreAt t.chip core.val
            sget k'.icache line = some (BitVec.ofNat 1024 (homeRead s.mem s.chip q.home.isL2 q.enc o.part.toNat p))
            ∧ (∀ r ∈ k'.icWait, r.line ≠ line)
            ∧ (k.icAge.length < icLines → ∀ n ≠ line, sget k'.icache n = sget k.icache n)
            ∧ (k'.icAge).length ≤ icLines)
        ∧ (homeGone s.chip q.home = true → s.Next (.icacheLineFill core line) fun t => let k' := coreAt t.chip core.val
            k'.icache = k.icache ∧ line ∈ k'.icGone))
    ∧ (∀ (id : Nat) (e : FaultEntry), sget s.chip.faulting id = some e →
      let same := s.chip.faults.find? fun k => k.2.part == e.part && k.2.page == e.page && k.2.bits == e.bits
      (∀ i f, same = some (i, f) →
        s.Next (.faultBufferEntry id) fun t => ∃ g, sget t.chip.faults i = some g ∧ g.page = f.page ∧ g.warps = f.warps ++ e.warps
          ∧ g.cmds = f.cmds ++ e.cmds ∧ g.streams = f.streams ++ e.streams)
      ∧ (same = none → ∀ i, freeFault s.chip = some i → i < 4096 ∧
        let asks := e.migration = true ∧ hostOwns s.mem s.chip e.part.toNat e.addr.toNat = true
        let busy := sget s.chip.giving e.part.toNat ≠ none
        (¬(asks ∧ ¬busy) → s.Next (.faultBufferEntry id) fun t => sget t.chip.faults i = some e
          ∧ (∀ j ≠ i, sget t.chip.faults j = sget s.chip.faults j)
          ∧ dev t.chip (rPtn e.part.toNat 10) = dev s.chip (rPtn e.part.toNat 10)
          ∧ (e.migration = true → ¬asks → ∀ h : i < 4096, Due t s.chip.cycle (.faultReplay ⟨i, h⟩ true)))
        ∧ (asks → ¬busy → s.Next (.faultBufferEntry id) fun t => sget t.chip.faults i = some { e with migration := false }
          ∧ (∀ j ≠ i, sget t.chip.faults j = sget s.chip.faults j)
          ∧ dev t.chip (rPtn e.part.toNat 10) = BitVec.ofNat 64 e.page
          ∧ fld (dev t.chip (rPtn e.part.toNat 11)).toNat 0 2 = 0))
      ∧ (same = none → freeFault s.chip = none →
        s.Next (.faultBufferEntry id) fun t => t.chip.faults = s.chip.faults ∧ sget t.chip.faulting id = some e))
    ∧ (∀ (idx : Fin 4096) (f : FaultEntry), sget s.chip.faults idx.val = some f →
      let left := { s.chip with faults := sdel s.chip.faults idx.val }
      (s.Next (.faultReplay idx true) fun t => (∀ w ∈ f.warps, stillWaits left w = false → Due t s.chip.cycle (.wake w 0))
        ∧ (∀ id ∈ f.cmds, cmdWaits left id = false → Due t (s.chip.cycle + 1) (.cmdStart id))
        ∧ ∀ st ∈ f.streams, Due t s.chip.cycle (.streamReplay st true))
      ∧ (s.Next (.faultReplay idx false) fun t => (∀ id ∈ f.cmds, Due t s.chip.cycle (.cmdFault id))
        ∧ (∀ st ∈ f.streams, Due t s.chip.cycle (.streamReplay st false))
        ∧ ∀ w ∈ f.warps, ∀ x, sget s.chip.warps w = some x → x.kernel = false →
          (dev s.chip (rKvec (coreOf w))).toNat % 64 = 0 →
          ∃ y, sget t.chip.warps w = some y ∧ y.kernel = true ∧ SameRegisters { x with flags := countedDown x x.waitFlag } y))
    ∧ (∀ (w : WarpId) (x : Warp) (d : Deferred), sget s.chip.warps w.val = some x → dueDeferred x = some d → d.kernel = false →
        x.kernel = false → (dev s.chip (rKvec (coreOf w.val))).toNat % 64 = 0 →
        s.Next (.deferredFaultDelivery w) fun t => ∃ y, sget t.chip.warps w.val = some y ∧ y.kernel = true ∧ SameRegisters x y
          ∧ y.deferred = x.deferred.drop 1
          ∧ dev t.chip (rKepc w.val) = (resumeOf s.chip w.val).pc)
    ∧ (∀ (id : Nat) (r : Req) (o : Op), sget s.chip.reqs id = some r → sget s.chip.ops r.op = some o → firstArrived s.chip id = id →
        let a := r.block.bit
        let open_ := sget s.chip.rows (hbmBank a)
        let row := if refreshing a s.chip.wall then 600 else if open_ = some (hbmRow a) then 380 else if open_ = none then 440 else 500
        let n := s.chip.cycle + ownClock s.chip row + r.route + r.extra
        s.Next (.hbmSlotServe id) fun t => Due t (if isStore o.kind then n else max n (o.issued + o.occ)) (reqEvent o.kind id)
          ∧ (r.lu = false → sget t.chip.rows (hbmBank a) = some (hbmRow a)))
    ∧ (∀ bank, s.Next (.hbmRefresh bank) fun t => ∀ k,
        sget t.chip.rows k = if k % 32 = bank then none else sget s.chip.rows k)

/-! ## The scheduler, the Wheel and the physical counter -/

/-- R26, R27, R31, R45, R115, R245, R259, R266, R339: a busy slice issues nothing; one that is free issues from the first eligible
warp of its round; an entry that has waited through 1,024 instructions is due; an expired timer traps at the boundary; a
halted block goes on or is discarded; MEM_OWNER, KLN_WAKE and the physical counter. -/
def Obligations.SchedulerAndWheelResults : Prop :=
  ∀ s : State,
    (∀ (core : CoreId) (slice : Fin 32), let k := sliceAt s.chip core.val slice.val
      (s.chip.cycle < k.busy → s.Next (.issueOpportunity core slice) fun t =>
        t.chip.warps = s.chip.warps ∧ t.chip.phase = s.chip.phase)
      ∧ (k.busy ≤ s.chip.cycle →
        (∀ i < 4, calm (look s.mem s.chip (core.val * 128 + slice.val * 4 + i)) = true) →
        (∀ w b e i n, ((turnOrder core.val slice.val k.last).find? fun w => isReady (look s.mem s.chip w)) = some w →
          look s.mem s.chip w = .ready b e i n → s.Next (.issueOpportunity core slice) fun t =>
            t.chip.phase = .issue ∧ t.chip.cur.w = w ∧ t.chip.cur.pc = b.pc ∧ t.chip.cur.pfx = none
              ∧ ∃ y, sget t.chip.warps w = some y ∧ y.body = some b)
        ∧ (((turnOrder core.val slice.val k.last).find? fun w => isReady (look s.mem s.chip w)) = none →
          s.Next (.issueOpportunity core slice) fun t => t.chip.phase = s.chip.phase ∧ t.chip.warps = s.chip.warps)))
    ∧ (∀ (w : WarpId) (x : Warp), sget s.chip.warps w.val = some x →
      (s.Next (.ageEscape w) fun t => ∃ y, sget t.chip.warps w.val = some y ∧ SameRegisters x y
        ∧ y.frontier = x.frontier.map fun e => if 1024 ≤ e.age ∧ stands x e = false then { e with due := true } else e)
      ∧ (∀ e, timerDue s.chip x = true → x.body = none → x.wait = .none → x.halted = false → select x = some e →
        (x.tvec = 0 → (dev s.chip (rKvec (coreOf w.val))).toNat % 64 = 0 → s.Next (.userTimerExpiry w) fun t =>
          dev t.chip (rKepc w.val) = e.pc ∧ dev t.chip (rKhdr w.val) = e.hdr
            ∧ ∃ y, sget t.chip.warps w.val = some y ∧ y.kernel = true ∧ y.tcmp = 0 ∧ y.v = x.v ∧ y.s = x.s ∧ y.p = x.p
              ∧ ∀ k, lane e.mask k = true →
                Stands y k (dev s.chip (rKvec (coreOf w.val))) (dev s.chip (rKvec (coreOf w.val))) true)
        ∧ (x.tvec ≠ 0 → s.Next (.userTimerExpiry w) fun t =>
          let v := BitVec.ofNat 64 (e.pc.toNat / 2 ^ 38 * 2 ^ 38 + x.tvec.toNat * 64)
          ∃ y, sget t.chip.warps w.val = some y ∧ y.kernel = false ∧ y.tcmp = 0 ∧ y.tepc = BitVec.ofNat 32 (e.pc.toNat / 64)
            ∧ y.tcause.toNat % 64 = 0x10 ∧ y.tcause.toNat / 65536 = e.prio.toNat ∧ y.v = x.v ∧ y.s = x.s ∧ y.p = x.p
            ∧ ∀ k, lane e.mask k = true → Stands y k v v false)))
    ∧ (∀ (core : CoreId) (g : Fin 256),
      (isHalted s.chip core.val g = true → s.Next (.blkctlContinue core g) fun t => ∀ w x, sget s.chip.warps w = some x →
        (coreOf w = core.val → x.block = some g → sget t.chip.warps w = some { x with halted := false, skid := false })
          ∧ (coreOf w ≠ core.val → sget t.chip.warps w = some x))
      ∧ (isHalted s.chip core.val g = false → (s.Next (.blkctlContinue core g) fun t => t.chip.warps = s.chip.warps
          ∧ fld (dev t.chip rLogHead).toNat 0 8 = (fld (dev s.chip rLogHead).toNat 0 8 + 1) % 256)
        ∧ s.Next (.blkctlDiscard core g) fun t => t.chip.warps = s.chip.warps)
      ∧ (∀ w x, isHalted s.chip core.val g = true → s.chip.warps = [(w, x)] → coreOf w = core.val → x.block = some g →
        jobOfBlock s.chip core.val g = none → s.Next (.blkctlDiscard core g) fun t => t.chip.warps = []))
    ∧ (∀ (core : CoreId) (v : BitVec 64), s.Next (.memOwnerWrite core v) fun t => dev t.chip (rOwner core.val) = v &&& 0x1FF
        ∧ (∀ n ≠ rOwner core.val, dev t.chip n = dev s.chip n)
        ∧ (v.getLsbD 8 = true → (coreAt t.chip core.val).hosted = true))
    ∧ (∀ core : CoreId, s.Next (.klnWake core) fun t => ∀ w x, sget s.chip.warps w = some x → coreOf w = core.val → x.wait = .halt →
        (∀ n v, ¬Due s n (.wake w v)) → Due t (s.chip.cycle + 4) (.wake w 0))
    ∧ (s.chip.conePhys.toNat = coneTop → (s.Next .coneTick fun t => t.chip.conePhys = s.chip.conePhys)
      ∧ s.Next .conePhysStop fun t => t.chip.conePhys = s.chip.conePhys ∧ ∀ n, ¬Due t n .coneTick)
    ∧ (s.chip.conePhys.toNat < coneTop → s.Next .coneTick fun t => t.chip.conePhys = s.chip.conePhys + 1
        ∧ (270000000000000 ≤ t.chip.conePhys.toNat → s.chip.coneAlert = false → Due t s.chip.cycle .coneEpochAlert)
        ∧ (t.chip.conePhys.toNat = 2 ^ 48 - 1 → Due t s.chip.cycle .conePhysStop))
    ∧ (((sget s.chip.msixMask 0).getD 0).getLsbD 0 = false → s.Next .coneEpochAlert fun t => 0 ∈ t.chip.raised)
    ∧ ∀ v : BitVec 64, (s.chip.coneWritten = false ∨ s.chip.conePhys.toNat ≤ v.toNat % 2 ^ 48 → s.Next (.conePhysWrite v) fun t =>
        t.chip.conePhys = v.setWidth 48 ∧ t.chip.coneWritten = true)
      ∧ (s.chip.coneWritten = true → v.toNat % 2 ^ 48 < s.chip.conePhys.toNat → s.Next (.conePhysWrite v) fun t =>
        t.chip.conePhys = s.chip.conePhys)

/-! ## The fabric, the host and bring-up -/

/-- R162 to R164, R237 to R239, R253, R258, R270, R272, R274, R279, R283: packets from other chips and their stamps, links, the host's
accesses, page handover, pending interrupts, attestation and bring-up. -/
def Obligations.FabricAndHostResults : Prop :=
  ∀ s : State, s.Canonical →
    let plain := fun (q : Piece) => ∀ u ∈ unitsOf q, sget s.chip.keyed u = none ∧ (sget s.chip.l2View u).getD none = none
      ∧ ∀ j < 4, sget s.chip.blockKeys (4 * u + j) = none
    let own := fun (f : Fin 16) (q : Piece) => ∀ u ∈ unitsOf q, (∀ j < 4, sget s.chip.blockKeys (4 * u + j) = none) ∧ (sget s.chip.keyed u = none ∨ sget s.chip.keyed u = sget s.chip.keys f.val)
      ∧ (sget s.chip.l2View u).getD (sget s.chip.keyed u) = sget s.chip.keyed u
    let sound := fun (q : Piece) => ∀ k ∈ sectorsOf q, sget s.chip.poison k = none
    let outside := fun (q : Piece) (t : State) => ∀ k, (k < q.pa.key ∨ q.pa.key + (q.pa.bit % 8 + q.width + 7) / 8 ≤ k) →
      t.byte k = s.byte k
    (∀ p : Packet, s.chip.recovery = true → s.Next (.ualinkPacketReceive p) fun t => t.mem = s.mem ∧ t.chip.stamps = s.chip.stamps
        ∧ t.chip.lastStamp = s.chip.lastStamp)
    ∧ (∀ p : Packet, s.chip.recovery = false → (p.body = .none → s.Next (.ualinkPacketReceive p) fun t =>
        t.chip.lastStamp.toNat = max s.chip.lastStamp.toNat p.stamp.toNat ∧ t.mem = s.mem)
      ∧ (let merged := fun (t : State) => t.chip.lastStamp.toNat = max s.chip.lastStamp.toNat p.stamp.toNat
        let sends := fun (o : Out) (t : State) => t.chip.stamps = s.chip.stamps ++ [(ownStamp, .send o)] ∧ merged t
        let answers := fun (n : Fin 1024) (v : Option Nat) (t : State) => sends (.data n.val 0 v) t
        (∀ n a w v, p.body = .write n a w v → let q := remotePiece a.val w.val
          plain q → s.Next (.ualinkPacketReceive p) fun t => readBits t.mem t.chip q.pa w.val = v % 2 ^ w.val ∧ outside q t
            ∧ sends (.packet n.val 0 .none) t)
        ∧ (∀ n a w, p.body = .read n a w → let q := remotePiece a.val w.val
          (sound q → plain q → undefMask s.chip q = 0 → s.Next (.ualinkPacketReceive p) fun t =>
            answers n (some (readBits s.mem s.chip q.pa w.val)) t ∧ t.mem = s.mem)
          ∧ (¬sound q → s.Next (.ualinkPacketReceive p) fun t => answers n none t ∧ t.mem = s.mem))
        ∧ (∀ n op a w v k, p.body = .atomic n op a w v k → let q := remotePiece a.val w.val
          let old := readBits s.mem s.chip q.pa w.val
          (sound q → plain q → undefMask s.chip q = 0 → s.Next (.ualinkPacketReceive p) fun t => answers n (some old) t ∧ outside q t
            ∧ readBits t.mem t.chip q.pa w.val = atomNew op w.val old (v % 2 ^ w.val) (k % 2 ^ w.val) % 2 ^ w.val)
          ∧ (¬sound q → s.Next (.ualinkPacketReceive p) fun t => answers n none t ∧ t.mem = s.mem))))
    ∧ (∀ (m : Memory) (c : Chip) (k : Nat) (o : Out), c.stamps = [(k, .send o)] → c.lastStamp.toNat + 1 < 2 ^ 64 - 1 →
      let v := BitVec.ofNat 64 (max (c.conePhys.toNat * 2 ^ 16) (c.lastStamp.toNat + 1))
      (settleStamps m c).out = c.out ++ [o.stamped v] ∧ (settleStamps m c).lastStamp = v)
    ∧ (∀ port : Fin 16, let up := fun (t : State) => (dev t.chip (rLinkLat port.val)).getLsbD 32
      (∀ lat : BitVec 64,
        (s.chip.recovery = false → s.chip.upStep ≠ 0 → s.Next (.linkTraining port lat) fun t => up t = true
          ∧ fld (dev t.chip (rLinkLat port.val)).toNat 0 16 = lat.toNat % 65536
          ∧ fld (dev t.chip (rLinkLat port.val)).toNat 16 16 = 2 * (lat.toNat % 65536) % 65536)
        ∧ (s.chip.recovery = true ∨ s.chip.upStep = 0 → s.Next (.linkTraining port lat) fun t =>
          dev t.chip (rLinkLat port.val) = dev s.chip (rLinkLat port.val)))
      ∧ (s.Next (.linkDown port) fun t => up t = false
        ∧ ∀ n ≠ 32, (dev t.chip (rLinkLat port.val)).getLsbD n = (dev s.chip (rLinkLat port.val)).getLsbD n)
      ∧ ∀ again, s.Next (.ualinkCrcError port again) fun t =>
        fld (dev t.chip rLogHead).toNat 0 8 = (fld (dev s.chip rLogHead).toNat 0 8 + 1) % 256
          ∧ (again = true → up t = false)
          ∧ (again = false → dev t.chip (rLinkLat port.val) = dev s.chip (rLinkLat port.val)))
    ∧ (∀ (f : Fin 16) (off : Nat),
      (∀ len, s.chip.recovery = false → s.Next (.bar2Access (.read f off len)) fun t => ∃ l, t.chip.out = s.chip.out ++ [.bar2 l]
        ∧ l.length = len ∧ t.mem = s.mem
        ∧ ∀ k < len, ∀ a, bar2Addr s.chip f.val (off + k) = some a → own f (remotePiece a 8) →
          undefMask s.chip (remotePiece a 8) = 0 → l[k]? = some (s.byte (hbmAt a).key))
      ∧ (∀ data : List Byte, s.chip.recovery = false →
        (∀ k < data.length, ∀ a, bar2Addr s.chip f.val (off + k) = some a → own f (remotePiece a 8)) →
        s.Next (.bar2Access (.write f off data)) fun t => ∀ k < data.length, ∀ a, bar2Addr s.chip f.val (off + k) = some a →
          some (t.byte (hbmAt a).key) = data[k]?)
      ∧ (s.chip.recovery = true → (∀ len, s.Next (.bar2Access (.read f off len)) fun t => t.chip.out = s.chip.out ∧ t.mem = s.mem)
        ∧ ∀ data, s.Next (.bar2Access (.write f off data)) fun t => t.mem = s.mem)
      ∧ ∀ data : List Byte, data.length < 2 ^ 50 → s.Next (.bar2Access (.host off data)) fun t => ∀ k < data.length,
        some (t.byte (PAddr.key ⟨.host, 8 * (off + k)⟩)) = data[k]?)
    ∧ (∀ (f : Fin 16) (page hi : W64), sget s.chip.handover f.val = some (page, hi) →
      ∀ (p : PAddr) (e bits : Nat), leafOf s.mem s.chip f.val page.toNat = some (p, e, bits) →
      let gives := fun (t : State) (seq : Nat) => dev t.chip (rPtn f.val 10) = page
        ∧ dev t.chip (rPtn f.val 11) = BitVec.ofNat 64 (3 + seq * 65536)
      let goesOn := fun (t : State) => sget t.chip.giving f.val = some (page, fld hi.toNat 16 16)
        ∧ Due t (s.chip.cycle + 1) (.hoh2dGiveRequest f)
      let gone := givingPage s.mem s.chip f.val page = true ∧ askedOf s.mem s.chip f.val page = false
      (hi.toNat % 4 = 1 →
        (gone → s.Next (.hoh2dReleased f) fun t =>
          Due t (s.chip.cycle + 1) (.hoh2dReleased f) ∧ t.mem = s.mem ∧ t.chip.handover = s.chip.handover)
        ∧ (¬gone → pteOwn e = false → s.Next (.hoh2dReleased f) fun t => t.mem = s.mem
          ∧ t.chip.faults = s.chip.faults)
        ∧ (¬gone → pteOwn e = true → (∀ i a, sget s.chip.faults i = some a → i < 4096) →
          s.Next (.hoh2dReleased f) fun t => readBits t.mem t.chip p 64 = e - 64
            ∧ (∀ k, ∀ n ∈ (coreAt t.chip k).tlb, ¬(n.part = f.val ∧ n.base / 2 ^ bits = page.toNat / 2 ^ bits))
            ∧ ∀ i a, sget s.chip.faults i = some a → onPage a f.val page.toNat bits = true →
              ∃ (j : Nat) (h : j < 4096) (b : FaultEntry), sget t.chip.faults j = some b ∧ Due t s.chip.cycle (.faultReplay ⟨j, h⟩ true)
                ∧ (∀ w ∈ a.warps, w ∈ b.warps) ∧ (∀ k ∈ a.cmds, k ∈ b.cmds) ∧ ∀ k ∈ a.streams, k ∈ b.streams))
      ∧ (hi.toNat % 4 = 2 → sget s.chip.giving f.val = none →
        (s.chip.faults.find? fun e => e.2.part.toNat == f.val && e.2.migration) = none →
        (pteOwn e = true → asked s.chip f.val page.toNat bits = false → s.Next (.hoh2dGiveRequest f) fun t => gives t (fld hi.toNat 16 16)
          ∧ t.mem = s.mem)
        ∧ (pteOwn e = true → asked s.chip f.val page.toNat bits = true → s.Next (.hoh2dGiveRequest f) fun t => goesOn t ∧ t.mem = s.mem)
        ∧ (pteOwn e = false → s.Next (.hoh2dGiveRequest f) fun t => readBits t.mem t.chip p 64 = e + 64 ∧ goesOn t)))
    ∧ (∀ (f : Fin 16) (i : Nat) (a : FaultEntry), sget s.chip.giving f.val = none →
      (s.chip.faults.find? fun e => e.2.part.toNat == f.val && e.2.migration) = some (i, a) →
      s.Next (.hoh2dGiveRequest f) fun t => t.chip.handover = s.chip.handover ∧ t.mem = s.mem
        ∧ Due t (s.chip.cycle + 1) (.hoh2dGiveRequest f)
        ∧ (hostOwns s.mem s.chip f.val a.addr.toNat = true → dev t.chip (rPtn f.val 10) = BitVec.ofNat 64 a.page
          ∧ fld (dev t.chip (rPtn f.val 11)).toNat 0 2 = 0))
    ∧ (∀ (f : Fin 16) (page : W64) (seq : Nat), sget s.chip.giving f.val = some (page, seq) →
      ∀ (p : PAddr) (e bits : Nat), leafOf s.mem s.chip f.val page.toNat = some (p, e, bits) →
      let late := pteOwn e = true ∧ asked s.chip f.val page.toNat bits = true
      let busy := pageBusy s.chip f.val (pageRange e bits) bits
      let waits := fun (t : State) => sget t.chip.giving f.val = some (page, seq) ∧ Due t (s.chip.cycle + 1) (.hoh2dGiveRequest f)
      (late ∨ (pteOwn e = true ∧ busy = true) → s.Next (.hoh2dGiveRequest f) fun t => waits t ∧ t.mem = s.mem)
      ∧ (pteOwn e = false → s.Next (.hoh2dGiveRequest f) fun t => waits t ∧ readBits t.mem t.chip p 64 = e + 64)
      ∧ (pteOwn e = true → ¬late → busy = false → s.Next (.hoh2dGiveRequest f) fun t => sget t.chip.giving f.val = none
        ∧ dev t.chip (rPtn f.val 10) = page ∧ dev t.chip (rPtn f.val 11) = BitVec.ofNat 64 (3 + seq % 65536 * 65536)))
    ∧ (∀ (f : Fin 16) (v : Fin 64), let pend := ((sget s.chip.msixPend f.val).getD 0).getLsbD v.val
      s.Next (.msixUnmask f v) fun t => (∀ n < 64, ((sget t.chip.msixMask f.val).getD 0).getLsbD n
          = (((sget s.chip.msixMask f.val).getD 0).getLsbD n && decide (n ≠ v.val)))
        ∧ (pend = false → t.chip.raised = s.chip.raised)
        ∧ (pend = true → s.chip.recovery = false → t.chip.raised = s.chip.raised ++ [64 * f.val + v.val]))
    ∧ (∀ q : SpdmReq, (s.chip.recovery = false → s.Next (.spdmRequest q) fun t =>
        t.chip.out = s.chip.out ++ [.spdm q.f (Config.spdmAnswer Config.identityKey q.f.val q.nonce (measured s.chip q.f.val))])
      ∧ (s.chip.recovery = true → s.Next (.spdmRequest q) fun t => t.chip.out = s.chip.out))
    ∧ (∀ fw : Firmware,
      let good := fw.tags = (List.range ((fw.bytes.length + 63) / 64)).map (firmwareTag fw) ∧ signed (digest fw.bytes) fw.sig = true
        ∧ Config.svnMinimum.toNat ≤ fw.svn.toNat
      (good → s.Next (.bringUp (.rom fw)) fun t => t.chip.recovery = false ∧ t.chip.upStep = 1 ∧ t.chip.warps = []
        ∧ t.chip.accepted = [] ∧ t.chip.firmware = digest fw.bytes ∧ ∀ n, dev t.chip n = regReset n)
      ∧ (¬good → s.Next (.bringUp (.rom fw)) fun t => t.chip.recovery = true ∧ t.chip.raised = [0]))
    ∧ (s.chip.recovery = false →
      (s.chip.upStep = 1 → ∀ (slot : Fin 128) (pc : W64), s.Next (.bringUp (.wheel slot pc)) fun t => t.chip.upStep = 2
        ∧ ∀ k : CoreId, sget s.chip.warps (128 * k.val + slot.val) = none → ∃ x, sget t.chip.warps (128 * k.val + slot.val) = some x
          ∧ x.kernel = true ∧ x.block = none ∧ ∀ u, Stands x u pc pc true)
      ∧ (2 ≤ s.chip.upStep → ∀ n : Fin 1024, s.Next (.bringUp (.chip n)) fun t =>
        t.chip.chipNo.toNat = n.val ∧ t.chip.upStep = 3)
      ∧ (3 ≤ s.chip.upStep → ∀ p : Fin 16, ptnOn s.chip p.val = true → placedAll s.chip p.val = true →
        s.Next (.bringUp (.accept p)) fun t => p.val ∈ t.chip.accepted))
    ∧ (∀ p : Fin 16, s.chip.recovery = true ∨ s.chip.upStep < 3 ∨ ptnOn s.chip p.val = false ∨ placedAll s.chip p.val = false →
      s.Next (.bringUp (.accept p)) fun t => t.chip.accepted = s.chip.accepted)

/-! ## Partitions, caps and limits -/

/-- R16, R271, R273, R276, R280 to R282: enabling and resetting a partition, the lowest firmware version, cap frames and their
expiry, duty windows and thermal limits. The clock and the duty of a cap are free functions (log 9). That a
cap is in force from the receipt of its frame is read from the rule by inference (log 28), and so is that a halt is noted one cycle
behind what asks for it (log 35). -/
def Obligations.PartitionAndLimitResults : Prop :=
  ∀ s : State,
    let clocked := fun (t : State) => t.chip.period = max (capClock t.chip) (limitClock t.chip)
    (∀ (f : Fin 16) (v : BitVec 64),
      let clash := ([1, 2, 3, 5].any fun k => ptnClash s.chip f.val k (dev s.chip (rPtn f.val k)).toNat)
      (v.getLsbD 0 = true → ptnOn s.chip f.val = false → clash = false → turnsWith s.chip f.val ≤ 64 →
        s.Next (.partitionEnable f v) fun t => ptnOn t.chip f.val = true ∧ sget t.chip.keys f.val = some s.chip.keyCount
          ∧ t.chip.keyCount = s.chip.keyCount + 1)
      ∧ (v.getLsbD 0 = true → ptnOn s.chip f.val = false → clash = true ∨ 64 < turnsWith s.chip f.val →
        s.Next (.partitionEnable f v) fun t => ptnOn t.chip f.val = false ∧ t.chip.keys = s.chip.keys))
    ∧ (∀ f : Fin 16,
      (sget s.chip.resets f.val = none → s.Next (.functionLevelReset f) fun t =>
        f.val ∉ t.chip.accepted ∧ ∀ n ∈ streamsOf s.chip f.val, (streamAt t.chip n.val).run = false)
      ∧ (sget s.chip.resets f.val = none → (∃ e ∈ runningOf s.chip f.val, blockHalted s.chip e.2 = false) →
        s.Next (.functionLevelReset f) fun t => sget t.chip.resets f.val = some 1 ∧ Due t (s.chip.cycle + 1) (.functionLevelReset f)
          ∧ ∀ i e core g, (i, e) ∈ runningOf s.chip f.val → e.info.block = some (core, g) → sget s.chip.halts (core * 256 + g.val) = none →
            ∀ w ∈ warpsOfBlock s.chip core g, (warpAt s.chip w).halted = false → Due t (s.chip.cycle + 1) (.halted w s.chip.cycle))
      ∧ (sget s.chip.resets f.val = some 1 → ((∃ e ∈ runningOf s.chip f.val, blockHalted s.chip e.2 = false) →
          s.Next (.functionLevelReset f) fun t => Due t (s.chip.cycle + 1) (.functionLevelReset f) ∧ t.chip.warps = s.chip.warps)
        ∧ ((∀ e ∈ runningOf s.chip f.val, blockHalted s.chip e.2 = true) → s.Next (.functionLevelReset f) fun t =>
          (∀ i, inRange s.chip f.val i = true → (eventAt t.chip i).state = sFREE ∧ (eventAt t.chip i).gen = (eventAt s.chip i).gen)
            ∧ (∀ w x, sget s.chip.warps w = some x → x.part.toNat = f.val → x.block ≠ none → sget t.chip.warps w = none)))
      ∧ (sget s.chip.resets f.val = some 2 → cmdsOf s.chip f.val ≠ [] → s.Next (.functionLevelReset f) fun t =>
        Due t (s.chip.cycle + 1) (.functionLevelReset f) ∧ dev t.chip (rPtn f.val 0) = dev s.chip (rPtn f.val 0))
      ∧ (sget s.chip.resets f.val = some 2 → cmdsOf s.chip f.val = [] → s.Next (.functionLevelReset f) fun t =>
        dev t.chip (rPtn f.val 0) = (dev s.chip (rPtn f.val 0) &&& ~~~5) ||| 8 ∧ dev t.chip (rPtn f.val 3) = 0
          ∧ (∀ n ∈ streamsOf s.chip f.val, (streamAt t.chip n.val).state = 0)
          ∧ (∀ k : CoreId, bit (dev s.chip (rPtn f.val 1)).toNat (clusterOf k.val) = true →
            ∀ q : Fin 4, (coreAt t.chip k.val).queues[q.val] = [])
          ∧ (s.chip.recovery = false → ((sget s.chip.msixMask f.val).getD 0).getLsbD 4 = false → 64 * f.val + 4 ∈ t.chip.raised))
      ∧ (sget s.chip.resets f.val ≠ none → s.Next (.flrCommandTimeout f) fun t => ∀ id d, sget s.chip.cmds id = some d →
        d.part.toNat = f.val → d.finished = none → CmdIs t id fun e => e.finished = some 2))
    ∧ (∀ v : BitVec 64,
      ((dev s.chip rSvn).toNat ≤ v.toNat % 65536 → s.Next (.secSvnWrite v) fun t => dev t.chip rSvn = v &&& 0xFFFF)
      ∧ (v.toNat % 65536 < (dev s.chip rSvn).toNat → s.Next (.secSvnWrite v) fun t => dev t.chip rSvn = dev s.chip rSvn))
    ∧ (∀ fr : CapFrame, let mine := fr.dest.toNat = (dev s.chip rMcast).toNat % 2 ^ 48
      let k := frameCap s.chip fr.bytes
      (s.chip.recovery = true ∨ ¬mine ∨ frameOk s.chip fr.bytes = false → s.Next (.capFrame fr) fun t =>
        t.chip.caps = s.chip.caps ∧ t.chip.capSeq = s.chip.capSeq ∧ t.chip.period = s.chip.period)
      ∧ (s.chip.recovery = false → mine → frameOk s.chip fr.bytes = true → s.Next (.capFrame fr) fun t => clocked t
        ∧ sget t.chip.capSeq (k.rank.val * 65536 + k.src.toNat) = some k.seq
        ∧ ((s.chip.caps.filter fun e => e.rank == k.rank).length < 16 → k ∈ t.chip.caps
          ∧ ∀ e ∈ t.chip.caps, e.rank = k.rank → e.src = k.src → e = k)))
    ∧ (∀ i k, s.chip.caps[i]? = some k →
      (∀ n, k.expires = some n → n ≤ s.chip.wall → s.Next (.capExpiry i) fun t => t.chip.caps = s.chip.caps.eraseIdx i ∧ clocked t)
      ∧ ((∀ n, k.expires = some n → s.chip.wall < n) → s.Next (.capExpiry i) fun t => t.chip.caps = s.chip.caps))
    ∧ (∀ f : Fin 16, ∀ k, (firstCap s.chip fun k => k.rank == 4 && k.part == f.val) = some k →
      let watts := (s.chip.caps.filter fun k => k.rank == 4 && k.part == f.val).foldl (fun w k => min w k.watts) 65535
      let n := s.chip.cycle + Config.dutyCycles watts (s.chip.wall / 10 ^ 7)
      s.Next (.partitionDutyWindow f) fun t => sget t.chip.withheld f.val = some n ∧ Due t n (.kiln 0))
    ∧ ∀ p : Nat, (s.Next (.thermalLimit (.thermal p)) fun t => clocked t ∧ p ≤ t.chip.period ∧ 400 ≤ t.chip.period
        ∧ t.chip.current = s.chip.current)
      ∧ (s.Next (.thermalLimit (.current p)) fun t => clocked t ∧ p ≤ t.chip.period ∧ 400 ≤ t.chip.period
        ∧ t.chip.thermal = s.chip.thermal)
      ∧ (s.Next (.thermalLimit .clear) fun t => clocked t ∧ t.chip.thermal = none ∧ t.chip.current = none
        ∧ t.chip.period = capClock s.chip)
end

