-- ==== Sys2Proof/Laws/Tables.lean ====
section
/-!
SUPPORT. Sys2Proof/Laws/Tables.lean: sparse tables: what a read finds after a put, a deletion or a change of every entry.
-/

namespace Sys2Proof.Machine
open Sys2Proof

variable {α : Type}

@[simp] theorem sget_sput_same (m : SMap α) (k : Nat) (a : α) : sget (sput m k a) k = some a := by
  induction m with
  | nil => simp [sput, sget]
  | cons e r ih =>
    obtain ⟨j, b⟩ := e
    simp only [sput]
    split
    · simp [sget]
    · split
      · simp [sget]
      · rename_i h
        simp [sget, Ne.symm h, ih]

theorem sget_sput_ne (m : SMap α) {k j : Nat} (a : α) (h : j ≠ k) : sget (sput m k a) j = sget m j := by
  induction m with
  | nil => simp [sput, sget, Ne.symm h]
  | cons e r ih =>
    obtain ⟨l, b⟩ := e
    simp only [sput]
    split
    · simp [sget, Ne.symm h]
    · split
      · rename_i g; subst g; simp [sget, Ne.symm h]
      · simp [sget, ih]

theorem sget_sput (m : SMap α) (k j : Nat) (a : α) : sget (sput m k a) j = if j = k then some a else sget m j := by
  split
  · rename_i h; subst h; simp
  · rename_i h; exact sget_sput_ne m a h

theorem sget_sdel_ne (m : SMap α) {k j : Nat} (h : j ≠ k) : sget (sdel m k) j = sget m j := by
  induction m with
  | nil => rfl
  | cons e r ih =>
    obtain ⟨l, b⟩ := e
    simp only [sdel]
    split
    · rename_i g; subst g; simp [sget, Ne.symm h]
    · simp [sget, ih]

theorem sget_smap (f : Nat → α → α) (m : SMap α) (k : Nat) : sget (smap f m) k = (sget m k).map (f k) := by
  induction m with
  | nil => rfl
  | cons e r ih =>
    obtain ⟨j, b⟩ := e
    by_cases h : j = k
    · subst h; simp [smap, sget]
    · simp [smap, sget, h, ih]

end Sys2Proof.Machine
end

