-- ==== Sys2Proof/Laws/Memory.lean ====
section
/-!
SUPPORT. Sys2Proof/Laws/Memory.lean: memory keeps its canonical form; a byte reads as it was last written, and every other
byte as before.
-/

namespace Sys2Proof.Machine
open Sys2Proof

/-- Every cell lies above a key. -/
def Memory.above (n : Nat) (m : Memory) : Prop := ∀ e ∈ m, n < e.1

theorem Memory.wf_cons {j : Nat} {b : Byte} {r : Memory} :
    Memory.wf ((j, b) :: r) = true ↔ b ≠ unlisted ∧ Memory.above j r ∧ Memory.wf r = true := by
  induction r generalizing j b with
  | nil => simp [Memory.wf, Memory.above]
  | cons e r ih =>
    obtain ⟨k, d⟩ := e
    simp only [Memory.wf, Bool.and_eq_true, decide_eq_true_eq]
    constructor
    · rintro ⟨⟨h, g⟩, w⟩
      refine ⟨h, ?_, w⟩
      obtain ⟨-, a, -⟩ := ih.1 w
      intro e he
      rcases List.mem_cons.1 he with rfl | he
      · exact g
      · exact Nat.lt_trans g (a e he)
    · rintro ⟨h, g, w⟩
      exact ⟨⟨h, g _ (List.mem_cons_self ..)⟩, w⟩

@[simp] theorem Memory.wf_nil : Memory.wf [] = true := rfl

theorem memSet_above {n k : Nat} {v : Byte} {m : Memory} (h : Memory.above n m) (g : n < k) :
    Memory.above n (memSet m k v) := by
  induction m with
  | nil =>
    simp only [memSet]
    split <;> simp [Memory.above, g]
  | cons e r ih =>
    obtain ⟨j, b⟩ := e
    have hr : Memory.above n r := fun e he => h e (List.mem_cons_of_mem _ he)
    have hj : n < j := h (j, b) (List.mem_cons_self ..)
    simp only [memSet]
    split
    · split
      · exact h
      · intro e he
        rcases List.mem_cons.1 he with rfl | he
        · exact g
        · exact h e he
    · split
      · split
        · exact hr
        · intro e he
          rcases List.mem_cons.1 he with rfl | he
          · exact g
          · exact hr e he
      · intro e he
        rcases List.mem_cons.1 he with rfl | he
        · exact hj
        · exact ih hr e he

/-- A byte write keeps the canonical form. -/
theorem memSet_wf {m : Memory} (k : Nat) (v : Byte) (h : Memory.wf m = true) : Memory.wf (memSet m k v) = true := by
  induction m with
  | nil =>
    simp only [memSet]
    split
    · rfl
    · rename_i g; simp [Memory.wf, g]
  | cons e r ih =>
    obtain ⟨j, b⟩ := e
    obtain ⟨hb, ha, hw⟩ := Memory.wf_cons.1 h
    simp only [memSet]
    split
    · rename_i hk
      split
      · exact h
      · rename_i hv
        refine Memory.wf_cons.2 ⟨hv, ?_, h⟩
        intro e he
        rcases List.mem_cons.1 he with rfl | he
        · exact hk
        · exact Nat.lt_trans hk (ha e he)
    · split
      · rename_i hk; subst hk
        split
        · exact hw
        · rename_i hv; exact Memory.wf_cons.2 ⟨hv, ha, hw⟩
      · rename_i h1 h2
        exact Memory.wf_cons.2 ⟨hb, memSet_above ha (by omega), ih hw⟩

/-- A byte write leaves every other byte. -/
theorem memByte_memSet_ne (m : Memory) {k j : Nat} (v : Byte) (h : j ≠ k) : memByte (memSet m k v) j = memByte m j := by
  induction m with
  | nil =>
    simp only [memSet]
    split <;> simp [memByte, Ne.symm h]
  | cons e r ih =>
    obtain ⟨l, b⟩ := e
    simp only [memSet]
    split
    · split <;> simp [memByte, Ne.symm h]
    · split
      · rename_i g; subst g
        split <;> simp [memByte, Ne.symm h]
      · simp [memByte, ih]

theorem memByte_above {n : Nat} {m : Memory} (h : Memory.above n m) : memByte m n = unlisted := by
  induction m with
  | nil => rfl
  | cons e r ih =>
    obtain ⟨j, b⟩ := e
    have hj : n < j := h (j, b) (List.mem_cons_self ..)
    simp only [memByte]
    rw [if_neg (by omega)]
    exact ih fun e he => h e (List.mem_cons_of_mem _ he)

/-- A byte reads as it was last written. -/
theorem memByte_memSet_same {m : Memory} (k : Nat) (v : Byte) (h : Memory.wf m = true) : memByte (memSet m k v) k = v := by
  induction m with
  | nil =>
    simp only [memSet]
    split
    · rename_i g; simp [memByte, g]
    · simp [memByte]
  | cons e r ih =>
    obtain ⟨j, b⟩ := e
    obtain ⟨hb, ha, hw⟩ := Memory.wf_cons.1 h
    simp only [memSet]
    split
    · rename_i hk
      split
      · rename_i hv
        subst hv
        refine memByte_above ?_
        intro e he
        rcases List.mem_cons.1 he with rfl | he
        · exact hk
        · exact Nat.lt_trans hk (ha e he)
      · simp [memByte]
    · split
      · rename_i hk; subst hk
        split
        · rename_i hv; subst hv; exact memByte_above ha
        · simp [memByte]
      · rename_i h1 h2
        simp [memByte, Ne.symm h2, ih hw]

theorem memMerge_wf {m : Memory} (w : ByteWrite) (h : Memory.wf m = true) : Memory.wf (memMerge m w) = true :=
  memSet_wf _ _ h

/-- The writes of a step keep the canonical form. -/
theorem commit_wf {m : Memory} (l : List ByteWrite) (h : Memory.wf m = true) : Memory.wf (commit m l) = true := by
  induction l generalizing m with
  | nil => exact h
  | cons w ws ih => exact ih (memMerge_wf w h)

@[simp] theorem commit_nil (m : Memory) : commit m [] = m := rfl

/-- The writes of a step change no byte outside their keys. -/
theorem memByte_commit_of_notMem {m : Memory} {l : List ByteWrite} {k : Nat} (h : ∀ w ∈ l, w.key ≠ k) :
    memByte (commit m l) k = memByte m k := by
  induction l generalizing m with
  | nil => rfl
  | cons w ws ih =>
    rw [commit, ih fun v hv => h v (List.mem_cons_of_mem _ hv), memMerge]
    exact memByte_memSet_ne _ _ (Ne.symm (h w (List.mem_cons_self ..)))

/-- After the writes of a step a byte holds what the step saw it become. -/
theorem memByte_commit {m : Memory} (l : List ByteWrite) (k : Nat) (h : Memory.wf m = true) :
    memByte (commit m l) k = patchByte k l (memByte m k) := by
  induction l generalizing m with
  | nil => rfl
  | cons w ws ih =>
    rw [commit, ih (memMerge_wf w h), patchByte]
    by_cases g : w.key = k
    · subst g; simp [memMerge, memByte_memSet_same _ _ h]
    · rw [if_neg g, memMerge, memByte_memSet_ne _ _ (Ne.symm g)]

/-- The keys that writes from a key up touch. -/
theorem byteWrites_keys {n k mask v : Nat} {w : ByteWrite} (h : w ∈ byteWrites n k mask v) : k ≤ w.key ∧ w.key < k + n := by
  induction n generalizing k mask v with
  | zero => simp [byteWrites] at h
  | succ n ih =>
    simp only [byteWrites, List.mem_cons] at h
    rcases h with rfl | h
    · exact ⟨Nat.le_refl _, by simp⟩
    · have := ih h; omega

/-- What a meaning answers is always a next state. -/
theorem run_next (f : Act) (s : State) :
    run f s = .next { chip := { f s.mem s.chip with wlog := [] }, mem := commit s.mem (f s.mem s.chip).wlog } := rfl

theorem run_wf {f : Act} {s t : State} (h : Memory.wf s.mem = true) (g : run f s = .next t) :
    Memory.wf t.mem = true ∧ t.chip.wlog = [] := by
  simp only [run, Host.Outcome.next.injEq] at g
  subst g
  exact ⟨commit_wf _ h, rfl⟩

end Sys2Proof.Machine
end

