-- ==== Sys2Proof/Laws/State.lean ====
section
/-!
SUPPORT. Sys2Proof/Laws/State.lean: what each update of the chip and of a warp leaves, one lemma for each field.
-/

namespace Sys2Proof.Machine
open Sys2Proof

set_option Elab.async false


/-! ### `modWarp` -/

@[simp] theorem modWarp_cores (c : Chip) (w : Nat) (f : Warp → Warp) : (modWarp c w f).cores = c.cores := by unfold modWarp; split <;> rfl
@[simp] theorem modWarp_dev (c : Chip) (w : Nat) (f : Warp → Warp) : (modWarp c w f).dev = c.dev := by unfold modWarp; split <;> rfl
@[simp] theorem modWarp_low (c : Chip) (w : Nat) (f : Warp → Warp) : (modWarp c w f).low = c.low := by unfold modWarp; split <;> rfl
@[simp] theorem modWarp_pmcWas (c : Chip) (w : Nat) (f : Warp → Warp) : (modWarp c w f).pmcWas = c.pmcWas := by unfold modWarp; split <;> rfl
@[simp] theorem modWarp_pmWrites (c : Chip) (w : Nat) (f : Warp → Warp) : (modWarp c w f).pmWrites = c.pmWrites := by unfold modWarp; split <;> rfl
@[simp] theorem modWarp_streams (c : Chip) (w : Nat) (f : Warp → Warp) : (modWarp c w f).streams = c.streams := by unfold modWarp; split <;> rfl
@[simp] theorem modWarp_events (c : Chip) (w : Nat) (f : Warp → Warp) : (modWarp c w f).events = c.events := by unfold modWarp; split <;> rfl
@[simp] theorem modWarp_fetcher (c : Chip) (w : Nat) (f : Warp → Warp) : (modWarp c w f).fetcher = c.fetcher := by unfold modWarp; split <;> rfl
@[simp] theorem modWarp_kreqs (c : Chip) (w : Nat) (f : Warp → Warp) : (modWarp c w f).kreqs = c.kreqs := by unfold modWarp; split <;> rfl
@[simp] theorem modWarp_subs (c : Chip) (w : Nat) (f : Warp → Warp) : (modWarp c w f).subs = c.subs := by unfold modWarp; split <;> rfl
@[simp] theorem modWarp_barCore (c : Chip) (w : Nat) (f : Warp → Warp) : (modWarp c w f).barCore = c.barCore := by unfold modWarp; split <;> rfl
@[simp] theorem modWarp_abandoned (c : Chip) (w : Nat) (f : Warp → Warp) : (modWarp c w f).abandoned = c.abandoned := by unfold modWarp; split <;> rfl
@[simp] theorem modWarp_pushLast (c : Chip) (w : Nat) (f : Warp → Warp) : (modWarp c w f).pushLast = c.pushLast := by unfold modWarp; split <;> rfl
@[simp] theorem modWarp_undef (c : Chip) (w : Nat) (f : Warp → Warp) : (modWarp c w f).undef = c.undef := by unfold modWarp; split <;> rfl
@[simp] theorem modWarp_sramPast (c : Chip) (w : Nat) (f : Warp → Warp) : (modWarp c w f).sramPast = c.sramPast := by unfold modWarp; split <;> rfl
@[simp] theorem modWarp_ops (c : Chip) (w : Nat) (f : Warp → Warp) : (modWarp c w f).ops = c.ops := by unfold modWarp; split <;> rfl
@[simp] theorem modWarp_reqs (c : Chip) (w : Nat) (f : Warp → Warp) : (modWarp c w f).reqs = c.reqs := by unfold modWarp; split <;> rfl
@[simp] theorem modWarp_cmds (c : Chip) (w : Nat) (f : Warp → Warp) : (modWarp c w f).cmds = c.cmds := by unfold modWarp; split <;> rfl
@[simp] theorem modWarp_colls (c : Chip) (w : Nat) (f : Warp → Warp) : (modWarp c w f).colls = c.colls := by unfold modWarp; split <;> rfl
@[simp] theorem modWarp_msgs (c : Chip) (w : Nat) (f : Warp → Warp) : (modWarp c w f).msgs = c.msgs := by unfold modWarp; split <;> rfl
@[simp] theorem modWarp_pairs (c : Chip) (w : Nat) (f : Warp → Warp) : (modWarp c w f).pairs = c.pairs := by unfold modWarp; split <;> rfl
@[simp] theorem modWarp_rel (c : Chip) (w : Nat) (f : Warp → Warp) : (modWarp c w f).rel = c.rel := by unfold modWarp; split <;> rfl
@[simp] theorem modWarp_walks (c : Chip) (w : Nat) (f : Warp → Warp) : (modWarp c w f).walks = c.walks := by unfold modWarp; split <;> rfl
@[simp] theorem modWarp_ctlb (c : Chip) (w : Nat) (f : Warp → Warp) : (modWarp c w f).ctlb = c.ctlb := by unfold modWarp; split <;> rfl
@[simp] theorem modWarp_faults (c : Chip) (w : Nat) (f : Warp → Warp) : (modWarp c w f).faults = c.faults := by unfold modWarp; split <;> rfl
@[simp] theorem modWarp_faulting (c : Chip) (w : Nat) (f : Warp → Warp) : (modWarp c w f).faulting = c.faulting := by unfold modWarp; split <;> rfl
@[simp] theorem modWarp_halts (c : Chip) (w : Nat) (f : Warp → Warp) : (modWarp c w f).halts = c.halts := by unfold modWarp; split <;> rfl
@[simp] theorem modWarp_l2 (c : Chip) (w : Nat) (f : Warp → Warp) : (modWarp c w f).l2 = c.l2 := by unfold modWarp; split <;> rfl
@[simp] theorem modWarp_pinned (c : Chip) (w : Nat) (f : Warp → Warp) : (modWarp c w f).pinned = c.pinned := by unfold modWarp; split <;> rfl
@[simp] theorem modWarp_l2Age (c : Chip) (w : Nat) (f : Warp → Warp) : (modWarp c w f).l2Age = c.l2Age := by unfold modWarp; split <;> rfl
@[simp] theorem modWarp_l2View (c : Chip) (w : Nat) (f : Warp → Warp) : (modWarp c w f).l2View = c.l2View := by unfold modWarp; split <;> rfl
@[simp] theorem modWarp_releasedBy (c : Chip) (w : Nat) (f : Warp → Warp) : (modWarp c w f).releasedBy = c.releasedBy := by unfold modWarp; split <;> rfl
@[simp] theorem modWarp_poison (c : Chip) (w : Nat) (f : Warp → Warp) : (modWarp c w f).poison = c.poison := by unfold modWarp; split <;> rfl
@[simp] theorem modWarp_keyed (c : Chip) (w : Nat) (f : Warp → Warp) : (modWarp c w f).keyed = c.keyed := by unfold modWarp; split <;> rfl
@[simp] theorem modWarp_blockKeys (c : Chip) (w : Nat) (f : Warp → Warp) : (modWarp c w f).blockKeys = c.blockKeys := by unfold modWarp; split <;> rfl
@[simp] theorem modWarp_rows (c : Chip) (w : Nat) (f : Warp → Warp) : (modWarp c w f).rows = c.rows := by unfold modWarp; split <;> rfl
@[simp] theorem modWarp_hbmQ (c : Chip) (w : Nat) (f : Warp → Warp) : (modWarp c w f).hbmQ = c.hbmQ := by unfold modWarp; split <;> rfl
@[simp] theorem modWarp_keys (c : Chip) (w : Nat) (f : Warp → Warp) : (modWarp c w f).keys = c.keys := by unfold modWarp; split <;> rfl
@[simp] theorem modWarp_keyCount (c : Chip) (w : Nat) (f : Warp → Warp) : (modWarp c w f).keyCount = c.keyCount := by unfold modWarp; split <;> rfl
@[simp] theorem modWarp_lastStamp (c : Chip) (w : Nat) (f : Warp → Warp) : (modWarp c w f).lastStamp = c.lastStamp := by unfold modWarp; split <;> rfl
@[simp] theorem modWarp_stamps (c : Chip) (w : Nat) (f : Warp → Warp) : (modWarp c w f).stamps = c.stamps := by unfold modWarp; split <;> rfl
@[simp] theorem modWarp_conePhys (c : Chip) (w : Nat) (f : Warp → Warp) : (modWarp c w f).conePhys = c.conePhys := by unfold modWarp; split <;> rfl
@[simp] theorem modWarp_coneWritten (c : Chip) (w : Nat) (f : Warp → Warp) : (modWarp c w f).coneWritten = c.coneWritten := by unfold modWarp; split <;> rfl
@[simp] theorem modWarp_coneAlert (c : Chip) (w : Nat) (f : Warp → Warp) : (modWarp c w f).coneAlert = c.coneAlert := by unfold modWarp; split <;> rfl
@[simp] theorem modWarp_chipNo (c : Chip) (w : Nat) (f : Warp → Warp) : (modWarp c w f).chipNo = c.chipNo := by unfold modWarp; split <;> rfl
@[simp] theorem modWarp_msixMask (c : Chip) (w : Nat) (f : Warp → Warp) : (modWarp c w f).msixMask = c.msixMask := by unfold modWarp; split <;> rfl
@[simp] theorem modWarp_msixPend (c : Chip) (w : Nat) (f : Warp → Warp) : (modWarp c w f).msixPend = c.msixPend := by unfold modWarp; split <;> rfl
@[simp] theorem modWarp_raised (c : Chip) (w : Nat) (f : Warp → Warp) : (modWarp c w f).raised = c.raised := by unfold modWarp; split <;> rfl
@[simp] theorem modWarp_caps (c : Chip) (w : Nat) (f : Warp → Warp) : (modWarp c w f).caps = c.caps := by unfold modWarp; split <;> rfl
@[simp] theorem modWarp_capSeq (c : Chip) (w : Nat) (f : Warp → Warp) : (modWarp c w f).capSeq = c.capSeq := by unfold modWarp; split <;> rfl
@[simp] theorem modWarp_thermal (c : Chip) (w : Nat) (f : Warp → Warp) : (modWarp c w f).thermal = c.thermal := by unfold modWarp; split <;> rfl
@[simp] theorem modWarp_current (c : Chip) (w : Nat) (f : Warp → Warp) : (modWarp c w f).current = c.current := by unfold modWarp; split <;> rfl
@[simp] theorem modWarp_logWrapped (c : Chip) (w : Nat) (f : Warp → Warp) : (modWarp c w f).logWrapped = c.logWrapped := by unfold modWarp; split <;> rfl
@[simp] theorem modWarp_resets (c : Chip) (w : Nat) (f : Warp → Warp) : (modWarp c w f).resets = c.resets := by unfold modWarp; split <;> rfl
@[simp] theorem modWarp_withheld (c : Chip) (w : Nat) (f : Warp → Warp) : (modWarp c w f).withheld = c.withheld := by unfold modWarp; split <;> rfl
@[simp] theorem modWarp_handover (c : Chip) (w : Nat) (f : Warp → Warp) : (modWarp c w f).handover = c.handover := by unfold modWarp; split <;> rfl
@[simp] theorem modWarp_giving (c : Chip) (w : Nat) (f : Warp → Warp) : (modWarp c w f).giving = c.giving := by unfold modWarp; split <;> rfl
@[simp] theorem modWarp_recovery (c : Chip) (w : Nat) (f : Warp → Warp) : (modWarp c w f).recovery = c.recovery := by unfold modWarp; split <;> rfl
@[simp] theorem modWarp_firmware (c : Chip) (w : Nat) (f : Warp → Warp) : (modWarp c w f).firmware = c.firmware := by unfold modWarp; split <;> rfl
@[simp] theorem modWarp_upStep (c : Chip) (w : Nat) (f : Warp → Warp) : (modWarp c w f).upStep = c.upStep := by unfold modWarp; split <;> rfl
@[simp] theorem modWarp_accepted (c : Chip) (w : Nat) (f : Warp → Warp) : (modWarp c w f).accepted = c.accepted := by unfold modWarp; split <;> rfl
@[simp] theorem modWarp_unplaced (c : Chip) (w : Nat) (f : Warp → Warp) : (modWarp c w f).unplaced = c.unplaced := by unfold modWarp; split <;> rfl
@[simp] theorem modWarp_out (c : Chip) (w : Nat) (f : Warp → Warp) : (modWarp c w f).out = c.out := by unfold modWarp; split <;> rfl
@[simp] theorem modWarp_cycle (c : Chip) (w : Nat) (f : Warp → Warp) : (modWarp c w f).cycle = c.cycle := by unfold modWarp; split <;> rfl
@[simp] theorem modWarp_wall (c : Chip) (w : Nat) (f : Warp → Warp) : (modWarp c w f).wall = c.wall := by unfold modWarp; split <;> rfl
@[simp] theorem modWarp_period (c : Chip) (w : Nat) (f : Warp → Warp) : (modWarp c w f).period = c.period := by unfold modWarp; split <;> rfl
@[simp] theorem modWarp_agenda (c : Chip) (w : Nat) (f : Warp → Warp) : (modWarp c w f).agenda = c.agenda := by unfold modWarp; split <;> rfl
@[simp] theorem modWarp_phase (c : Chip) (w : Nat) (f : Warp → Warp) : (modWarp c w f).phase = c.phase := by unfold modWarp; split <;> rfl
@[simp] theorem modWarp_cur (c : Chip) (w : Nat) (f : Warp → Warp) : (modWarp c w f).cur = c.cur := by unfold modWarp; split <;> rfl
@[simp] theorem modWarp_pos (c : Chip) (w : Nat) (f : Warp → Warp) : (modWarp c w f).pos = c.pos := by unfold modWarp; split <;> rfl
@[simp] theorem modWarp_wlog (c : Chip) (w : Nat) (f : Warp → Warp) : (modWarp c w f).wlog = c.wlog := by unfold modWarp; split <;> rfl
@[simp] theorem modWarp_fresh (c : Chip) (w : Nat) (f : Warp → Warp) : (modWarp c w f).fresh = c.fresh := by unfold modWarp; split <;> rfl
@[simp] theorem modWarp_free (c : Chip) (w : Nat) (f : Warp → Warp) : (modWarp c w f).free = c.free := by unfold modWarp; split <;> rfl

/-! ### `modCore` -/

@[simp] theorem modCore_warps (c : Chip) (k : Nat) (f : Core → Core) : (modCore c k f).warps = c.warps := rfl
@[simp] theorem modCore_dev (c : Chip) (k : Nat) (f : Core → Core) : (modCore c k f).dev = c.dev := rfl
@[simp] theorem modCore_low (c : Chip) (k : Nat) (f : Core → Core) : (modCore c k f).low = c.low := rfl
@[simp] theorem modCore_pmcWas (c : Chip) (k : Nat) (f : Core → Core) : (modCore c k f).pmcWas = c.pmcWas := rfl
@[simp] theorem modCore_pmWrites (c : Chip) (k : Nat) (f : Core → Core) : (modCore c k f).pmWrites = c.pmWrites := rfl
@[simp] theorem modCore_streams (c : Chip) (k : Nat) (f : Core → Core) : (modCore c k f).streams = c.streams := rfl
@[simp] theorem modCore_events (c : Chip) (k : Nat) (f : Core → Core) : (modCore c k f).events = c.events := rfl
@[simp] theorem modCore_fetcher (c : Chip) (k : Nat) (f : Core → Core) : (modCore c k f).fetcher = c.fetcher := rfl
@[simp] theorem modCore_kreqs (c : Chip) (k : Nat) (f : Core → Core) : (modCore c k f).kreqs = c.kreqs := rfl
@[simp] theorem modCore_subs (c : Chip) (k : Nat) (f : Core → Core) : (modCore c k f).subs = c.subs := rfl
@[simp] theorem modCore_barCore (c : Chip) (k : Nat) (f : Core → Core) : (modCore c k f).barCore = c.barCore := rfl
@[simp] theorem modCore_abandoned (c : Chip) (k : Nat) (f : Core → Core) : (modCore c k f).abandoned = c.abandoned := rfl
@[simp] theorem modCore_pushLast (c : Chip) (k : Nat) (f : Core → Core) : (modCore c k f).pushLast = c.pushLast := rfl
@[simp] theorem modCore_undef (c : Chip) (k : Nat) (f : Core → Core) : (modCore c k f).undef = c.undef := rfl
@[simp] theorem modCore_sramPast (c : Chip) (k : Nat) (f : Core → Core) : (modCore c k f).sramPast = c.sramPast := rfl
@[simp] theorem modCore_ops (c : Chip) (k : Nat) (f : Core → Core) : (modCore c k f).ops = c.ops := rfl
@[simp] theorem modCore_reqs (c : Chip) (k : Nat) (f : Core → Core) : (modCore c k f).reqs = c.reqs := rfl
@[simp] theorem modCore_cmds (c : Chip) (k : Nat) (f : Core → Core) : (modCore c k f).cmds = c.cmds := rfl
@[simp] theorem modCore_colls (c : Chip) (k : Nat) (f : Core → Core) : (modCore c k f).colls = c.colls := rfl
@[simp] theorem modCore_msgs (c : Chip) (k : Nat) (f : Core → Core) : (modCore c k f).msgs = c.msgs := rfl
@[simp] theorem modCore_pairs (c : Chip) (k : Nat) (f : Core → Core) : (modCore c k f).pairs = c.pairs := rfl
@[simp] theorem modCore_rel (c : Chip) (k : Nat) (f : Core → Core) : (modCore c k f).rel = c.rel := rfl
@[simp] theorem modCore_walks (c : Chip) (k : Nat) (f : Core → Core) : (modCore c k f).walks = c.walks := rfl
@[simp] theorem modCore_ctlb (c : Chip) (k : Nat) (f : Core → Core) : (modCore c k f).ctlb = c.ctlb := rfl
@[simp] theorem modCore_faults (c : Chip) (k : Nat) (f : Core → Core) : (modCore c k f).faults = c.faults := rfl
@[simp] theorem modCore_faulting (c : Chip) (k : Nat) (f : Core → Core) : (modCore c k f).faulting = c.faulting := rfl
@[simp] theorem modCore_halts (c : Chip) (k : Nat) (f : Core → Core) : (modCore c k f).halts = c.halts := rfl
@[simp] theorem modCore_l2 (c : Chip) (k : Nat) (f : Core → Core) : (modCore c k f).l2 = c.l2 := rfl
@[simp] theorem modCore_pinned (c : Chip) (k : Nat) (f : Core → Core) : (modCore c k f).pinned = c.pinned := rfl
@[simp] theorem modCore_l2Age (c : Chip) (k : Nat) (f : Core → Core) : (modCore c k f).l2Age = c.l2Age := rfl
@[simp] theorem modCore_l2View (c : Chip) (k : Nat) (f : Core → Core) : (modCore c k f).l2View = c.l2View := rfl
@[simp] theorem modCore_releasedBy (c : Chip) (k : Nat) (f : Core → Core) : (modCore c k f).releasedBy = c.releasedBy := rfl
@[simp] theorem modCore_poison (c : Chip) (k : Nat) (f : Core → Core) : (modCore c k f).poison = c.poison := rfl
@[simp] theorem modCore_keyed (c : Chip) (k : Nat) (f : Core → Core) : (modCore c k f).keyed = c.keyed := rfl
@[simp] theorem modCore_blockKeys (c : Chip) (k : Nat) (f : Core → Core) : (modCore c k f).blockKeys = c.blockKeys := rfl
@[simp] theorem modCore_rows (c : Chip) (k : Nat) (f : Core → Core) : (modCore c k f).rows = c.rows := rfl
@[simp] theorem modCore_hbmQ (c : Chip) (k : Nat) (f : Core → Core) : (modCore c k f).hbmQ = c.hbmQ := rfl
@[simp] theorem modCore_keys (c : Chip) (k : Nat) (f : Core → Core) : (modCore c k f).keys = c.keys := rfl
@[simp] theorem modCore_keyCount (c : Chip) (k : Nat) (f : Core → Core) : (modCore c k f).keyCount = c.keyCount := rfl
@[simp] theorem modCore_lastStamp (c : Chip) (k : Nat) (f : Core → Core) : (modCore c k f).lastStamp = c.lastStamp := rfl
@[simp] theorem modCore_stamps (c : Chip) (k : Nat) (f : Core → Core) : (modCore c k f).stamps = c.stamps := rfl
@[simp] theorem modCore_conePhys (c : Chip) (k : Nat) (f : Core → Core) : (modCore c k f).conePhys = c.conePhys := rfl
@[simp] theorem modCore_coneWritten (c : Chip) (k : Nat) (f : Core → Core) : (modCore c k f).coneWritten = c.coneWritten := rfl
@[simp] theorem modCore_coneAlert (c : Chip) (k : Nat) (f : Core → Core) : (modCore c k f).coneAlert = c.coneAlert := rfl
@[simp] theorem modCore_chipNo (c : Chip) (k : Nat) (f : Core → Core) : (modCore c k f).chipNo = c.chipNo := rfl
@[simp] theorem modCore_msixMask (c : Chip) (k : Nat) (f : Core → Core) : (modCore c k f).msixMask = c.msixMask := rfl
@[simp] theorem modCore_msixPend (c : Chip) (k : Nat) (f : Core → Core) : (modCore c k f).msixPend = c.msixPend := rfl
@[simp] theorem modCore_raised (c : Chip) (k : Nat) (f : Core → Core) : (modCore c k f).raised = c.raised := rfl
@[simp] theorem modCore_caps (c : Chip) (k : Nat) (f : Core → Core) : (modCore c k f).caps = c.caps := rfl
@[simp] theorem modCore_capSeq (c : Chip) (k : Nat) (f : Core → Core) : (modCore c k f).capSeq = c.capSeq := rfl
@[simp] theorem modCore_thermal (c : Chip) (k : Nat) (f : Core → Core) : (modCore c k f).thermal = c.thermal := rfl
@[simp] theorem modCore_current (c : Chip) (k : Nat) (f : Core → Core) : (modCore c k f).current = c.current := rfl
@[simp] theorem modCore_logWrapped (c : Chip) (k : Nat) (f : Core → Core) : (modCore c k f).logWrapped = c.logWrapped := rfl
@[simp] theorem modCore_resets (c : Chip) (k : Nat) (f : Core → Core) : (modCore c k f).resets = c.resets := rfl
@[simp] theorem modCore_withheld (c : Chip) (k : Nat) (f : Core → Core) : (modCore c k f).withheld = c.withheld := rfl
@[simp] theorem modCore_handover (c : Chip) (k : Nat) (f : Core → Core) : (modCore c k f).handover = c.handover := rfl
@[simp] theorem modCore_giving (c : Chip) (k : Nat) (f : Core → Core) : (modCore c k f).giving = c.giving := rfl
@[simp] theorem modCore_recovery (c : Chip) (k : Nat) (f : Core → Core) : (modCore c k f).recovery = c.recovery := rfl
@[simp] theorem modCore_firmware (c : Chip) (k : Nat) (f : Core → Core) : (modCore c k f).firmware = c.firmware := rfl
@[simp] theorem modCore_upStep (c : Chip) (k : Nat) (f : Core → Core) : (modCore c k f).upStep = c.upStep := rfl
@[simp] theorem modCore_accepted (c : Chip) (k : Nat) (f : Core → Core) : (modCore c k f).accepted = c.accepted := rfl
@[simp] theorem modCore_unplaced (c : Chip) (k : Nat) (f : Core → Core) : (modCore c k f).unplaced = c.unplaced := rfl
@[simp] theorem modCore_out (c : Chip) (k : Nat) (f : Core → Core) : (modCore c k f).out = c.out := rfl
@[simp] theorem modCore_cycle (c : Chip) (k : Nat) (f : Core → Core) : (modCore c k f).cycle = c.cycle := rfl
@[simp] theorem modCore_wall (c : Chip) (k : Nat) (f : Core → Core) : (modCore c k f).wall = c.wall := rfl
@[simp] theorem modCore_period (c : Chip) (k : Nat) (f : Core → Core) : (modCore c k f).period = c.period := rfl
@[simp] theorem modCore_agenda (c : Chip) (k : Nat) (f : Core → Core) : (modCore c k f).agenda = c.agenda := rfl
@[simp] theorem modCore_phase (c : Chip) (k : Nat) (f : Core → Core) : (modCore c k f).phase = c.phase := rfl
@[simp] theorem modCore_cur (c : Chip) (k : Nat) (f : Core → Core) : (modCore c k f).cur = c.cur := rfl
@[simp] theorem modCore_pos (c : Chip) (k : Nat) (f : Core → Core) : (modCore c k f).pos = c.pos := rfl
@[simp] theorem modCore_wlog (c : Chip) (k : Nat) (f : Core → Core) : (modCore c k f).wlog = c.wlog := rfl
@[simp] theorem modCore_fresh (c : Chip) (k : Nat) (f : Core → Core) : (modCore c k f).fresh = c.fresh := rfl
@[simp] theorem modCore_free (c : Chip) (k : Nat) (f : Core → Core) : (modCore c k f).free = c.free := rfl

/-! ### `setDev` -/

@[simp] theorem setDev_warps (c : Chip) (n : Nat) (x : W64) : (setDev c n x).warps = c.warps := rfl
@[simp] theorem setDev_cores (c : Chip) (n : Nat) (x : W64) : (setDev c n x).cores = c.cores := rfl
@[simp] theorem setDev_low (c : Chip) (n : Nat) (x : W64) : (setDev c n x).low = c.low := rfl
@[simp] theorem setDev_pmcWas (c : Chip) (n : Nat) (x : W64) : (setDev c n x).pmcWas = c.pmcWas := rfl
@[simp] theorem setDev_pmWrites (c : Chip) (n : Nat) (x : W64) : (setDev c n x).pmWrites = c.pmWrites := rfl
@[simp] theorem setDev_streams (c : Chip) (n : Nat) (x : W64) : (setDev c n x).streams = c.streams := rfl
@[simp] theorem setDev_events (c : Chip) (n : Nat) (x : W64) : (setDev c n x).events = c.events := rfl
@[simp] theorem setDev_fetcher (c : Chip) (n : Nat) (x : W64) : (setDev c n x).fetcher = c.fetcher := rfl
@[simp] theorem setDev_kreqs (c : Chip) (n : Nat) (x : W64) : (setDev c n x).kreqs = c.kreqs := rfl
@[simp] theorem setDev_subs (c : Chip) (n : Nat) (x : W64) : (setDev c n x).subs = c.subs := rfl
@[simp] theorem setDev_barCore (c : Chip) (n : Nat) (x : W64) : (setDev c n x).barCore = c.barCore := rfl
@[simp] theorem setDev_abandoned (c : Chip) (n : Nat) (x : W64) : (setDev c n x).abandoned = c.abandoned := rfl
@[simp] theorem setDev_pushLast (c : Chip) (n : Nat) (x : W64) : (setDev c n x).pushLast = c.pushLast := rfl
@[simp] theorem setDev_undef (c : Chip) (n : Nat) (x : W64) : (setDev c n x).undef = c.undef := rfl
@[simp] theorem setDev_sramPast (c : Chip) (n : Nat) (x : W64) : (setDev c n x).sramPast = c.sramPast := rfl
@[simp] theorem setDev_ops (c : Chip) (n : Nat) (x : W64) : (setDev c n x).ops = c.ops := rfl
@[simp] theorem setDev_reqs (c : Chip) (n : Nat) (x : W64) : (setDev c n x).reqs = c.reqs := rfl
@[simp] theorem setDev_cmds (c : Chip) (n : Nat) (x : W64) : (setDev c n x).cmds = c.cmds := rfl
@[simp] theorem setDev_colls (c : Chip) (n : Nat) (x : W64) : (setDev c n x).colls = c.colls := rfl
@[simp] theorem setDev_msgs (c : Chip) (n : Nat) (x : W64) : (setDev c n x).msgs = c.msgs := rfl
@[simp] theorem setDev_pairs (c : Chip) (n : Nat) (x : W64) : (setDev c n x).pairs = c.pairs := rfl
@[simp] theorem setDev_rel (c : Chip) (n : Nat) (x : W64) : (setDev c n x).rel = c.rel := rfl
@[simp] theorem setDev_walks (c : Chip) (n : Nat) (x : W64) : (setDev c n x).walks = c.walks := rfl
@[simp] theorem setDev_ctlb (c : Chip) (n : Nat) (x : W64) : (setDev c n x).ctlb = c.ctlb := rfl
@[simp] theorem setDev_faults (c : Chip) (n : Nat) (x : W64) : (setDev c n x).faults = c.faults := rfl
@[simp] theorem setDev_faulting (c : Chip) (n : Nat) (x : W64) : (setDev c n x).faulting = c.faulting := rfl
@[simp] theorem setDev_halts (c : Chip) (n : Nat) (x : W64) : (setDev c n x).halts = c.halts := rfl
@[simp] theorem setDev_l2 (c : Chip) (n : Nat) (x : W64) : (setDev c n x).l2 = c.l2 := rfl
@[simp] theorem setDev_pinned (c : Chip) (n : Nat) (x : W64) : (setDev c n x).pinned = c.pinned := rfl
@[simp] theorem setDev_l2Age (c : Chip) (n : Nat) (x : W64) : (setDev c n x).l2Age = c.l2Age := rfl
@[simp] theorem setDev_l2View (c : Chip) (n : Nat) (x : W64) : (setDev c n x).l2View = c.l2View := rfl
@[simp] theorem setDev_releasedBy (c : Chip) (n : Nat) (x : W64) : (setDev c n x).releasedBy = c.releasedBy := rfl
@[simp] theorem setDev_poison (c : Chip) (n : Nat) (x : W64) : (setDev c n x).poison = c.poison := rfl
@[simp] theorem setDev_keyed (c : Chip) (n : Nat) (x : W64) : (setDev c n x).keyed = c.keyed := rfl
@[simp] theorem setDev_blockKeys (c : Chip) (n : Nat) (x : W64) : (setDev c n x).blockKeys = c.blockKeys := rfl
@[simp] theorem setDev_rows (c : Chip) (n : Nat) (x : W64) : (setDev c n x).rows = c.rows := rfl
@[simp] theorem setDev_hbmQ (c : Chip) (n : Nat) (x : W64) : (setDev c n x).hbmQ = c.hbmQ := rfl
@[simp] theorem setDev_keys (c : Chip) (n : Nat) (x : W64) : (setDev c n x).keys = c.keys := rfl
@[simp] theorem setDev_keyCount (c : Chip) (n : Nat) (x : W64) : (setDev c n x).keyCount = c.keyCount := rfl
@[simp] theorem setDev_lastStamp (c : Chip) (n : Nat) (x : W64) : (setDev c n x).lastStamp = c.lastStamp := rfl
@[simp] theorem setDev_stamps (c : Chip) (n : Nat) (x : W64) : (setDev c n x).stamps = c.stamps := rfl
@[simp] theorem setDev_conePhys (c : Chip) (n : Nat) (x : W64) : (setDev c n x).conePhys = c.conePhys := rfl
@[simp] theorem setDev_coneWritten (c : Chip) (n : Nat) (x : W64) : (setDev c n x).coneWritten = c.coneWritten := rfl
@[simp] theorem setDev_coneAlert (c : Chip) (n : Nat) (x : W64) : (setDev c n x).coneAlert = c.coneAlert := rfl
@[simp] theorem setDev_chipNo (c : Chip) (n : Nat) (x : W64) : (setDev c n x).chipNo = c.chipNo := rfl
@[simp] theorem setDev_msixMask (c : Chip) (n : Nat) (x : W64) : (setDev c n x).msixMask = c.msixMask := rfl
@[simp] theorem setDev_msixPend (c : Chip) (n : Nat) (x : W64) : (setDev c n x).msixPend = c.msixPend := rfl
@[simp] theorem setDev_raised (c : Chip) (n : Nat) (x : W64) : (setDev c n x).raised = c.raised := rfl
@[simp] theorem setDev_caps (c : Chip) (n : Nat) (x : W64) : (setDev c n x).caps = c.caps := rfl
@[simp] theorem setDev_capSeq (c : Chip) (n : Nat) (x : W64) : (setDev c n x).capSeq = c.capSeq := rfl
@[simp] theorem setDev_thermal (c : Chip) (n : Nat) (x : W64) : (setDev c n x).thermal = c.thermal := rfl
@[simp] theorem setDev_current (c : Chip) (n : Nat) (x : W64) : (setDev c n x).current = c.current := rfl
@[simp] theorem setDev_logWrapped (c : Chip) (n : Nat) (x : W64) : (setDev c n x).logWrapped = c.logWrapped := rfl
@[simp] theorem setDev_resets (c : Chip) (n : Nat) (x : W64) : (setDev c n x).resets = c.resets := rfl
@[simp] theorem setDev_withheld (c : Chip) (n : Nat) (x : W64) : (setDev c n x).withheld = c.withheld := rfl
@[simp] theorem setDev_handover (c : Chip) (n : Nat) (x : W64) : (setDev c n x).handover = c.handover := rfl
@[simp] theorem setDev_giving (c : Chip) (n : Nat) (x : W64) : (setDev c n x).giving = c.giving := rfl
@[simp] theorem setDev_recovery (c : Chip) (n : Nat) (x : W64) : (setDev c n x).recovery = c.recovery := rfl
@[simp] theorem setDev_firmware (c : Chip) (n : Nat) (x : W64) : (setDev c n x).firmware = c.firmware := rfl
@[simp] theorem setDev_upStep (c : Chip) (n : Nat) (x : W64) : (setDev c n x).upStep = c.upStep := rfl
@[simp] theorem setDev_accepted (c : Chip) (n : Nat) (x : W64) : (setDev c n x).accepted = c.accepted := rfl
@[simp] theorem setDev_unplaced (c : Chip) (n : Nat) (x : W64) : (setDev c n x).unplaced = c.unplaced := rfl
@[simp] theorem setDev_out (c : Chip) (n : Nat) (x : W64) : (setDev c n x).out = c.out := rfl
@[simp] theorem setDev_cycle (c : Chip) (n : Nat) (x : W64) : (setDev c n x).cycle = c.cycle := rfl
@[simp] theorem setDev_wall (c : Chip) (n : Nat) (x : W64) : (setDev c n x).wall = c.wall := rfl
@[simp] theorem setDev_period (c : Chip) (n : Nat) (x : W64) : (setDev c n x).period = c.period := rfl
@[simp] theorem setDev_agenda (c : Chip) (n : Nat) (x : W64) : (setDev c n x).agenda = c.agenda := rfl
@[simp] theorem setDev_phase (c : Chip) (n : Nat) (x : W64) : (setDev c n x).phase = c.phase := rfl
@[simp] theorem setDev_cur (c : Chip) (n : Nat) (x : W64) : (setDev c n x).cur = c.cur := rfl
@[simp] theorem setDev_pos (c : Chip) (n : Nat) (x : W64) : (setDev c n x).pos = c.pos := rfl
@[simp] theorem setDev_wlog (c : Chip) (n : Nat) (x : W64) : (setDev c n x).wlog = c.wlog := rfl
@[simp] theorem setDev_fresh (c : Chip) (n : Nat) (x : W64) : (setDev c n x).fresh = c.fresh := rfl
@[simp] theorem setDev_free (c : Chip) (n : Nat) (x : W64) : (setDev c n x).free = c.free := rfl

/-! ### `schedule` -/

@[simp] theorem schedule_warps (c : Chip) (t : Nat) (e : Ev) : (schedule c t e).warps = c.warps := rfl
@[simp] theorem schedule_cores (c : Chip) (t : Nat) (e : Ev) : (schedule c t e).cores = c.cores := rfl
@[simp] theorem schedule_dev (c : Chip) (t : Nat) (e : Ev) : (schedule c t e).dev = c.dev := rfl
@[simp] theorem schedule_low (c : Chip) (t : Nat) (e : Ev) : (schedule c t e).low = c.low := rfl
@[simp] theorem schedule_pmcWas (c : Chip) (t : Nat) (e : Ev) : (schedule c t e).pmcWas = c.pmcWas := rfl
@[simp] theorem schedule_pmWrites (c : Chip) (t : Nat) (e : Ev) : (schedule c t e).pmWrites = c.pmWrites := rfl
@[simp] theorem schedule_streams (c : Chip) (t : Nat) (e : Ev) : (schedule c t e).streams = c.streams := rfl
@[simp] theorem schedule_events (c : Chip) (t : Nat) (e : Ev) : (schedule c t e).events = c.events := rfl
@[simp] theorem schedule_fetcher (c : Chip) (t : Nat) (e : Ev) : (schedule c t e).fetcher = c.fetcher := rfl
@[simp] theorem schedule_kreqs (c : Chip) (t : Nat) (e : Ev) : (schedule c t e).kreqs = c.kreqs := rfl
@[simp] theorem schedule_subs (c : Chip) (t : Nat) (e : Ev) : (schedule c t e).subs = c.subs := rfl
@[simp] theorem schedule_barCore (c : Chip) (t : Nat) (e : Ev) : (schedule c t e).barCore = c.barCore := rfl
@[simp] theorem schedule_abandoned (c : Chip) (t : Nat) (e : Ev) : (schedule c t e).abandoned = c.abandoned := rfl
@[simp] theorem schedule_pushLast (c : Chip) (t : Nat) (e : Ev) : (schedule c t e).pushLast = c.pushLast := rfl
@[simp] theorem schedule_undef (c : Chip) (t : Nat) (e : Ev) : (schedule c t e).undef = c.undef := rfl
@[simp] theorem schedule_sramPast (c : Chip) (t : Nat) (e : Ev) : (schedule c t e).sramPast = c.sramPast := rfl
@[simp] theorem schedule_ops (c : Chip) (t : Nat) (e : Ev) : (schedule c t e).ops = c.ops := rfl
@[simp] theorem schedule_reqs (c : Chip) (t : Nat) (e : Ev) : (schedule c t e).reqs = c.reqs := rfl
@[simp] theorem schedule_cmds (c : Chip) (t : Nat) (e : Ev) : (schedule c t e).cmds = c.cmds := rfl
@[simp] theorem schedule_colls (c : Chip) (t : Nat) (e : Ev) : (schedule c t e).colls = c.colls := rfl
@[simp] theorem schedule_msgs (c : Chip) (t : Nat) (e : Ev) : (schedule c t e).msgs = c.msgs := rfl
@[simp] theorem schedule_pairs (c : Chip) (t : Nat) (e : Ev) : (schedule c t e).pairs = c.pairs := rfl
@[simp] theorem schedule_rel (c : Chip) (t : Nat) (e : Ev) : (schedule c t e).rel = c.rel := rfl
@[simp] theorem schedule_walks (c : Chip) (t : Nat) (e : Ev) : (schedule c t e).walks = c.walks := rfl
@[simp] theorem schedule_ctlb (c : Chip) (t : Nat) (e : Ev) : (schedule c t e).ctlb = c.ctlb := rfl
@[simp] theorem schedule_faults (c : Chip) (t : Nat) (e : Ev) : (schedule c t e).faults = c.faults := rfl
@[simp] theorem schedule_faulting (c : Chip) (t : Nat) (e : Ev) : (schedule c t e).faulting = c.faulting := rfl
@[simp] theorem schedule_halts (c : Chip) (t : Nat) (e : Ev) : (schedule c t e).halts = c.halts := rfl
@[simp] theorem schedule_l2 (c : Chip) (t : Nat) (e : Ev) : (schedule c t e).l2 = c.l2 := rfl
@[simp] theorem schedule_pinned (c : Chip) (t : Nat) (e : Ev) : (schedule c t e).pinned = c.pinned := rfl
@[simp] theorem schedule_l2Age (c : Chip) (t : Nat) (e : Ev) : (schedule c t e).l2Age = c.l2Age := rfl
@[simp] theorem schedule_l2View (c : Chip) (t : Nat) (e : Ev) : (schedule c t e).l2View = c.l2View := rfl
@[simp] theorem schedule_releasedBy (c : Chip) (t : Nat) (e : Ev) : (schedule c t e).releasedBy = c.releasedBy := rfl
@[simp] theorem schedule_poison (c : Chip) (t : Nat) (e : Ev) : (schedule c t e).poison = c.poison := rfl
@[simp] theorem schedule_keyed (c : Chip) (t : Nat) (e : Ev) : (schedule c t e).keyed = c.keyed := rfl
@[simp] theorem schedule_blockKeys (c : Chip) (t : Nat) (e : Ev) : (schedule c t e).blockKeys = c.blockKeys := rfl
@[simp] theorem schedule_rows (c : Chip) (t : Nat) (e : Ev) : (schedule c t e).rows = c.rows := rfl
@[simp] theorem schedule_hbmQ (c : Chip) (t : Nat) (e : Ev) : (schedule c t e).hbmQ = c.hbmQ := rfl
@[simp] theorem schedule_keys (c : Chip) (t : Nat) (e : Ev) : (schedule c t e).keys = c.keys := rfl
@[simp] theorem schedule_keyCount (c : Chip) (t : Nat) (e : Ev) : (schedule c t e).keyCount = c.keyCount := rfl
@[simp] theorem schedule_lastStamp (c : Chip) (t : Nat) (e : Ev) : (schedule c t e).lastStamp = c.lastStamp := rfl
@[simp] theorem schedule_stamps (c : Chip) (t : Nat) (e : Ev) : (schedule c t e).stamps = c.stamps := rfl
@[simp] theorem schedule_conePhys (c : Chip) (t : Nat) (e : Ev) : (schedule c t e).conePhys = c.conePhys := rfl
@[simp] theorem schedule_coneWritten (c : Chip) (t : Nat) (e : Ev) : (schedule c t e).coneWritten = c.coneWritten := rfl
@[simp] theorem schedule_coneAlert (c : Chip) (t : Nat) (e : Ev) : (schedule c t e).coneAlert = c.coneAlert := rfl
@[simp] theorem schedule_chipNo (c : Chip) (t : Nat) (e : Ev) : (schedule c t e).chipNo = c.chipNo := rfl
@[simp] theorem schedule_msixMask (c : Chip) (t : Nat) (e : Ev) : (schedule c t e).msixMask = c.msixMask := rfl
@[simp] theorem schedule_msixPend (c : Chip) (t : Nat) (e : Ev) : (schedule c t e).msixPend = c.msixPend := rfl
@[simp] theorem schedule_raised (c : Chip) (t : Nat) (e : Ev) : (schedule c t e).raised = c.raised := rfl
@[simp] theorem schedule_caps (c : Chip) (t : Nat) (e : Ev) : (schedule c t e).caps = c.caps := rfl
@[simp] theorem schedule_capSeq (c : Chip) (t : Nat) (e : Ev) : (schedule c t e).capSeq = c.capSeq := rfl
@[simp] theorem schedule_thermal (c : Chip) (t : Nat) (e : Ev) : (schedule c t e).thermal = c.thermal := rfl
@[simp] theorem schedule_current (c : Chip) (t : Nat) (e : Ev) : (schedule c t e).current = c.current := rfl
@[simp] theorem schedule_logWrapped (c : Chip) (t : Nat) (e : Ev) : (schedule c t e).logWrapped = c.logWrapped := rfl
@[simp] theorem schedule_resets (c : Chip) (t : Nat) (e : Ev) : (schedule c t e).resets = c.resets := rfl
@[simp] theorem schedule_withheld (c : Chip) (t : Nat) (e : Ev) : (schedule c t e).withheld = c.withheld := rfl
@[simp] theorem schedule_handover (c : Chip) (t : Nat) (e : Ev) : (schedule c t e).handover = c.handover := rfl
@[simp] theorem schedule_giving (c : Chip) (t : Nat) (e : Ev) : (schedule c t e).giving = c.giving := rfl
@[simp] theorem schedule_recovery (c : Chip) (t : Nat) (e : Ev) : (schedule c t e).recovery = c.recovery := rfl
@[simp] theorem schedule_firmware (c : Chip) (t : Nat) (e : Ev) : (schedule c t e).firmware = c.firmware := rfl
@[simp] theorem schedule_upStep (c : Chip) (t : Nat) (e : Ev) : (schedule c t e).upStep = c.upStep := rfl
@[simp] theorem schedule_accepted (c : Chip) (t : Nat) (e : Ev) : (schedule c t e).accepted = c.accepted := rfl
@[simp] theorem schedule_unplaced (c : Chip) (t : Nat) (e : Ev) : (schedule c t e).unplaced = c.unplaced := rfl
@[simp] theorem schedule_out (c : Chip) (t : Nat) (e : Ev) : (schedule c t e).out = c.out := rfl
@[simp] theorem schedule_cycle (c : Chip) (t : Nat) (e : Ev) : (schedule c t e).cycle = c.cycle := rfl
@[simp] theorem schedule_wall (c : Chip) (t : Nat) (e : Ev) : (schedule c t e).wall = c.wall := rfl
@[simp] theorem schedule_period (c : Chip) (t : Nat) (e : Ev) : (schedule c t e).period = c.period := rfl
@[simp] theorem schedule_phase (c : Chip) (t : Nat) (e : Ev) : (schedule c t e).phase = c.phase := rfl
@[simp] theorem schedule_cur (c : Chip) (t : Nat) (e : Ev) : (schedule c t e).cur = c.cur := rfl
@[simp] theorem schedule_pos (c : Chip) (t : Nat) (e : Ev) : (schedule c t e).pos = c.pos := rfl
@[simp] theorem schedule_wlog (c : Chip) (t : Nat) (e : Ev) : (schedule c t e).wlog = c.wlog := rfl
@[simp] theorem schedule_fresh (c : Chip) (t : Nat) (e : Ev) : (schedule c t e).fresh = c.fresh := rfl
@[simp] theorem schedule_free (c : Chip) (t : Nat) (e : Ev) : (schedule c t e).free = c.free := rfl

/-! ### `writeBits` -/

@[simp] theorem writeBits_warps (c : Chip) (p : PAddr) (n v : Nat) : (writeBits c p n v).warps = c.warps := rfl
@[simp] theorem writeBits_cores (c : Chip) (p : PAddr) (n v : Nat) : (writeBits c p n v).cores = c.cores := rfl
@[simp] theorem writeBits_dev (c : Chip) (p : PAddr) (n v : Nat) : (writeBits c p n v).dev = c.dev := rfl
@[simp] theorem writeBits_low (c : Chip) (p : PAddr) (n v : Nat) : (writeBits c p n v).low = c.low := rfl
@[simp] theorem writeBits_pmcWas (c : Chip) (p : PAddr) (n v : Nat) : (writeBits c p n v).pmcWas = c.pmcWas := rfl
@[simp] theorem writeBits_pmWrites (c : Chip) (p : PAddr) (n v : Nat) : (writeBits c p n v).pmWrites = c.pmWrites := rfl
@[simp] theorem writeBits_streams (c : Chip) (p : PAddr) (n v : Nat) : (writeBits c p n v).streams = c.streams := rfl
@[simp] theorem writeBits_events (c : Chip) (p : PAddr) (n v : Nat) : (writeBits c p n v).events = c.events := rfl
@[simp] theorem writeBits_fetcher (c : Chip) (p : PAddr) (n v : Nat) : (writeBits c p n v).fetcher = c.fetcher := rfl
@[simp] theorem writeBits_kreqs (c : Chip) (p : PAddr) (n v : Nat) : (writeBits c p n v).kreqs = c.kreqs := rfl
@[simp] theorem writeBits_subs (c : Chip) (p : PAddr) (n v : Nat) : (writeBits c p n v).subs = c.subs := rfl
@[simp] theorem writeBits_barCore (c : Chip) (p : PAddr) (n v : Nat) : (writeBits c p n v).barCore = c.barCore := rfl
@[simp] theorem writeBits_abandoned (c : Chip) (p : PAddr) (n v : Nat) : (writeBits c p n v).abandoned = c.abandoned := rfl
@[simp] theorem writeBits_pushLast (c : Chip) (p : PAddr) (n v : Nat) : (writeBits c p n v).pushLast = c.pushLast := rfl
@[simp] theorem writeBits_undef (c : Chip) (p : PAddr) (n v : Nat) : (writeBits c p n v).undef = c.undef := rfl
@[simp] theorem writeBits_sramPast (c : Chip) (p : PAddr) (n v : Nat) : (writeBits c p n v).sramPast = c.sramPast := rfl
@[simp] theorem writeBits_ops (c : Chip) (p : PAddr) (n v : Nat) : (writeBits c p n v).ops = c.ops := rfl
@[simp] theorem writeBits_reqs (c : Chip) (p : PAddr) (n v : Nat) : (writeBits c p n v).reqs = c.reqs := rfl
@[simp] theorem writeBits_cmds (c : Chip) (p : PAddr) (n v : Nat) : (writeBits c p n v).cmds = c.cmds := rfl
@[simp] theorem writeBits_colls (c : Chip) (p : PAddr) (n v : Nat) : (writeBits c p n v).colls = c.colls := rfl
@[simp] theorem writeBits_msgs (c : Chip) (p : PAddr) (n v : Nat) : (writeBits c p n v).msgs = c.msgs := rfl
@[simp] theorem writeBits_pairs (c : Chip) (p : PAddr) (n v : Nat) : (writeBits c p n v).pairs = c.pairs := rfl
@[simp] theorem writeBits_rel (c : Chip) (p : PAddr) (n v : Nat) : (writeBits c p n v).rel = c.rel := rfl
@[simp] theorem writeBits_walks (c : Chip) (p : PAddr) (n v : Nat) : (writeBits c p n v).walks = c.walks := rfl
@[simp] theorem writeBits_ctlb (c : Chip) (p : PAddr) (n v : Nat) : (writeBits c p n v).ctlb = c.ctlb := rfl
@[simp] theorem writeBits_faults (c : Chip) (p : PAddr) (n v : Nat) : (writeBits c p n v).faults = c.faults := rfl
@[simp] theorem writeBits_faulting (c : Chip) (p : PAddr) (n v : Nat) : (writeBits c p n v).faulting = c.faulting := rfl
@[simp] theorem writeBits_halts (c : Chip) (p : PAddr) (n v : Nat) : (writeBits c p n v).halts = c.halts := rfl
@[simp] theorem writeBits_l2 (c : Chip) (p : PAddr) (n v : Nat) : (writeBits c p n v).l2 = c.l2 := rfl
@[simp] theorem writeBits_pinned (c : Chip) (p : PAddr) (n v : Nat) : (writeBits c p n v).pinned = c.pinned := rfl
@[simp] theorem writeBits_l2Age (c : Chip) (p : PAddr) (n v : Nat) : (writeBits c p n v).l2Age = c.l2Age := rfl
@[simp] theorem writeBits_l2View (c : Chip) (p : PAddr) (n v : Nat) : (writeBits c p n v).l2View = c.l2View := rfl
@[simp] theorem writeBits_releasedBy (c : Chip) (p : PAddr) (n v : Nat) : (writeBits c p n v).releasedBy = c.releasedBy := rfl
@[simp] theorem writeBits_poison (c : Chip) (p : PAddr) (n v : Nat) : (writeBits c p n v).poison = c.poison := rfl
@[simp] theorem writeBits_keyed (c : Chip) (p : PAddr) (n v : Nat) : (writeBits c p n v).keyed = c.keyed := rfl
@[simp] theorem writeBits_blockKeys (c : Chip) (p : PAddr) (n v : Nat) : (writeBits c p n v).blockKeys = c.blockKeys := rfl
@[simp] theorem writeBits_rows (c : Chip) (p : PAddr) (n v : Nat) : (writeBits c p n v).rows = c.rows := rfl
@[simp] theorem writeBits_hbmQ (c : Chip) (p : PAddr) (n v : Nat) : (writeBits c p n v).hbmQ = c.hbmQ := rfl
@[simp] theorem writeBits_keys (c : Chip) (p : PAddr) (n v : Nat) : (writeBits c p n v).keys = c.keys := rfl
@[simp] theorem writeBits_keyCount (c : Chip) (p : PAddr) (n v : Nat) : (writeBits c p n v).keyCount = c.keyCount := rfl
@[simp] theorem writeBits_lastStamp (c : Chip) (p : PAddr) (n v : Nat) : (writeBits c p n v).lastStamp = c.lastStamp := rfl
@[simp] theorem writeBits_stamps (c : Chip) (p : PAddr) (n v : Nat) : (writeBits c p n v).stamps = c.stamps := rfl
@[simp] theorem writeBits_conePhys (c : Chip) (p : PAddr) (n v : Nat) : (writeBits c p n v).conePhys = c.conePhys := rfl
@[simp] theorem writeBits_coneWritten (c : Chip) (p : PAddr) (n v : Nat) : (writeBits c p n v).coneWritten = c.coneWritten := rfl
@[simp] theorem writeBits_coneAlert (c : Chip) (p : PAddr) (n v : Nat) : (writeBits c p n v).coneAlert = c.coneAlert := rfl
@[simp] theorem writeBits_chipNo (c : Chip) (p : PAddr) (n v : Nat) : (writeBits c p n v).chipNo = c.chipNo := rfl
@[simp] theorem writeBits_msixMask (c : Chip) (p : PAddr) (n v : Nat) : (writeBits c p n v).msixMask = c.msixMask := rfl
@[simp] theorem writeBits_msixPend (c : Chip) (p : PAddr) (n v : Nat) : (writeBits c p n v).msixPend = c.msixPend := rfl
@[simp] theorem writeBits_raised (c : Chip) (p : PAddr) (n v : Nat) : (writeBits c p n v).raised = c.raised := rfl
@[simp] theorem writeBits_caps (c : Chip) (p : PAddr) (n v : Nat) : (writeBits c p n v).caps = c.caps := rfl
@[simp] theorem writeBits_capSeq (c : Chip) (p : PAddr) (n v : Nat) : (writeBits c p n v).capSeq = c.capSeq := rfl
@[simp] theorem writeBits_thermal (c : Chip) (p : PAddr) (n v : Nat) : (writeBits c p n v).thermal = c.thermal := rfl
@[simp] theorem writeBits_current (c : Chip) (p : PAddr) (n v : Nat) : (writeBits c p n v).current = c.current := rfl
@[simp] theorem writeBits_logWrapped (c : Chip) (p : PAddr) (n v : Nat) : (writeBits c p n v).logWrapped = c.logWrapped := rfl
@[simp] theorem writeBits_resets (c : Chip) (p : PAddr) (n v : Nat) : (writeBits c p n v).resets = c.resets := rfl
@[simp] theorem writeBits_withheld (c : Chip) (p : PAddr) (n v : Nat) : (writeBits c p n v).withheld = c.withheld := rfl
@[simp] theorem writeBits_handover (c : Chip) (p : PAddr) (n v : Nat) : (writeBits c p n v).handover = c.handover := rfl
@[simp] theorem writeBits_giving (c : Chip) (p : PAddr) (n v : Nat) : (writeBits c p n v).giving = c.giving := rfl
@[simp] theorem writeBits_recovery (c : Chip) (p : PAddr) (n v : Nat) : (writeBits c p n v).recovery = c.recovery := rfl
@[simp] theorem writeBits_firmware (c : Chip) (p : PAddr) (n v : Nat) : (writeBits c p n v).firmware = c.firmware := rfl
@[simp] theorem writeBits_upStep (c : Chip) (p : PAddr) (n v : Nat) : (writeBits c p n v).upStep = c.upStep := rfl
@[simp] theorem writeBits_accepted (c : Chip) (p : PAddr) (n v : Nat) : (writeBits c p n v).accepted = c.accepted := rfl
@[simp] theorem writeBits_unplaced (c : Chip) (p : PAddr) (n v : Nat) : (writeBits c p n v).unplaced = c.unplaced := rfl
@[simp] theorem writeBits_out (c : Chip) (p : PAddr) (n v : Nat) : (writeBits c p n v).out = c.out := rfl
@[simp] theorem writeBits_cycle (c : Chip) (p : PAddr) (n v : Nat) : (writeBits c p n v).cycle = c.cycle := rfl
@[simp] theorem writeBits_wall (c : Chip) (p : PAddr) (n v : Nat) : (writeBits c p n v).wall = c.wall := rfl
@[simp] theorem writeBits_period (c : Chip) (p : PAddr) (n v : Nat) : (writeBits c p n v).period = c.period := rfl
@[simp] theorem writeBits_agenda (c : Chip) (p : PAddr) (n v : Nat) : (writeBits c p n v).agenda = c.agenda := rfl
@[simp] theorem writeBits_phase (c : Chip) (p : PAddr) (n v : Nat) : (writeBits c p n v).phase = c.phase := rfl
@[simp] theorem writeBits_cur (c : Chip) (p : PAddr) (n v : Nat) : (writeBits c p n v).cur = c.cur := rfl
@[simp] theorem writeBits_pos (c : Chip) (p : PAddr) (n v : Nat) : (writeBits c p n v).pos = c.pos := rfl
@[simp] theorem writeBits_fresh (c : Chip) (p : PAddr) (n v : Nat) : (writeBits c p n v).fresh = c.fresh := rfl
@[simp] theorem writeBits_free (c : Chip) (p : PAddr) (n v : Nat) : (writeBits c p n v).free = c.free := rfl

/-! ### `endIssue` -/

@[simp] theorem endIssue_warps (c : Chip) : (endIssue c).warps = c.warps := rfl
@[simp] theorem endIssue_cores (c : Chip) : (endIssue c).cores = c.cores := rfl
@[simp] theorem endIssue_dev (c : Chip) : (endIssue c).dev = c.dev := rfl
@[simp] theorem endIssue_low (c : Chip) : (endIssue c).low = c.low := rfl
@[simp] theorem endIssue_pmcWas (c : Chip) : (endIssue c).pmcWas = c.pmcWas := rfl
@[simp] theorem endIssue_pmWrites (c : Chip) : (endIssue c).pmWrites = c.pmWrites := rfl
@[simp] theorem endIssue_streams (c : Chip) : (endIssue c).streams = c.streams := rfl
@[simp] theorem endIssue_events (c : Chip) : (endIssue c).events = c.events := rfl
@[simp] theorem endIssue_fetcher (c : Chip) : (endIssue c).fetcher = c.fetcher := rfl
@[simp] theorem endIssue_kreqs (c : Chip) : (endIssue c).kreqs = c.kreqs := rfl
@[simp] theorem endIssue_subs (c : Chip) : (endIssue c).subs = c.subs := rfl
@[simp] theorem endIssue_barCore (c : Chip) : (endIssue c).barCore = c.barCore := rfl
@[simp] theorem endIssue_abandoned (c : Chip) : (endIssue c).abandoned = c.abandoned := rfl
@[simp] theorem endIssue_pushLast (c : Chip) : (endIssue c).pushLast = c.pushLast := rfl
@[simp] theorem endIssue_undef (c : Chip) : (endIssue c).undef = c.undef := rfl
@[simp] theorem endIssue_sramPast (c : Chip) : (endIssue c).sramPast = c.sramPast := rfl
@[simp] theorem endIssue_ops (c : Chip) : (endIssue c).ops = c.ops := rfl
@[simp] theorem endIssue_reqs (c : Chip) : (endIssue c).reqs = c.reqs := rfl
@[simp] theorem endIssue_cmds (c : Chip) : (endIssue c).cmds = c.cmds := rfl
@[simp] theorem endIssue_colls (c : Chip) : (endIssue c).colls = c.colls := rfl
@[simp] theorem endIssue_msgs (c : Chip) : (endIssue c).msgs = c.msgs := rfl
@[simp] theorem endIssue_pairs (c : Chip) : (endIssue c).pairs = c.pairs := rfl
@[simp] theorem endIssue_rel (c : Chip) : (endIssue c).rel = c.rel := rfl
@[simp] theorem endIssue_walks (c : Chip) : (endIssue c).walks = c.walks := rfl
@[simp] theorem endIssue_ctlb (c : Chip) : (endIssue c).ctlb = c.ctlb := rfl
@[simp] theorem endIssue_faults (c : Chip) : (endIssue c).faults = c.faults := rfl
@[simp] theorem endIssue_faulting (c : Chip) : (endIssue c).faulting = c.faulting := rfl
@[simp] theorem endIssue_halts (c : Chip) : (endIssue c).halts = c.halts := rfl
@[simp] theorem endIssue_l2 (c : Chip) : (endIssue c).l2 = c.l2 := rfl
@[simp] theorem endIssue_pinned (c : Chip) : (endIssue c).pinned = c.pinned := rfl
@[simp] theorem endIssue_l2Age (c : Chip) : (endIssue c).l2Age = c.l2Age := rfl
@[simp] theorem endIssue_l2View (c : Chip) : (endIssue c).l2View = c.l2View := rfl
@[simp] theorem endIssue_releasedBy (c : Chip) : (endIssue c).releasedBy = c.releasedBy := rfl
@[simp] theorem endIssue_poison (c : Chip) : (endIssue c).poison = c.poison := rfl
@[simp] theorem endIssue_keyed (c : Chip) : (endIssue c).keyed = c.keyed := rfl
@[simp] theorem endIssue_blockKeys (c : Chip) : (endIssue c).blockKeys = c.blockKeys := rfl
@[simp] theorem endIssue_rows (c : Chip) : (endIssue c).rows = c.rows := rfl
@[simp] theorem endIssue_hbmQ (c : Chip) : (endIssue c).hbmQ = c.hbmQ := rfl
@[simp] theorem endIssue_keys (c : Chip) : (endIssue c).keys = c.keys := rfl
@[simp] theorem endIssue_keyCount (c : Chip) : (endIssue c).keyCount = c.keyCount := rfl
@[simp] theorem endIssue_lastStamp (c : Chip) : (endIssue c).lastStamp = c.lastStamp := rfl
@[simp] theorem endIssue_stamps (c : Chip) : (endIssue c).stamps = c.stamps := rfl
@[simp] theorem endIssue_conePhys (c : Chip) : (endIssue c).conePhys = c.conePhys := rfl
@[simp] theorem endIssue_coneWritten (c : Chip) : (endIssue c).coneWritten = c.coneWritten := rfl
@[simp] theorem endIssue_coneAlert (c : Chip) : (endIssue c).coneAlert = c.coneAlert := rfl
@[simp] theorem endIssue_chipNo (c : Chip) : (endIssue c).chipNo = c.chipNo := rfl
@[simp] theorem endIssue_msixMask (c : Chip) : (endIssue c).msixMask = c.msixMask := rfl
@[simp] theorem endIssue_msixPend (c : Chip) : (endIssue c).msixPend = c.msixPend := rfl
@[simp] theorem endIssue_raised (c : Chip) : (endIssue c).raised = c.raised := rfl
@[simp] theorem endIssue_caps (c : Chip) : (endIssue c).caps = c.caps := rfl
@[simp] theorem endIssue_capSeq (c : Chip) : (endIssue c).capSeq = c.capSeq := rfl
@[simp] theorem endIssue_thermal (c : Chip) : (endIssue c).thermal = c.thermal := rfl
@[simp] theorem endIssue_current (c : Chip) : (endIssue c).current = c.current := rfl
@[simp] theorem endIssue_logWrapped (c : Chip) : (endIssue c).logWrapped = c.logWrapped := rfl
@[simp] theorem endIssue_resets (c : Chip) : (endIssue c).resets = c.resets := rfl
@[simp] theorem endIssue_withheld (c : Chip) : (endIssue c).withheld = c.withheld := rfl
@[simp] theorem endIssue_handover (c : Chip) : (endIssue c).handover = c.handover := rfl
@[simp] theorem endIssue_giving (c : Chip) : (endIssue c).giving = c.giving := rfl
@[simp] theorem endIssue_recovery (c : Chip) : (endIssue c).recovery = c.recovery := rfl
@[simp] theorem endIssue_firmware (c : Chip) : (endIssue c).firmware = c.firmware := rfl
@[simp] theorem endIssue_upStep (c : Chip) : (endIssue c).upStep = c.upStep := rfl
@[simp] theorem endIssue_accepted (c : Chip) : (endIssue c).accepted = c.accepted := rfl
@[simp] theorem endIssue_unplaced (c : Chip) : (endIssue c).unplaced = c.unplaced := rfl
@[simp] theorem endIssue_out (c : Chip) : (endIssue c).out = c.out := rfl
@[simp] theorem endIssue_cycle (c : Chip) : (endIssue c).cycle = c.cycle := rfl
@[simp] theorem endIssue_wall (c : Chip) : (endIssue c).wall = c.wall := rfl
@[simp] theorem endIssue_period (c : Chip) : (endIssue c).period = c.period := rfl
@[simp] theorem endIssue_agenda (c : Chip) : (endIssue c).agenda = c.agenda := rfl
@[simp] theorem endIssue_cur (c : Chip) : (endIssue c).cur = c.cur := rfl
@[simp] theorem endIssue_pos (c : Chip) : (endIssue c).pos = c.pos := rfl
@[simp] theorem endIssue_wlog (c : Chip) : (endIssue c).wlog = c.wlog := rfl
@[simp] theorem endIssue_fresh (c : Chip) : (endIssue c).fresh = c.fresh := rfl
@[simp] theorem endIssue_free (c : Chip) : (endIssue c).free = c.free := rfl

/-! ### `vwrite` -/

@[simp] theorem vwrite_s (x : Warp) (n : Nat) (m : BitVec 32) (f : Fin 32 → W32) : (vwrite x n m f).s = x.s := rfl
@[simp] theorem vwrite_p (x : Warp) (n : Nat) (m : BitVec 32) (f : Fin 32 → W32) : (vwrite x n m f).p = x.p := rfl
@[simp] theorem vwrite_flags (x : Warp) (n : Nat) (m : BitVec 32) (f : Fin 32 → W32) : (vwrite x n m f).flags = x.flags := rfl
@[simp] theorem vwrite_frontier (x : Warp) (n : Nat) (m : BitVec 32) (f : Fin 32 → W32) : (vwrite x n m f).frontier = x.frontier := rfl
@[simp] theorem vwrite_body (x : Warp) (n : Nat) (m : BitVec 32) (f : Fin 32 → W32) : (vwrite x n m f).body = x.body := rfl
@[simp] theorem vwrite_coil (x : Warp) (n : Nat) (m : BitVec 32) (f : Fin 32 → W32) : (vwrite x n m f).coil = x.coil := rfl
@[simp] theorem vwrite_csp (x : Warp) (n : Nat) (m : BitVec 32) (f : Fin 32 → W32) : (vwrite x n m f).csp = x.csp := rfl
@[simp] theorem vwrite_coilDep (x : Warp) (n : Nat) (m : BitVec 32) (f : Fin 32 → W32) : (vwrite x n m f).coilDep = x.coilDep := rfl
@[simp] theorem vwrite_kernel (x : Warp) (n : Nat) (m : BitVec 32) (f : Fin 32 → W32) : (vwrite x n m f).kernel = x.kernel := rfl
@[simp] theorem vwrite_part (x : Warp) (n : Nat) (m : BitVec 32) (f : Fin 32 → W32) : (vwrite x n m f).part = x.part := rfl
@[simp] theorem vwrite_job (x : Warp) (n : Nat) (m : BitVec 32) (f : Fin 32 → W32) : (vwrite x n m f).job = x.job := rfl
@[simp] theorem vwrite_tile (x : Warp) (n : Nat) (m : BitVec 32) (f : Fin 32 → W32) : (vwrite x n m f).tile = x.tile := rfl
@[simp] theorem vwrite_rcl (x : Warp) (n : Nat) (m : BitVec 32) (f : Fin 32 → W32) : (vwrite x n m f).rcl = x.rcl := rfl
@[simp] theorem vwrite_drn (x : Warp) (n : Nat) (m : BitVec 32) (f : Fin 32 → W32) : (vwrite x n m f).drn = x.drn := rfl
@[simp] theorem vwrite_jobGen (x : Warp) (n : Nat) (m : BitVec 32) (f : Fin 32 → W32) : (vwrite x n m f).jobGen = x.jobGen := rfl
@[simp] theorem vwrite_tcmp (x : Warp) (n : Nat) (m : BitVec 32) (f : Fin 32 → W32) : (vwrite x n m f).tcmp = x.tcmp := rfl
@[simp] theorem vwrite_tvec (x : Warp) (n : Nat) (m : BitVec 32) (f : Fin 32 → W32) : (vwrite x n m f).tvec = x.tvec := rfl
@[simp] theorem vwrite_tepc (x : Warp) (n : Nat) (m : BitVec 32) (f : Fin 32 → W32) : (vwrite x n m f).tepc = x.tepc := rfl
@[simp] theorem vwrite_tcause (x : Warp) (n : Nat) (m : BitVec 32) (f : Fin 32 → W32) : (vwrite x n m f).tcause = x.tcause := rfl
@[simp] theorem vwrite_rngCtr (x : Warp) (n : Nat) (m : BitVec 32) (f : Fin 32 → W32) : (vwrite x n m f).rngCtr = x.rngCtr := rfl
@[simp] theorem vwrite_rngLo (x : Warp) (n : Nat) (m : BitVec 32) (f : Fin 32 → W32) : (vwrite x n m f).rngLo = x.rngLo := rfl
@[simp] theorem vwrite_rngHi (x : Warp) (n : Nat) (m : BitVec 32) (f : Fin 32 → W32) : (vwrite x n m f).rngHi = x.rngHi := rfl
@[simp] theorem vwrite_fpctl (x : Warp) (n : Nat) (m : BitVec 32) (f : Fin 32 → W32) : (vwrite x n m f).fpctl = x.fpctl := rfl
@[simp] theorem vwrite_fpstat (x : Warp) (n : Nat) (m : BitVec 32) (f : Fin 32 → W32) : (vwrite x n m f).fpstat = x.fpstat := rfl
@[simp] theorem vwrite_floor (x : Warp) (n : Nat) (m : BitVec 32) (f : Fin 32 → W32) : (vwrite x n m f).floor = x.floor := rfl
@[simp] theorem vwrite_headroom (x : Warp) (n : Nat) (m : BitVec 32) (f : Fin 32 → W32) : (vwrite x n m f).headroom = x.headroom := rfl
@[simp] theorem vwrite_regions (x : Warp) (n : Nat) (m : BitVec 32) (f : Fin 32 → W32) : (vwrite x n m f).regions = x.regions := rfl
@[simp] theorem vwrite_rgnDepth (x : Warp) (n : Nat) (m : BitVec 32) (f : Fin 32 → W32) : (vwrite x n m f).rgnDepth = x.rgnDepth := rfl
@[simp] theorem vwrite_latches (x : Warp) (n : Nat) (m : BitVec 32) (f : Fin 32 → W32) : (vwrite x n m f).latches = x.latches := rfl
@[simp] theorem vwrite_stage (x : Warp) (n : Nat) (m : BitVec 32) (f : Fin 32 → W32) : (vwrite x n m f).stage = x.stage := rfl
@[simp] theorem vwrite_goPending (x : Warp) (n : Nat) (m : BitVec 32) (f : Fin 32 → W32) : (vwrite x n m f).goPending = x.goPending := rfl
@[simp] theorem vwrite_goFree (x : Warp) (n : Nat) (m : BitVec 32) (f : Fin 32 → W32) : (vwrite x n m f).goFree = x.goFree := rfl
@[simp] theorem vwrite_block (x : Warp) (n : Nat) (m : BitVec 32) (f : Fin 32 → W32) : (vwrite x n m f).block = x.block := rfl
@[simp] theorem vwrite_privBase (x : Warp) (n : Nat) (m : BitVec 32) (f : Fin 32 → W32) : (vwrite x n m f).privBase = x.privBase := rfl
@[simp] theorem vwrite_cspTop (x : Warp) (n : Nat) (m : BitVec 32) (f : Fin 32 → W32) : (vwrite x n m f).cspTop = x.cspTop := rfl
@[simp] theorem vwrite_placed (x : Warp) (n : Nat) (m : BitVec 32) (f : Fin 32 → W32) : (vwrite x n m f).placed = x.placed := rfl
@[simp] theorem vwrite_wait (x : Warp) (n : Nat) (m : BitVec 32) (f : Fin 32 → W32) : (vwrite x n m f).wait = x.wait := rfl
@[simp] theorem vwrite_waitFlag (x : Warp) (n : Nat) (m : BitVec 32) (f : Fin 32 → W32) : (vwrite x n m f).waitFlag = x.waitFlag := rfl
@[simp] theorem vwrite_ready (x : Warp) (n : Nat) (m : BitVec 32) (f : Fin 32 → W32) : (vwrite x n m f).ready = x.ready := rfl
@[simp] theorem vwrite_missing (x : Warp) (n : Nat) (m : BitVec 32) (f : Fin 32 → W32) : (vwrite x n m f).missing = x.missing := rfl
@[simp] theorem vwrite_deferral (x : Warp) (n : Nat) (m : BitVec 32) (f : Fin 32 → W32) : (vwrite x n m f).deferral = x.deferral := rfl
@[simp] theorem vwrite_nextIssue (x : Warp) (n : Nat) (m : BitVec 32) (f : Fin 32 → W32) : (vwrite x n m f).nextIssue = x.nextIssue := rfl
@[simp] theorem vwrite_nextWhy (x : Warp) (n : Nat) (m : BitVec 32) (f : Fin 32 → W32) : (vwrite x n m f).nextWhy = x.nextWhy := rfl
@[simp] theorem vwrite_stores (x : Warp) (n : Nat) (m : BitVec 32) (f : Fin 32 → W32) : (vwrite x n m f).stores = x.stores := rfl
@[simp] theorem vwrite_loads (x : Warp) (n : Nat) (m : BitVec 32) (f : Fin 32 → W32) : (vwrite x n m f).loads = x.loads := rfl
@[simp] theorem vwrite_hold (x : Warp) (n : Nat) (m : BitVec 32) (f : Fin 32 → W32) : (vwrite x n m f).hold = x.hold := rfl
@[simp] theorem vwrite_holdUntil (x : Warp) (n : Nat) (m : BitVec 32) (f : Fin 32 → W32) : (vwrite x n m f).holdUntil = x.holdUntil := rfl
@[simp] theorem vwrite_fenced (x : Warp) (n : Nat) (m : BitVec 32) (f : Fin 32 → W32) : (vwrite x n m f).fenced = x.fenced := rfl
@[simp] theorem vwrite_stale (x : Warp) (n : Nat) (m : BitVec 32) (f : Fin 32 → W32) : (vwrite x n m f).stale = x.stale := rfl
@[simp] theorem vwrite_coreRelease (x : Warp) (n : Nat) (m : BitVec 32) (f : Fin 32 → W32) : (vwrite x n m f).coreRelease = x.coreRelease := rfl
@[simp] theorem vwrite_issued (x : Warp) (n : Nat) (m : BitVec 32) (f : Fin 32 → W32) : (vwrite x n m f).issued = x.issued := rfl
@[simp] theorem vwrite_lastIssue (x : Warp) (n : Nat) (m : BitVec 32) (f : Fin 32 → W32) : (vwrite x n m f).lastIssue = x.lastIssue := rfl
@[simp] theorem vwrite_deferred (x : Warp) (n : Nat) (m : BitVec 32) (f : Fin 32 → W32) : (vwrite x n m f).deferred = x.deferred := rfl
@[simp] theorem vwrite_halted (x : Warp) (n : Nat) (m : BitVec 32) (f : Fin 32 → W32) : (vwrite x n m f).halted = x.halted := rfl
@[simp] theorem vwrite_skid (x : Warp) (n : Nat) (m : BitVec 32) (f : Fin 32 → W32) : (vwrite x n m f).skid = x.skid := rfl
@[simp] theorem vwrite_haltAt (x : Warp) (n : Nat) (m : BitVec 32) (f : Fin 32 → W32) : (vwrite x n m f).haltAt = x.haltAt := rfl
@[simp] theorem vwrite_arrived (x : Warp) (n : Nat) (m : BitVec 32) (f : Fin 32 → W32) : (vwrite x n m f).arrived = x.arrived := rfl
@[simp] theorem vwrite_phaseReady (x : Warp) (n : Nat) (m : BitVec 32) (f : Fin 32 → W32) : (vwrite x n m f).phaseReady = x.phaseReady := rfl
@[simp] theorem vwrite_dbgStopped (x : Warp) (n : Nat) (m : BitVec 32) (f : Fin 32 → W32) : (vwrite x n m f).dbgStopped = x.dbgStopped := rfl
@[simp] theorem vwrite_xfer (x : Warp) (n : Nat) (m : BitVec 32) (f : Fin 32 → W32) : (vwrite x n m f).xfer = x.xfer := rfl
@[simp] theorem vwrite_polls (x : Warp) (n : Nat) (m : BitVec 32) (f : Fin 32 → W32) : (vwrite x n m f).polls = x.polls := rfl
@[simp] theorem vwrite_granted (x : Warp) (n : Nat) (m : BitVec 32) (f : Fin 32 → W32) : (vwrite x n m f).granted = x.granted := rfl
@[simp] theorem vwrite_bars (x : Warp) (n : Nat) (m : BitVec 32) (f : Fin 32 → W32) : (vwrite x n m f).bars = x.bars := rfl

/-! ### `vfree` -/

@[simp] theorem vfree_s (x : Warp) (n : Nat) : (vfree x n).s = x.s := rfl
@[simp] theorem vfree_p (x : Warp) (n : Nat) : (vfree x n).p = x.p := rfl
@[simp] theorem vfree_flags (x : Warp) (n : Nat) : (vfree x n).flags = x.flags := rfl
@[simp] theorem vfree_frontier (x : Warp) (n : Nat) : (vfree x n).frontier = x.frontier := rfl
@[simp] theorem vfree_body (x : Warp) (n : Nat) : (vfree x n).body = x.body := rfl
@[simp] theorem vfree_coil (x : Warp) (n : Nat) : (vfree x n).coil = x.coil := rfl
@[simp] theorem vfree_csp (x : Warp) (n : Nat) : (vfree x n).csp = x.csp := rfl
@[simp] theorem vfree_coilDep (x : Warp) (n : Nat) : (vfree x n).coilDep = x.coilDep := rfl
@[simp] theorem vfree_kernel (x : Warp) (n : Nat) : (vfree x n).kernel = x.kernel := rfl
@[simp] theorem vfree_part (x : Warp) (n : Nat) : (vfree x n).part = x.part := rfl
@[simp] theorem vfree_job (x : Warp) (n : Nat) : (vfree x n).job = x.job := rfl
@[simp] theorem vfree_tile (x : Warp) (n : Nat) : (vfree x n).tile = x.tile := rfl
@[simp] theorem vfree_rcl (x : Warp) (n : Nat) : (vfree x n).rcl = x.rcl := rfl
@[simp] theorem vfree_drn (x : Warp) (n : Nat) : (vfree x n).drn = x.drn := rfl
@[simp] theorem vfree_jobGen (x : Warp) (n : Nat) : (vfree x n).jobGen = x.jobGen := rfl
@[simp] theorem vfree_tcmp (x : Warp) (n : Nat) : (vfree x n).tcmp = x.tcmp := rfl
@[simp] theorem vfree_tvec (x : Warp) (n : Nat) : (vfree x n).tvec = x.tvec := rfl
@[simp] theorem vfree_tepc (x : Warp) (n : Nat) : (vfree x n).tepc = x.tepc := rfl
@[simp] theorem vfree_tcause (x : Warp) (n : Nat) : (vfree x n).tcause = x.tcause := rfl
@[simp] theorem vfree_rngCtr (x : Warp) (n : Nat) : (vfree x n).rngCtr = x.rngCtr := rfl
@[simp] theorem vfree_rngLo (x : Warp) (n : Nat) : (vfree x n).rngLo = x.rngLo := rfl
@[simp] theorem vfree_rngHi (x : Warp) (n : Nat) : (vfree x n).rngHi = x.rngHi := rfl
@[simp] theorem vfree_fpctl (x : Warp) (n : Nat) : (vfree x n).fpctl = x.fpctl := rfl
@[simp] theorem vfree_fpstat (x : Warp) (n : Nat) : (vfree x n).fpstat = x.fpstat := rfl
@[simp] theorem vfree_floor (x : Warp) (n : Nat) : (vfree x n).floor = x.floor := rfl
@[simp] theorem vfree_headroom (x : Warp) (n : Nat) : (vfree x n).headroom = x.headroom := rfl
@[simp] theorem vfree_regions (x : Warp) (n : Nat) : (vfree x n).regions = x.regions := rfl
@[simp] theorem vfree_rgnDepth (x : Warp) (n : Nat) : (vfree x n).rgnDepth = x.rgnDepth := rfl
@[simp] theorem vfree_latches (x : Warp) (n : Nat) : (vfree x n).latches = x.latches := rfl
@[simp] theorem vfree_stage (x : Warp) (n : Nat) : (vfree x n).stage = x.stage := rfl
@[simp] theorem vfree_goPending (x : Warp) (n : Nat) : (vfree x n).goPending = x.goPending := rfl
@[simp] theorem vfree_goFree (x : Warp) (n : Nat) : (vfree x n).goFree = x.goFree := rfl
@[simp] theorem vfree_block (x : Warp) (n : Nat) : (vfree x n).block = x.block := rfl
@[simp] theorem vfree_privBase (x : Warp) (n : Nat) : (vfree x n).privBase = x.privBase := rfl
@[simp] theorem vfree_cspTop (x : Warp) (n : Nat) : (vfree x n).cspTop = x.cspTop := rfl
@[simp] theorem vfree_placed (x : Warp) (n : Nat) : (vfree x n).placed = x.placed := rfl
@[simp] theorem vfree_wait (x : Warp) (n : Nat) : (vfree x n).wait = x.wait := rfl
@[simp] theorem vfree_waitFlag (x : Warp) (n : Nat) : (vfree x n).waitFlag = x.waitFlag := rfl
@[simp] theorem vfree_ready (x : Warp) (n : Nat) : (vfree x n).ready = x.ready := rfl
@[simp] theorem vfree_missing (x : Warp) (n : Nat) : (vfree x n).missing = x.missing := rfl
@[simp] theorem vfree_deferral (x : Warp) (n : Nat) : (vfree x n).deferral = x.deferral := rfl
@[simp] theorem vfree_nextIssue (x : Warp) (n : Nat) : (vfree x n).nextIssue = x.nextIssue := rfl
@[simp] theorem vfree_nextWhy (x : Warp) (n : Nat) : (vfree x n).nextWhy = x.nextWhy := rfl
@[simp] theorem vfree_stores (x : Warp) (n : Nat) : (vfree x n).stores = x.stores := rfl
@[simp] theorem vfree_loads (x : Warp) (n : Nat) : (vfree x n).loads = x.loads := rfl
@[simp] theorem vfree_hold (x : Warp) (n : Nat) : (vfree x n).hold = x.hold := rfl
@[simp] theorem vfree_holdUntil (x : Warp) (n : Nat) : (vfree x n).holdUntil = x.holdUntil := rfl
@[simp] theorem vfree_fenced (x : Warp) (n : Nat) : (vfree x n).fenced = x.fenced := rfl
@[simp] theorem vfree_stale (x : Warp) (n : Nat) : (vfree x n).stale = x.stale := rfl
@[simp] theorem vfree_coreRelease (x : Warp) (n : Nat) : (vfree x n).coreRelease = x.coreRelease := rfl
@[simp] theorem vfree_issued (x : Warp) (n : Nat) : (vfree x n).issued = x.issued := rfl
@[simp] theorem vfree_lastIssue (x : Warp) (n : Nat) : (vfree x n).lastIssue = x.lastIssue := rfl
@[simp] theorem vfree_deferred (x : Warp) (n : Nat) : (vfree x n).deferred = x.deferred := rfl
@[simp] theorem vfree_halted (x : Warp) (n : Nat) : (vfree x n).halted = x.halted := rfl
@[simp] theorem vfree_skid (x : Warp) (n : Nat) : (vfree x n).skid = x.skid := rfl
@[simp] theorem vfree_haltAt (x : Warp) (n : Nat) : (vfree x n).haltAt = x.haltAt := rfl
@[simp] theorem vfree_arrived (x : Warp) (n : Nat) : (vfree x n).arrived = x.arrived := rfl
@[simp] theorem vfree_phaseReady (x : Warp) (n : Nat) : (vfree x n).phaseReady = x.phaseReady := rfl
@[simp] theorem vfree_dbgStopped (x : Warp) (n : Nat) : (vfree x n).dbgStopped = x.dbgStopped := rfl
@[simp] theorem vfree_xfer (x : Warp) (n : Nat) : (vfree x n).xfer = x.xfer := rfl
@[simp] theorem vfree_polls (x : Warp) (n : Nat) : (vfree x n).polls = x.polls := rfl
@[simp] theorem vfree_granted (x : Warp) (n : Nat) : (vfree x n).granted = x.granted := rfl
@[simp] theorem vfree_bars (x : Warp) (n : Nat) : (vfree x n).bars = x.bars := rfl

/-! ### `swrite` -/

@[simp] theorem swrite_v (x : Warp) (n : SReg) (v : W64) : (swrite x n v).v = x.v := by unfold swrite; split <;> rfl
@[simp] theorem swrite_p (x : Warp) (n : SReg) (v : W64) : (swrite x n v).p = x.p := by unfold swrite; split <;> rfl
@[simp] theorem swrite_flags (x : Warp) (n : SReg) (v : W64) : (swrite x n v).flags = x.flags := by unfold swrite; split <;> rfl
@[simp] theorem swrite_frontier (x : Warp) (n : SReg) (v : W64) : (swrite x n v).frontier = x.frontier := by unfold swrite; split <;> rfl
@[simp] theorem swrite_body (x : Warp) (n : SReg) (v : W64) : (swrite x n v).body = x.body := by unfold swrite; split <;> rfl
@[simp] theorem swrite_coil (x : Warp) (n : SReg) (v : W64) : (swrite x n v).coil = x.coil := by unfold swrite; split <;> rfl
@[simp] theorem swrite_csp (x : Warp) (n : SReg) (v : W64) : (swrite x n v).csp = x.csp := by unfold swrite; split <;> rfl
@[simp] theorem swrite_coilDep (x : Warp) (n : SReg) (v : W64) : (swrite x n v).coilDep = x.coilDep := by unfold swrite; split <;> rfl
@[simp] theorem swrite_kernel (x : Warp) (n : SReg) (v : W64) : (swrite x n v).kernel = x.kernel := by unfold swrite; split <;> rfl
@[simp] theorem swrite_part (x : Warp) (n : SReg) (v : W64) : (swrite x n v).part = x.part := by unfold swrite; split <;> rfl
@[simp] theorem swrite_job (x : Warp) (n : SReg) (v : W64) : (swrite x n v).job = x.job := by unfold swrite; split <;> rfl
@[simp] theorem swrite_tile (x : Warp) (n : SReg) (v : W64) : (swrite x n v).tile = x.tile := by unfold swrite; split <;> rfl
@[simp] theorem swrite_rcl (x : Warp) (n : SReg) (v : W64) : (swrite x n v).rcl = x.rcl := by unfold swrite; split <;> rfl
@[simp] theorem swrite_drn (x : Warp) (n : SReg) (v : W64) : (swrite x n v).drn = x.drn := by unfold swrite; split <;> rfl
@[simp] theorem swrite_jobGen (x : Warp) (n : SReg) (v : W64) : (swrite x n v).jobGen = x.jobGen := by unfold swrite; split <;> rfl
@[simp] theorem swrite_tcmp (x : Warp) (n : SReg) (v : W64) : (swrite x n v).tcmp = x.tcmp := by unfold swrite; split <;> rfl
@[simp] theorem swrite_tvec (x : Warp) (n : SReg) (v : W64) : (swrite x n v).tvec = x.tvec := by unfold swrite; split <;> rfl
@[simp] theorem swrite_tepc (x : Warp) (n : SReg) (v : W64) : (swrite x n v).tepc = x.tepc := by unfold swrite; split <;> rfl
@[simp] theorem swrite_tcause (x : Warp) (n : SReg) (v : W64) : (swrite x n v).tcause = x.tcause := by unfold swrite; split <;> rfl
@[simp] theorem swrite_rngCtr (x : Warp) (n : SReg) (v : W64) : (swrite x n v).rngCtr = x.rngCtr := by unfold swrite; split <;> rfl
@[simp] theorem swrite_rngLo (x : Warp) (n : SReg) (v : W64) : (swrite x n v).rngLo = x.rngLo := by unfold swrite; split <;> rfl
@[simp] theorem swrite_rngHi (x : Warp) (n : SReg) (v : W64) : (swrite x n v).rngHi = x.rngHi := by unfold swrite; split <;> rfl
@[simp] theorem swrite_fpctl (x : Warp) (n : SReg) (v : W64) : (swrite x n v).fpctl = x.fpctl := by unfold swrite; split <;> rfl
@[simp] theorem swrite_fpstat (x : Warp) (n : SReg) (v : W64) : (swrite x n v).fpstat = x.fpstat := by unfold swrite; split <;> rfl
@[simp] theorem swrite_floor (x : Warp) (n : SReg) (v : W64) : (swrite x n v).floor = x.floor := by unfold swrite; split <;> rfl
@[simp] theorem swrite_headroom (x : Warp) (n : SReg) (v : W64) : (swrite x n v).headroom = x.headroom := by unfold swrite; split <;> rfl
@[simp] theorem swrite_regions (x : Warp) (n : SReg) (v : W64) : (swrite x n v).regions = x.regions := by unfold swrite; split <;> rfl
@[simp] theorem swrite_rgnDepth (x : Warp) (n : SReg) (v : W64) : (swrite x n v).rgnDepth = x.rgnDepth := by unfold swrite; split <;> rfl
@[simp] theorem swrite_latches (x : Warp) (n : SReg) (v : W64) : (swrite x n v).latches = x.latches := by unfold swrite; split <;> rfl
@[simp] theorem swrite_stage (x : Warp) (n : SReg) (v : W64) : (swrite x n v).stage = x.stage := by unfold swrite; split <;> rfl
@[simp] theorem swrite_goPending (x : Warp) (n : SReg) (v : W64) : (swrite x n v).goPending = x.goPending := by unfold swrite; split <;> rfl
@[simp] theorem swrite_goFree (x : Warp) (n : SReg) (v : W64) : (swrite x n v).goFree = x.goFree := by unfold swrite; split <;> rfl
@[simp] theorem swrite_block (x : Warp) (n : SReg) (v : W64) : (swrite x n v).block = x.block := by unfold swrite; split <;> rfl
@[simp] theorem swrite_privBase (x : Warp) (n : SReg) (v : W64) : (swrite x n v).privBase = x.privBase := by unfold swrite; split <;> rfl
@[simp] theorem swrite_cspTop (x : Warp) (n : SReg) (v : W64) : (swrite x n v).cspTop = x.cspTop := by unfold swrite; split <;> rfl
@[simp] theorem swrite_placed (x : Warp) (n : SReg) (v : W64) : (swrite x n v).placed = x.placed := by unfold swrite; split <;> rfl
@[simp] theorem swrite_wait (x : Warp) (n : SReg) (v : W64) : (swrite x n v).wait = x.wait := by unfold swrite; split <;> rfl
@[simp] theorem swrite_waitFlag (x : Warp) (n : SReg) (v : W64) : (swrite x n v).waitFlag = x.waitFlag := by unfold swrite; split <;> rfl
@[simp] theorem swrite_ready (x : Warp) (n : SReg) (v : W64) : (swrite x n v).ready = x.ready := by unfold swrite; split <;> rfl
@[simp] theorem swrite_missing (x : Warp) (n : SReg) (v : W64) : (swrite x n v).missing = x.missing := by unfold swrite; split <;> rfl
@[simp] theorem swrite_deferral (x : Warp) (n : SReg) (v : W64) : (swrite x n v).deferral = x.deferral := by unfold swrite; split <;> rfl
@[simp] theorem swrite_nextIssue (x : Warp) (n : SReg) (v : W64) : (swrite x n v).nextIssue = x.nextIssue := by unfold swrite; split <;> rfl
@[simp] theorem swrite_nextWhy (x : Warp) (n : SReg) (v : W64) : (swrite x n v).nextWhy = x.nextWhy := by unfold swrite; split <;> rfl
@[simp] theorem swrite_stores (x : Warp) (n : SReg) (v : W64) : (swrite x n v).stores = x.stores := by unfold swrite; split <;> rfl
@[simp] theorem swrite_loads (x : Warp) (n : SReg) (v : W64) : (swrite x n v).loads = x.loads := by unfold swrite; split <;> rfl
@[simp] theorem swrite_hold (x : Warp) (n : SReg) (v : W64) : (swrite x n v).hold = x.hold := by unfold swrite; split <;> rfl
@[simp] theorem swrite_holdUntil (x : Warp) (n : SReg) (v : W64) : (swrite x n v).holdUntil = x.holdUntil := by unfold swrite; split <;> rfl
@[simp] theorem swrite_fenced (x : Warp) (n : SReg) (v : W64) : (swrite x n v).fenced = x.fenced := by unfold swrite; split <;> rfl
@[simp] theorem swrite_stale (x : Warp) (n : SReg) (v : W64) : (swrite x n v).stale = x.stale := by unfold swrite; split <;> rfl
@[simp] theorem swrite_coreRelease (x : Warp) (n : SReg) (v : W64) : (swrite x n v).coreRelease = x.coreRelease := by unfold swrite; split <;> rfl
@[simp] theorem swrite_issued (x : Warp) (n : SReg) (v : W64) : (swrite x n v).issued = x.issued := by unfold swrite; split <;> rfl
@[simp] theorem swrite_lastIssue (x : Warp) (n : SReg) (v : W64) : (swrite x n v).lastIssue = x.lastIssue := by unfold swrite; split <;> rfl
@[simp] theorem swrite_deferred (x : Warp) (n : SReg) (v : W64) : (swrite x n v).deferred = x.deferred := by unfold swrite; split <;> rfl
@[simp] theorem swrite_halted (x : Warp) (n : SReg) (v : W64) : (swrite x n v).halted = x.halted := by unfold swrite; split <;> rfl
@[simp] theorem swrite_skid (x : Warp) (n : SReg) (v : W64) : (swrite x n v).skid = x.skid := by unfold swrite; split <;> rfl
@[simp] theorem swrite_haltAt (x : Warp) (n : SReg) (v : W64) : (swrite x n v).haltAt = x.haltAt := by unfold swrite; split <;> rfl
@[simp] theorem swrite_arrived (x : Warp) (n : SReg) (v : W64) : (swrite x n v).arrived = x.arrived := by unfold swrite; split <;> rfl
@[simp] theorem swrite_phaseReady (x : Warp) (n : SReg) (v : W64) : (swrite x n v).phaseReady = x.phaseReady := by unfold swrite; split <;> rfl
@[simp] theorem swrite_dbgStopped (x : Warp) (n : SReg) (v : W64) : (swrite x n v).dbgStopped = x.dbgStopped := by unfold swrite; split <;> rfl
@[simp] theorem swrite_xfer (x : Warp) (n : SReg) (v : W64) : (swrite x n v).xfer = x.xfer := by unfold swrite; split <;> rfl
@[simp] theorem swrite_polls (x : Warp) (n : SReg) (v : W64) : (swrite x n v).polls = x.polls := by unfold swrite; split <;> rfl
@[simp] theorem swrite_granted (x : Warp) (n : SReg) (v : W64) : (swrite x n v).granted = x.granted := by unfold swrite; split <;> rfl
@[simp] theorem swrite_bars (x : Warp) (n : SReg) (v : W64) : (swrite x n v).bars = x.bars := by unfold swrite; split <;> rfl

/-! ### `pwrite` -/

@[simp] theorem pwrite_v (x : Warp) (n : PReg) (m : BitVec 32) (f : Fin 32 → Bool) : (pwrite x n m f).v = x.v := rfl
@[simp] theorem pwrite_s (x : Warp) (n : PReg) (m : BitVec 32) (f : Fin 32 → Bool) : (pwrite x n m f).s = x.s := rfl
@[simp] theorem pwrite_flags (x : Warp) (n : PReg) (m : BitVec 32) (f : Fin 32 → Bool) : (pwrite x n m f).flags = x.flags := rfl
@[simp] theorem pwrite_frontier (x : Warp) (n : PReg) (m : BitVec 32) (f : Fin 32 → Bool) : (pwrite x n m f).frontier = x.frontier := rfl
@[simp] theorem pwrite_body (x : Warp) (n : PReg) (m : BitVec 32) (f : Fin 32 → Bool) : (pwrite x n m f).body = x.body := rfl
@[simp] theorem pwrite_coil (x : Warp) (n : PReg) (m : BitVec 32) (f : Fin 32 → Bool) : (pwrite x n m f).coil = x.coil := rfl
@[simp] theorem pwrite_csp (x : Warp) (n : PReg) (m : BitVec 32) (f : Fin 32 → Bool) : (pwrite x n m f).csp = x.csp := rfl
@[simp] theorem pwrite_coilDep (x : Warp) (n : PReg) (m : BitVec 32) (f : Fin 32 → Bool) : (pwrite x n m f).coilDep = x.coilDep := rfl
@[simp] theorem pwrite_kernel (x : Warp) (n : PReg) (m : BitVec 32) (f : Fin 32 → Bool) : (pwrite x n m f).kernel = x.kernel := rfl
@[simp] theorem pwrite_part (x : Warp) (n : PReg) (m : BitVec 32) (f : Fin 32 → Bool) : (pwrite x n m f).part = x.part := rfl
@[simp] theorem pwrite_job (x : Warp) (n : PReg) (m : BitVec 32) (f : Fin 32 → Bool) : (pwrite x n m f).job = x.job := rfl
@[simp] theorem pwrite_tile (x : Warp) (n : PReg) (m : BitVec 32) (f : Fin 32 → Bool) : (pwrite x n m f).tile = x.tile := rfl
@[simp] theorem pwrite_rcl (x : Warp) (n : PReg) (m : BitVec 32) (f : Fin 32 → Bool) : (pwrite x n m f).rcl = x.rcl := rfl
@[simp] theorem pwrite_drn (x : Warp) (n : PReg) (m : BitVec 32) (f : Fin 32 → Bool) : (pwrite x n m f).drn = x.drn := rfl
@[simp] theorem pwrite_jobGen (x : Warp) (n : PReg) (m : BitVec 32) (f : Fin 32 → Bool) : (pwrite x n m f).jobGen = x.jobGen := rfl
@[simp] theorem pwrite_tcmp (x : Warp) (n : PReg) (m : BitVec 32) (f : Fin 32 → Bool) : (pwrite x n m f).tcmp = x.tcmp := rfl
@[simp] theorem pwrite_tvec (x : Warp) (n : PReg) (m : BitVec 32) (f : Fin 32 → Bool) : (pwrite x n m f).tvec = x.tvec := rfl
@[simp] theorem pwrite_tepc (x : Warp) (n : PReg) (m : BitVec 32) (f : Fin 32 → Bool) : (pwrite x n m f).tepc = x.tepc := rfl
@[simp] theorem pwrite_tcause (x : Warp) (n : PReg) (m : BitVec 32) (f : Fin 32 → Bool) : (pwrite x n m f).tcause = x.tcause := rfl
@[simp] theorem pwrite_rngCtr (x : Warp) (n : PReg) (m : BitVec 32) (f : Fin 32 → Bool) : (pwrite x n m f).rngCtr = x.rngCtr := rfl
@[simp] theorem pwrite_rngLo (x : Warp) (n : PReg) (m : BitVec 32) (f : Fin 32 → Bool) : (pwrite x n m f).rngLo = x.rngLo := rfl
@[simp] theorem pwrite_rngHi (x : Warp) (n : PReg) (m : BitVec 32) (f : Fin 32 → Bool) : (pwrite x n m f).rngHi = x.rngHi := rfl
@[simp] theorem pwrite_fpctl (x : Warp) (n : PReg) (m : BitVec 32) (f : Fin 32 → Bool) : (pwrite x n m f).fpctl = x.fpctl := rfl
@[simp] theorem pwrite_fpstat (x : Warp) (n : PReg) (m : BitVec 32) (f : Fin 32 → Bool) : (pwrite x n m f).fpstat = x.fpstat := rfl
@[simp] theorem pwrite_floor (x : Warp) (n : PReg) (m : BitVec 32) (f : Fin 32 → Bool) : (pwrite x n m f).floor = x.floor := rfl
@[simp] theorem pwrite_headroom (x : Warp) (n : PReg) (m : BitVec 32) (f : Fin 32 → Bool) : (pwrite x n m f).headroom = x.headroom := rfl
@[simp] theorem pwrite_regions (x : Warp) (n : PReg) (m : BitVec 32) (f : Fin 32 → Bool) : (pwrite x n m f).regions = x.regions := rfl
@[simp] theorem pwrite_rgnDepth (x : Warp) (n : PReg) (m : BitVec 32) (f : Fin 32 → Bool) : (pwrite x n m f).rgnDepth = x.rgnDepth := rfl
@[simp] theorem pwrite_latches (x : Warp) (n : PReg) (m : BitVec 32) (f : Fin 32 → Bool) : (pwrite x n m f).latches = x.latches := rfl
@[simp] theorem pwrite_stage (x : Warp) (n : PReg) (m : BitVec 32) (f : Fin 32 → Bool) : (pwrite x n m f).stage = x.stage := rfl
@[simp] theorem pwrite_goPending (x : Warp) (n : PReg) (m : BitVec 32) (f : Fin 32 → Bool) : (pwrite x n m f).goPending = x.goPending := rfl
@[simp] theorem pwrite_goFree (x : Warp) (n : PReg) (m : BitVec 32) (f : Fin 32 → Bool) : (pwrite x n m f).goFree = x.goFree := rfl
@[simp] theorem pwrite_block (x : Warp) (n : PReg) (m : BitVec 32) (f : Fin 32 → Bool) : (pwrite x n m f).block = x.block := rfl
@[simp] theorem pwrite_privBase (x : Warp) (n : PReg) (m : BitVec 32) (f : Fin 32 → Bool) : (pwrite x n m f).privBase = x.privBase := rfl
@[simp] theorem pwrite_cspTop (x : Warp) (n : PReg) (m : BitVec 32) (f : Fin 32 → Bool) : (pwrite x n m f).cspTop = x.cspTop := rfl
@[simp] theorem pwrite_placed (x : Warp) (n : PReg) (m : BitVec 32) (f : Fin 32 → Bool) : (pwrite x n m f).placed = x.placed := rfl
@[simp] theorem pwrite_wait (x : Warp) (n : PReg) (m : BitVec 32) (f : Fin 32 → Bool) : (pwrite x n m f).wait = x.wait := rfl
@[simp] theorem pwrite_waitFlag (x : Warp) (n : PReg) (m : BitVec 32) (f : Fin 32 → Bool) : (pwrite x n m f).waitFlag = x.waitFlag := rfl
@[simp] theorem pwrite_ready (x : Warp) (n : PReg) (m : BitVec 32) (f : Fin 32 → Bool) : (pwrite x n m f).ready = x.ready := rfl
@[simp] theorem pwrite_missing (x : Warp) (n : PReg) (m : BitVec 32) (f : Fin 32 → Bool) : (pwrite x n m f).missing = x.missing := rfl
@[simp] theorem pwrite_deferral (x : Warp) (n : PReg) (m : BitVec 32) (f : Fin 32 → Bool) : (pwrite x n m f).deferral = x.deferral := rfl
@[simp] theorem pwrite_nextIssue (x : Warp) (n : PReg) (m : BitVec 32) (f : Fin 32 → Bool) : (pwrite x n m f).nextIssue = x.nextIssue := rfl
@[simp] theorem pwrite_nextWhy (x : Warp) (n : PReg) (m : BitVec 32) (f : Fin 32 → Bool) : (pwrite x n m f).nextWhy = x.nextWhy := rfl
@[simp] theorem pwrite_stores (x : Warp) (n : PReg) (m : BitVec 32) (f : Fin 32 → Bool) : (pwrite x n m f).stores = x.stores := rfl
@[simp] theorem pwrite_loads (x : Warp) (n : PReg) (m : BitVec 32) (f : Fin 32 → Bool) : (pwrite x n m f).loads = x.loads := rfl
@[simp] theorem pwrite_hold (x : Warp) (n : PReg) (m : BitVec 32) (f : Fin 32 → Bool) : (pwrite x n m f).hold = x.hold := rfl
@[simp] theorem pwrite_holdUntil (x : Warp) (n : PReg) (m : BitVec 32) (f : Fin 32 → Bool) : (pwrite x n m f).holdUntil = x.holdUntil := rfl
@[simp] theorem pwrite_fenced (x : Warp) (n : PReg) (m : BitVec 32) (f : Fin 32 → Bool) : (pwrite x n m f).fenced = x.fenced := rfl
@[simp] theorem pwrite_stale (x : Warp) (n : PReg) (m : BitVec 32) (f : Fin 32 → Bool) : (pwrite x n m f).stale = x.stale := rfl
@[simp] theorem pwrite_coreRelease (x : Warp) (n : PReg) (m : BitVec 32) (f : Fin 32 → Bool) : (pwrite x n m f).coreRelease = x.coreRelease := rfl
@[simp] theorem pwrite_issued (x : Warp) (n : PReg) (m : BitVec 32) (f : Fin 32 → Bool) : (pwrite x n m f).issued = x.issued := rfl
@[simp] theorem pwrite_lastIssue (x : Warp) (n : PReg) (m : BitVec 32) (f : Fin 32 → Bool) : (pwrite x n m f).lastIssue = x.lastIssue := rfl
@[simp] theorem pwrite_deferred (x : Warp) (n : PReg) (m : BitVec 32) (f : Fin 32 → Bool) : (pwrite x n m f).deferred = x.deferred := rfl
@[simp] theorem pwrite_halted (x : Warp) (n : PReg) (m : BitVec 32) (f : Fin 32 → Bool) : (pwrite x n m f).halted = x.halted := rfl
@[simp] theorem pwrite_skid (x : Warp) (n : PReg) (m : BitVec 32) (f : Fin 32 → Bool) : (pwrite x n m f).skid = x.skid := rfl
@[simp] theorem pwrite_haltAt (x : Warp) (n : PReg) (m : BitVec 32) (f : Fin 32 → Bool) : (pwrite x n m f).haltAt = x.haltAt := rfl
@[simp] theorem pwrite_arrived (x : Warp) (n : PReg) (m : BitVec 32) (f : Fin 32 → Bool) : (pwrite x n m f).arrived = x.arrived := rfl
@[simp] theorem pwrite_phaseReady (x : Warp) (n : PReg) (m : BitVec 32) (f : Fin 32 → Bool) : (pwrite x n m f).phaseReady = x.phaseReady := rfl
@[simp] theorem pwrite_dbgStopped (x : Warp) (n : PReg) (m : BitVec 32) (f : Fin 32 → Bool) : (pwrite x n m f).dbgStopped = x.dbgStopped := rfl
@[simp] theorem pwrite_xfer (x : Warp) (n : PReg) (m : BitVec 32) (f : Fin 32 → Bool) : (pwrite x n m f).xfer = x.xfer := rfl
@[simp] theorem pwrite_polls (x : Warp) (n : PReg) (m : BitVec 32) (f : Fin 32 → Bool) : (pwrite x n m f).polls = x.polls := rfl
@[simp] theorem pwrite_granted (x : Warp) (n : PReg) (m : BitVec 32) (f : Fin 32 → Bool) : (pwrite x n m f).granted = x.granted := rfl
@[simp] theorem pwrite_bars (x : Warp) (n : PReg) (m : BitVec 32) (f : Fin 32 → Bool) : (pwrite x n m f).bars = x.bars := rfl

/-! ### `setReady` -/

@[simp] theorem setReady_v (x : Warp) (l : List Nat) (t : Option Nat) : (setReady x l t).v = x.v := rfl
@[simp] theorem setReady_s (x : Warp) (l : List Nat) (t : Option Nat) : (setReady x l t).s = x.s := rfl
@[simp] theorem setReady_p (x : Warp) (l : List Nat) (t : Option Nat) : (setReady x l t).p = x.p := rfl
@[simp] theorem setReady_flags (x : Warp) (l : List Nat) (t : Option Nat) : (setReady x l t).flags = x.flags := rfl
@[simp] theorem setReady_frontier (x : Warp) (l : List Nat) (t : Option Nat) : (setReady x l t).frontier = x.frontier := rfl
@[simp] theorem setReady_body (x : Warp) (l : List Nat) (t : Option Nat) : (setReady x l t).body = x.body := rfl
@[simp] theorem setReady_coil (x : Warp) (l : List Nat) (t : Option Nat) : (setReady x l t).coil = x.coil := rfl
@[simp] theorem setReady_csp (x : Warp) (l : List Nat) (t : Option Nat) : (setReady x l t).csp = x.csp := rfl
@[simp] theorem setReady_coilDep (x : Warp) (l : List Nat) (t : Option Nat) : (setReady x l t).coilDep = x.coilDep := rfl
@[simp] theorem setReady_kernel (x : Warp) (l : List Nat) (t : Option Nat) : (setReady x l t).kernel = x.kernel := rfl
@[simp] theorem setReady_part (x : Warp) (l : List Nat) (t : Option Nat) : (setReady x l t).part = x.part := rfl
@[simp] theorem setReady_job (x : Warp) (l : List Nat) (t : Option Nat) : (setReady x l t).job = x.job := rfl
@[simp] theorem setReady_tile (x : Warp) (l : List Nat) (t : Option Nat) : (setReady x l t).tile = x.tile := rfl
@[simp] theorem setReady_rcl (x : Warp) (l : List Nat) (t : Option Nat) : (setReady x l t).rcl = x.rcl := rfl
@[simp] theorem setReady_drn (x : Warp) (l : List Nat) (t : Option Nat) : (setReady x l t).drn = x.drn := rfl
@[simp] theorem setReady_jobGen (x : Warp) (l : List Nat) (t : Option Nat) : (setReady x l t).jobGen = x.jobGen := rfl
@[simp] theorem setReady_tcmp (x : Warp) (l : List Nat) (t : Option Nat) : (setReady x l t).tcmp = x.tcmp := rfl
@[simp] theorem setReady_tvec (x : Warp) (l : List Nat) (t : Option Nat) : (setReady x l t).tvec = x.tvec := rfl
@[simp] theorem setReady_tepc (x : Warp) (l : List Nat) (t : Option Nat) : (setReady x l t).tepc = x.tepc := rfl
@[simp] theorem setReady_tcause (x : Warp) (l : List Nat) (t : Option Nat) : (setReady x l t).tcause = x.tcause := rfl
@[simp] theorem setReady_rngCtr (x : Warp) (l : List Nat) (t : Option Nat) : (setReady x l t).rngCtr = x.rngCtr := rfl
@[simp] theorem setReady_rngLo (x : Warp) (l : List Nat) (t : Option Nat) : (setReady x l t).rngLo = x.rngLo := rfl
@[simp] theorem setReady_rngHi (x : Warp) (l : List Nat) (t : Option Nat) : (setReady x l t).rngHi = x.rngHi := rfl
@[simp] theorem setReady_fpctl (x : Warp) (l : List Nat) (t : Option Nat) : (setReady x l t).fpctl = x.fpctl := rfl
@[simp] theorem setReady_fpstat (x : Warp) (l : List Nat) (t : Option Nat) : (setReady x l t).fpstat = x.fpstat := rfl
@[simp] theorem setReady_floor (x : Warp) (l : List Nat) (t : Option Nat) : (setReady x l t).floor = x.floor := rfl
@[simp] theorem setReady_headroom (x : Warp) (l : List Nat) (t : Option Nat) : (setReady x l t).headroom = x.headroom := rfl
@[simp] theorem setReady_regions (x : Warp) (l : List Nat) (t : Option Nat) : (setReady x l t).regions = x.regions := rfl
@[simp] theorem setReady_rgnDepth (x : Warp) (l : List Nat) (t : Option Nat) : (setReady x l t).rgnDepth = x.rgnDepth := rfl
@[simp] theorem setReady_latches (x : Warp) (l : List Nat) (t : Option Nat) : (setReady x l t).latches = x.latches := rfl
@[simp] theorem setReady_stage (x : Warp) (l : List Nat) (t : Option Nat) : (setReady x l t).stage = x.stage := rfl
@[simp] theorem setReady_goPending (x : Warp) (l : List Nat) (t : Option Nat) : (setReady x l t).goPending = x.goPending := rfl
@[simp] theorem setReady_goFree (x : Warp) (l : List Nat) (t : Option Nat) : (setReady x l t).goFree = x.goFree := rfl
@[simp] theorem setReady_block (x : Warp) (l : List Nat) (t : Option Nat) : (setReady x l t).block = x.block := rfl
@[simp] theorem setReady_privBase (x : Warp) (l : List Nat) (t : Option Nat) : (setReady x l t).privBase = x.privBase := rfl
@[simp] theorem setReady_cspTop (x : Warp) (l : List Nat) (t : Option Nat) : (setReady x l t).cspTop = x.cspTop := rfl
@[simp] theorem setReady_placed (x : Warp) (l : List Nat) (t : Option Nat) : (setReady x l t).placed = x.placed := rfl
@[simp] theorem setReady_wait (x : Warp) (l : List Nat) (t : Option Nat) : (setReady x l t).wait = x.wait := rfl
@[simp] theorem setReady_waitFlag (x : Warp) (l : List Nat) (t : Option Nat) : (setReady x l t).waitFlag = x.waitFlag := rfl
@[simp] theorem setReady_missing (x : Warp) (l : List Nat) (t : Option Nat) : (setReady x l t).missing = x.missing := rfl
@[simp] theorem setReady_deferral (x : Warp) (l : List Nat) (t : Option Nat) : (setReady x l t).deferral = x.deferral := rfl
@[simp] theorem setReady_nextIssue (x : Warp) (l : List Nat) (t : Option Nat) : (setReady x l t).nextIssue = x.nextIssue := rfl
@[simp] theorem setReady_nextWhy (x : Warp) (l : List Nat) (t : Option Nat) : (setReady x l t).nextWhy = x.nextWhy := rfl
@[simp] theorem setReady_stores (x : Warp) (l : List Nat) (t : Option Nat) : (setReady x l t).stores = x.stores := rfl
@[simp] theorem setReady_loads (x : Warp) (l : List Nat) (t : Option Nat) : (setReady x l t).loads = x.loads := rfl
@[simp] theorem setReady_hold (x : Warp) (l : List Nat) (t : Option Nat) : (setReady x l t).hold = x.hold := rfl
@[simp] theorem setReady_holdUntil (x : Warp) (l : List Nat) (t : Option Nat) : (setReady x l t).holdUntil = x.holdUntil := rfl
@[simp] theorem setReady_fenced (x : Warp) (l : List Nat) (t : Option Nat) : (setReady x l t).fenced = x.fenced := rfl
@[simp] theorem setReady_stale (x : Warp) (l : List Nat) (t : Option Nat) : (setReady x l t).stale = x.stale := rfl
@[simp] theorem setReady_coreRelease (x : Warp) (l : List Nat) (t : Option Nat) : (setReady x l t).coreRelease = x.coreRelease := rfl
@[simp] theorem setReady_issued (x : Warp) (l : List Nat) (t : Option Nat) : (setReady x l t).issued = x.issued := rfl
@[simp] theorem setReady_lastIssue (x : Warp) (l : List Nat) (t : Option Nat) : (setReady x l t).lastIssue = x.lastIssue := rfl
@[simp] theorem setReady_deferred (x : Warp) (l : List Nat) (t : Option Nat) : (setReady x l t).deferred = x.deferred := rfl
@[simp] theorem setReady_halted (x : Warp) (l : List Nat) (t : Option Nat) : (setReady x l t).halted = x.halted := rfl
@[simp] theorem setReady_skid (x : Warp) (l : List Nat) (t : Option Nat) : (setReady x l t).skid = x.skid := rfl
@[simp] theorem setReady_haltAt (x : Warp) (l : List Nat) (t : Option Nat) : (setReady x l t).haltAt = x.haltAt := rfl
@[simp] theorem setReady_arrived (x : Warp) (l : List Nat) (t : Option Nat) : (setReady x l t).arrived = x.arrived := rfl
@[simp] theorem setReady_phaseReady (x : Warp) (l : List Nat) (t : Option Nat) : (setReady x l t).phaseReady = x.phaseReady := rfl
@[simp] theorem setReady_dbgStopped (x : Warp) (l : List Nat) (t : Option Nat) : (setReady x l t).dbgStopped = x.dbgStopped := rfl
@[simp] theorem setReady_xfer (x : Warp) (l : List Nat) (t : Option Nat) : (setReady x l t).xfer = x.xfer := rfl
@[simp] theorem setReady_polls (x : Warp) (l : List Nat) (t : Option Nat) : (setReady x l t).polls = x.polls := rfl
@[simp] theorem setReady_granted (x : Warp) (l : List Nat) (t : Option Nat) : (setReady x l t).granted = x.granted := rfl
@[simp] theorem setReady_bars (x : Warp) (l : List Nat) (t : Option Nat) : (setReady x l t).bars = x.bars := rfl

/-! ### `addFp` -/

@[simp] theorem addFp_v (x : Warp) (f : Flags) : (addFp x f).v = x.v := rfl
@[simp] theorem addFp_s (x : Warp) (f : Flags) : (addFp x f).s = x.s := rfl
@[simp] theorem addFp_p (x : Warp) (f : Flags) : (addFp x f).p = x.p := rfl
@[simp] theorem addFp_flags (x : Warp) (f : Flags) : (addFp x f).flags = x.flags := rfl
@[simp] theorem addFp_frontier (x : Warp) (f : Flags) : (addFp x f).frontier = x.frontier := rfl
@[simp] theorem addFp_body (x : Warp) (f : Flags) : (addFp x f).body = x.body := rfl
@[simp] theorem addFp_coil (x : Warp) (f : Flags) : (addFp x f).coil = x.coil := rfl
@[simp] theorem addFp_csp (x : Warp) (f : Flags) : (addFp x f).csp = x.csp := rfl
@[simp] theorem addFp_coilDep (x : Warp) (f : Flags) : (addFp x f).coilDep = x.coilDep := rfl
@[simp] theorem addFp_kernel (x : Warp) (f : Flags) : (addFp x f).kernel = x.kernel := rfl
@[simp] theorem addFp_part (x : Warp) (f : Flags) : (addFp x f).part = x.part := rfl
@[simp] theorem addFp_job (x : Warp) (f : Flags) : (addFp x f).job = x.job := rfl
@[simp] theorem addFp_tile (x : Warp) (f : Flags) : (addFp x f).tile = x.tile := rfl
@[simp] theorem addFp_rcl (x : Warp) (f : Flags) : (addFp x f).rcl = x.rcl := rfl
@[simp] theorem addFp_drn (x : Warp) (f : Flags) : (addFp x f).drn = x.drn := rfl
@[simp] theorem addFp_jobGen (x : Warp) (f : Flags) : (addFp x f).jobGen = x.jobGen := rfl
@[simp] theorem addFp_tcmp (x : Warp) (f : Flags) : (addFp x f).tcmp = x.tcmp := rfl
@[simp] theorem addFp_tvec (x : Warp) (f : Flags) : (addFp x f).tvec = x.tvec := rfl
@[simp] theorem addFp_tepc (x : Warp) (f : Flags) : (addFp x f).tepc = x.tepc := rfl
@[simp] theorem addFp_tcause (x : Warp) (f : Flags) : (addFp x f).tcause = x.tcause := rfl
@[simp] theorem addFp_rngCtr (x : Warp) (f : Flags) : (addFp x f).rngCtr = x.rngCtr := rfl
@[simp] theorem addFp_rngLo (x : Warp) (f : Flags) : (addFp x f).rngLo = x.rngLo := rfl
@[simp] theorem addFp_rngHi (x : Warp) (f : Flags) : (addFp x f).rngHi = x.rngHi := rfl
@[simp] theorem addFp_fpctl (x : Warp) (f : Flags) : (addFp x f).fpctl = x.fpctl := rfl
@[simp] theorem addFp_floor (x : Warp) (f : Flags) : (addFp x f).floor = x.floor := rfl
@[simp] theorem addFp_headroom (x : Warp) (f : Flags) : (addFp x f).headroom = x.headroom := rfl
@[simp] theorem addFp_regions (x : Warp) (f : Flags) : (addFp x f).regions = x.regions := rfl
@[simp] theorem addFp_rgnDepth (x : Warp) (f : Flags) : (addFp x f).rgnDepth = x.rgnDepth := rfl
@[simp] theorem addFp_latches (x : Warp) (f : Flags) : (addFp x f).latches = x.latches := rfl
@[simp] theorem addFp_stage (x : Warp) (f : Flags) : (addFp x f).stage = x.stage := rfl
@[simp] theorem addFp_goPending (x : Warp) (f : Flags) : (addFp x f).goPending = x.goPending := rfl
@[simp] theorem addFp_goFree (x : Warp) (f : Flags) : (addFp x f).goFree = x.goFree := rfl
@[simp] theorem addFp_block (x : Warp) (f : Flags) : (addFp x f).block = x.block := rfl
@[simp] theorem addFp_privBase (x : Warp) (f : Flags) : (addFp x f).privBase = x.privBase := rfl
@[simp] theorem addFp_cspTop (x : Warp) (f : Flags) : (addFp x f).cspTop = x.cspTop := rfl
@[simp] theorem addFp_placed (x : Warp) (f : Flags) : (addFp x f).placed = x.placed := rfl
@[simp] theorem addFp_wait (x : Warp) (f : Flags) : (addFp x f).wait = x.wait := rfl
@[simp] theorem addFp_waitFlag (x : Warp) (f : Flags) : (addFp x f).waitFlag = x.waitFlag := rfl
@[simp] theorem addFp_ready (x : Warp) (f : Flags) : (addFp x f).ready = x.ready := rfl
@[simp] theorem addFp_missing (x : Warp) (f : Flags) : (addFp x f).missing = x.missing := rfl
@[simp] theorem addFp_deferral (x : Warp) (f : Flags) : (addFp x f).deferral = x.deferral := rfl
@[simp] theorem addFp_nextIssue (x : Warp) (f : Flags) : (addFp x f).nextIssue = x.nextIssue := rfl
@[simp] theorem addFp_nextWhy (x : Warp) (f : Flags) : (addFp x f).nextWhy = x.nextWhy := rfl
@[simp] theorem addFp_stores (x : Warp) (f : Flags) : (addFp x f).stores = x.stores := rfl
@[simp] theorem addFp_loads (x : Warp) (f : Flags) : (addFp x f).loads = x.loads := rfl
@[simp] theorem addFp_hold (x : Warp) (f : Flags) : (addFp x f).hold = x.hold := rfl
@[simp] theorem addFp_holdUntil (x : Warp) (f : Flags) : (addFp x f).holdUntil = x.holdUntil := rfl
@[simp] theorem addFp_fenced (x : Warp) (f : Flags) : (addFp x f).fenced = x.fenced := rfl
@[simp] theorem addFp_stale (x : Warp) (f : Flags) : (addFp x f).stale = x.stale := rfl
@[simp] theorem addFp_coreRelease (x : Warp) (f : Flags) : (addFp x f).coreRelease = x.coreRelease := rfl
@[simp] theorem addFp_issued (x : Warp) (f : Flags) : (addFp x f).issued = x.issued := rfl
@[simp] theorem addFp_lastIssue (x : Warp) (f : Flags) : (addFp x f).lastIssue = x.lastIssue := rfl
@[simp] theorem addFp_deferred (x : Warp) (f : Flags) : (addFp x f).deferred = x.deferred := rfl
@[simp] theorem addFp_halted (x : Warp) (f : Flags) : (addFp x f).halted = x.halted := rfl
@[simp] theorem addFp_skid (x : Warp) (f : Flags) : (addFp x f).skid = x.skid := rfl
@[simp] theorem addFp_haltAt (x : Warp) (f : Flags) : (addFp x f).haltAt = x.haltAt := rfl
@[simp] theorem addFp_arrived (x : Warp) (f : Flags) : (addFp x f).arrived = x.arrived := rfl
@[simp] theorem addFp_phaseReady (x : Warp) (f : Flags) : (addFp x f).phaseReady = x.phaseReady := rfl
@[simp] theorem addFp_dbgStopped (x : Warp) (f : Flags) : (addFp x f).dbgStopped = x.dbgStopped := rfl
@[simp] theorem addFp_xfer (x : Warp) (f : Flags) : (addFp x f).xfer = x.xfer := rfl
@[simp] theorem addFp_polls (x : Warp) (f : Flags) : (addFp x f).polls = x.polls := rfl
@[simp] theorem addFp_granted (x : Warp) (f : Flags) : (addFp x f).granted = x.granted := rfl
@[simp] theorem addFp_bars (x : Warp) (f : Flags) : (addFp x f).bars = x.bars := rfl

/-! ### `bumpRng` -/

@[simp] theorem bumpRng_v (x : Warp) (b : Bool) : (bumpRng x b).v = x.v := by unfold bumpRng; split <;> rfl
@[simp] theorem bumpRng_s (x : Warp) (b : Bool) : (bumpRng x b).s = x.s := by unfold bumpRng; split <;> rfl
@[simp] theorem bumpRng_p (x : Warp) (b : Bool) : (bumpRng x b).p = x.p := by unfold bumpRng; split <;> rfl
@[simp] theorem bumpRng_flags (x : Warp) (b : Bool) : (bumpRng x b).flags = x.flags := by unfold bumpRng; split <;> rfl
@[simp] theorem bumpRng_frontier (x : Warp) (b : Bool) : (bumpRng x b).frontier = x.frontier := by unfold bumpRng; split <;> rfl
@[simp] theorem bumpRng_body (x : Warp) (b : Bool) : (bumpRng x b).body = x.body := by unfold bumpRng; split <;> rfl
@[simp] theorem bumpRng_coil (x : Warp) (b : Bool) : (bumpRng x b).coil = x.coil := by unfold bumpRng; split <;> rfl
@[simp] theorem bumpRng_csp (x : Warp) (b : Bool) : (bumpRng x b).csp = x.csp := by unfold bumpRng; split <;> rfl
@[simp] theorem bumpRng_coilDep (x : Warp) (b : Bool) : (bumpRng x b).coilDep = x.coilDep := by unfold bumpRng; split <;> rfl
@[simp] theorem bumpRng_kernel (x : Warp) (b : Bool) : (bumpRng x b).kernel = x.kernel := by unfold bumpRng; split <;> rfl
@[simp] theorem bumpRng_part (x : Warp) (b : Bool) : (bumpRng x b).part = x.part := by unfold bumpRng; split <;> rfl
@[simp] theorem bumpRng_job (x : Warp) (b : Bool) : (bumpRng x b).job = x.job := by unfold bumpRng; split <;> rfl
@[simp] theorem bumpRng_tile (x : Warp) (b : Bool) : (bumpRng x b).tile = x.tile := by unfold bumpRng; split <;> rfl
@[simp] theorem bumpRng_rcl (x : Warp) (b : Bool) : (bumpRng x b).rcl = x.rcl := by unfold bumpRng; split <;> rfl
@[simp] theorem bumpRng_drn (x : Warp) (b : Bool) : (bumpRng x b).drn = x.drn := by unfold bumpRng; split <;> rfl
@[simp] theorem bumpRng_jobGen (x : Warp) (b : Bool) : (bumpRng x b).jobGen = x.jobGen := by unfold bumpRng; split <;> rfl
@[simp] theorem bumpRng_tcmp (x : Warp) (b : Bool) : (bumpRng x b).tcmp = x.tcmp := by unfold bumpRng; split <;> rfl
@[simp] theorem bumpRng_tvec (x : Warp) (b : Bool) : (bumpRng x b).tvec = x.tvec := by unfold bumpRng; split <;> rfl
@[simp] theorem bumpRng_tepc (x : Warp) (b : Bool) : (bumpRng x b).tepc = x.tepc := by unfold bumpRng; split <;> rfl
@[simp] theorem bumpRng_tcause (x : Warp) (b : Bool) : (bumpRng x b).tcause = x.tcause := by unfold bumpRng; split <;> rfl
@[simp] theorem bumpRng_rngLo (x : Warp) (b : Bool) : (bumpRng x b).rngLo = x.rngLo := by unfold bumpRng; split <;> rfl
@[simp] theorem bumpRng_rngHi (x : Warp) (b : Bool) : (bumpRng x b).rngHi = x.rngHi := by unfold bumpRng; split <;> rfl
@[simp] theorem bumpRng_fpctl (x : Warp) (b : Bool) : (bumpRng x b).fpctl = x.fpctl := by unfold bumpRng; split <;> rfl
@[simp] theorem bumpRng_fpstat (x : Warp) (b : Bool) : (bumpRng x b).fpstat = x.fpstat := by unfold bumpRng; split <;> rfl
@[simp] theorem bumpRng_floor (x : Warp) (b : Bool) : (bumpRng x b).floor = x.floor := by unfold bumpRng; split <;> rfl
@[simp] theorem bumpRng_headroom (x : Warp) (b : Bool) : (bumpRng x b).headroom = x.headroom := by unfold bumpRng; split <;> rfl
@[simp] theorem bumpRng_regions (x : Warp) (b : Bool) : (bumpRng x b).regions = x.regions := by unfold bumpRng; split <;> rfl
@[simp] theorem bumpRng_rgnDepth (x : Warp) (b : Bool) : (bumpRng x b).rgnDepth = x.rgnDepth := by unfold bumpRng; split <;> rfl
@[simp] theorem bumpRng_latches (x : Warp) (b : Bool) : (bumpRng x b).latches = x.latches := by unfold bumpRng; split <;> rfl
@[simp] theorem bumpRng_stage (x : Warp) (b : Bool) : (bumpRng x b).stage = x.stage := by unfold bumpRng; split <;> rfl
@[simp] theorem bumpRng_goPending (x : Warp) (b : Bool) : (bumpRng x b).goPending = x.goPending := by unfold bumpRng; split <;> rfl
@[simp] theorem bumpRng_goFree (x : Warp) (b : Bool) : (bumpRng x b).goFree = x.goFree := by unfold bumpRng; split <;> rfl
@[simp] theorem bumpRng_block (x : Warp) (b : Bool) : (bumpRng x b).block = x.block := by unfold bumpRng; split <;> rfl
@[simp] theorem bumpRng_privBase (x : Warp) (b : Bool) : (bumpRng x b).privBase = x.privBase := by unfold bumpRng; split <;> rfl
@[simp] theorem bumpRng_cspTop (x : Warp) (b : Bool) : (bumpRng x b).cspTop = x.cspTop := by unfold bumpRng; split <;> rfl
@[simp] theorem bumpRng_placed (x : Warp) (b : Bool) : (bumpRng x b).placed = x.placed := by unfold bumpRng; split <;> rfl
@[simp] theorem bumpRng_wait (x : Warp) (b : Bool) : (bumpRng x b).wait = x.wait := by unfold bumpRng; split <;> rfl
@[simp] theorem bumpRng_waitFlag (x : Warp) (b : Bool) : (bumpRng x b).waitFlag = x.waitFlag := by unfold bumpRng; split <;> rfl
@[simp] theorem bumpRng_ready (x : Warp) (b : Bool) : (bumpRng x b).ready = x.ready := by unfold bumpRng; split <;> rfl
@[simp] theorem bumpRng_missing (x : Warp) (b : Bool) : (bumpRng x b).missing = x.missing := by unfold bumpRng; split <;> rfl
@[simp] theorem bumpRng_deferral (x : Warp) (b : Bool) : (bumpRng x b).deferral = x.deferral := by unfold bumpRng; split <;> rfl
@[simp] theorem bumpRng_nextIssue (x : Warp) (b : Bool) : (bumpRng x b).nextIssue = x.nextIssue := by unfold bumpRng; split <;> rfl
@[simp] theorem bumpRng_nextWhy (x : Warp) (b : Bool) : (bumpRng x b).nextWhy = x.nextWhy := by unfold bumpRng; split <;> rfl
@[simp] theorem bumpRng_stores (x : Warp) (b : Bool) : (bumpRng x b).stores = x.stores := by unfold bumpRng; split <;> rfl
@[simp] theorem bumpRng_loads (x : Warp) (b : Bool) : (bumpRng x b).loads = x.loads := by unfold bumpRng; split <;> rfl
@[simp] theorem bumpRng_hold (x : Warp) (b : Bool) : (bumpRng x b).hold = x.hold := by unfold bumpRng; split <;> rfl
@[simp] theorem bumpRng_holdUntil (x : Warp) (b : Bool) : (bumpRng x b).holdUntil = x.holdUntil := by unfold bumpRng; split <;> rfl
@[simp] theorem bumpRng_fenced (x : Warp) (b : Bool) : (bumpRng x b).fenced = x.fenced := by unfold bumpRng; split <;> rfl
@[simp] theorem bumpRng_stale (x : Warp) (b : Bool) : (bumpRng x b).stale = x.stale := by unfold bumpRng; split <;> rfl
@[simp] theorem bumpRng_coreRelease (x : Warp) (b : Bool) : (bumpRng x b).coreRelease = x.coreRelease := by unfold bumpRng; split <;> rfl
@[simp] theorem bumpRng_issued (x : Warp) (b : Bool) : (bumpRng x b).issued = x.issued := by unfold bumpRng; split <;> rfl
@[simp] theorem bumpRng_lastIssue (x : Warp) (b : Bool) : (bumpRng x b).lastIssue = x.lastIssue := by unfold bumpRng; split <;> rfl
@[simp] theorem bumpRng_deferred (x : Warp) (b : Bool) : (bumpRng x b).deferred = x.deferred := by unfold bumpRng; split <;> rfl
@[simp] theorem bumpRng_halted (x : Warp) (b : Bool) : (bumpRng x b).halted = x.halted := by unfold bumpRng; split <;> rfl
@[simp] theorem bumpRng_skid (x : Warp) (b : Bool) : (bumpRng x b).skid = x.skid := by unfold bumpRng; split <;> rfl
@[simp] theorem bumpRng_haltAt (x : Warp) (b : Bool) : (bumpRng x b).haltAt = x.haltAt := by unfold bumpRng; split <;> rfl
@[simp] theorem bumpRng_arrived (x : Warp) (b : Bool) : (bumpRng x b).arrived = x.arrived := by unfold bumpRng; split <;> rfl
@[simp] theorem bumpRng_phaseReady (x : Warp) (b : Bool) : (bumpRng x b).phaseReady = x.phaseReady := by unfold bumpRng; split <;> rfl
@[simp] theorem bumpRng_dbgStopped (x : Warp) (b : Bool) : (bumpRng x b).dbgStopped = x.dbgStopped := by unfold bumpRng; split <;> rfl
@[simp] theorem bumpRng_xfer (x : Warp) (b : Bool) : (bumpRng x b).xfer = x.xfer := by unfold bumpRng; split <;> rfl
@[simp] theorem bumpRng_polls (x : Warp) (b : Bool) : (bumpRng x b).polls = x.polls := by unfold bumpRng; split <;> rfl
@[simp] theorem bumpRng_granted (x : Warp) (b : Bool) : (bumpRng x b).granted = x.granted := by unfold bumpRng; split <;> rfl
@[simp] theorem bumpRng_bars (x : Warp) (b : Bool) : (bumpRng x b).bars = x.bars := by unfold bumpRng; split <;> rfl

/-! ### Reads after updates -/

@[simp] theorem warp_modWarp_same (c : Chip) (w : Nat) (f : Warp → Warp) :
    sget (modWarp c w f).warps w = (sget c.warps w).map f := by
  unfold modWarp
  cases h : sget c.warps w <;> simp [h]

theorem warp_modWarp_ne (c : Chip) {w u : Nat} (f : Warp → Warp) (h : u ≠ w) :
    sget (modWarp c w f).warps u = sget c.warps u := by
  unfold modWarp
  cases sget c.warps w <;> simp [sget_sput_ne _ _ h]

@[simp] theorem core_modCore_same (c : Chip) (k : Nat) (f : Core → Core) : coreAt (modCore c k f) k = f (coreAt c k) := by
  simp [coreAt, modCore]

theorem core_modCore_ne (c : Chip) {k j : Nat} (f : Core → Core) (h : j ≠ k) : coreAt (modCore c k f) j = coreAt c j := by
  simp [coreAt, modCore, sget_sput_ne _ _ h]

@[simp] theorem dev_setDev_same (c : Chip) (n : Nat) (x : W64) : Machine.dev (setDev c n x) n = x := by
  simp [Machine.dev, setDev]

theorem dev_setDev_ne (c : Chip) {n k : Nat} (x : W64) (h : k ≠ n) : Machine.dev (setDev c n x) k = Machine.dev c k := by
  simp [Machine.dev, setDev, sget_sput_ne _ _ h]

/-- A vector register read after a write: the written threads of it, and all else as before. -/
theorem vread_vwrite (x : Warp) (n k : Nat) (m : BitVec 32) (f : Fin 32 → W32) (t : Fin 32) :
    vread (vwrite x n m f) k t = if k = n ∧ lane m t = true then f t else vread x k t := by
  unfold vread vwrite
  by_cases h : k = n
  · subst h; simp [vread]
  · simp [sget_sput_ne _ _ h, h]

/-- A vector register read after another is freed. -/
theorem vread_vfree_ne (x : Warp) {n k : Nat} (h : k ≠ n) (t : Fin 32) : vread (vfree x n) k t = vread x k t := by
  simp [vread, vfree, sget_sdel_ne _ h]

/-- A scalar register read after a write: s0 stays zero. -/
theorem sread_swrite (x : Warp) (n k : SReg) (v : W64) :
    sread (swrite x n v) k = if k = n ∧ n.val ≠ 0 then v else sread x k := by
  unfold sread swrite
  by_cases h : k = n
  · subst h; split <;> simp_all
  · by_cases g : n.val = 0
    · simp [g]
    · simp [h, g, Vector.getElem_set, Fin.val_ne_of_ne (Ne.symm h)]

theorem powBit (u t : Fin 32) : (BitVec.ofNat 32 (2 ^ u.val)).getLsbD t.val = decide (u = t) := by
  rw [BitVec.getLsbD_ofNat, Nat.testBit_two_pow]
  simp [Fin.ext_iff, t.isLt]

/-- A mask holds the threads of its test. -/
theorem lane_maskOf (f : Fin 32 → Bool) (t : Fin 32) : lane (maskOf f) t = f t := by
  have step : ∀ (l : List (Fin 32)) (a : BitVec 32), l.Nodup →
      (l.foldl (fun acc t => if f t then acc ||| BitVec.ofNat 32 (2 ^ t.val) else acc) a).getLsbD t.val
        = (a.getLsbD t.val || (decide (t ∈ l) && f t)) := by
    intro l
    induction l with
    | nil => simp
    | cons u r ih =>
      intro a hn
      obtain ⟨hu, hr⟩ := List.nodup_cons.1 hn
      rw [List.foldl_cons, ih _ hr]
      by_cases g : f u = true
      · rw [if_pos g, BitVec.getLsbD_or, powBit]
        by_cases h : u = t
        · subst h; simp [g]
        · simp [h, Ne.symm h]
      · rw [if_neg g]
        by_cases h : t = u
        · subst h; simp [g]
        · simp [h]
  have := step (List.finRange 32) 0 (List.nodup_finRange 32)
  simpa [lane, maskOf] using this

/-- A predicate read after a write. -/
theorem pread_pwrite (x : Warp) (n : PReg) (k : PSrc) (m : BitVec 32) (f : Fin 32 → Bool) (t : Fin 32) :
    pread (pwrite x n m f) k t = if k = .p n ∧ lane m t = true then f t else pread x k t := by
  cases k with
  | pt => simp [pread]
  | p k =>
    by_cases h : k = n
    · subst h
      have hm := lane_maskOf f t
      simp only [lane] at hm
      simp only [pread, pwrite, Vector.getElem_set_self, lane, BitVec.getLsbD_or, BitVec.getLsbD_and, BitVec.getLsbD_not, hm]
      cases g : m.getLsbD t.val <;> simp [g]
    · have : n.val ≠ k.val := fun e => h (Fin.ext e.symm)
      simp [pread, pwrite, Vector.getElem_set, this, h]

end Sys2Proof.Machine
end

