-- ==== Sys2Proof/Laws/Issue.lean ====
section
/-!
SUPPORT. Sys2Proof/Laws/Issue.lean: what the steps around every instruction change: the count of its issue, the going on of
its body, and the write of a vector operation's results.
-/

namespace Sys2Proof.Machine
open Sys2Proof

/-! ## Folds -/

theorem foldl_keeps {α β : Type} (P : β → Prop) (f : β → α → β) (hf : ∀ b a, P b → P (f b a)) (l : List α) (b : β)
    (h : P b) : P (l.foldl f b) := by
  induction l generalizing b with
  | nil => exact h
  | cons a r ih => exact ih _ (hf _ _ h)

theorem foldl_keeps' {α β : Type} (P : β → Prop) (f : β → α → β) (l : List α) (b : β) (hf : ∀ b a, a ∈ l → P b → P (f b a))
    (h : P b) : P (l.foldl f b) := by
  induction l generalizing b with
  | nil => exact h
  | cons a r ih =>
    exact ih _ (fun b c hc hb => hf b c (List.mem_cons_of_mem _ hc) hb) (hf _ _ (List.mem_cons_self ..) h)

/-! ## The counters of an issue -/

/-- Two chips that differ in device registers and the counters' overflow records alone. -/
def SameButDev (c d : Chip) : Prop := d = { c with dev := d.dev, pmcWas := d.pmcWas }

theorem pmEvent_same (c : Chip) (core ev k : Nat) : SameButDev c (pmEvent c core ev k) := by
  unfold pmEvent
  refine foldl_keeps (SameButDev c) _ ?_ _ _ rfl
  intro b a h
  dsimp only
  split
  · split <;> (rw [h]; rfl)
  · exact h

theorem pmEvent_warps (c : Chip) (core ev k : Nat) : (pmEvent c core ev k).warps = c.warps := by
  rw [pmEvent_same c core ev k]

/-- The device registers that a performance event may change are the counters of the core and their selects. -/
theorem pmEvent_dev (c : Chip) (core ev k n : Nat) (h : ∀ i < 16, n ≠ rPmc core i ∧ n ≠ rPmSel core i) :
    Machine.dev (pmEvent c core ev k) n = Machine.dev c n := by
  unfold pmEvent
  have : ∀ (l : List Nat) (b : Chip), (∀ i ∈ l, i < 16) → Machine.dev b n = Machine.dev c n →
      Machine.dev (l.foldl (fun c i =>
        let sel := (Machine.dev c (rPmSel core i)).toNat
        if bit sel 13 && fld sel 0 12 == ev then
          let x := (Machine.dev c (rPmc core i)).toNat + k
          let was := Machine.dev c (rPmc core i)
          let c := setDev c (rPmc core i) (BitVec.ofNat 64 (x % 2 ^ 48))
          if x < 2 ^ 48 then c
          else setDev { c with pmcWas := sput c.pmcWas (rPmc core i) (c.cycle, was) } (rPmSel core i)
            (Machine.dev c (rPmSel core i) ||| 0x4000)
        else c) b) n = Machine.dev c n := by
    intro l
    induction l with
    | nil => intro b _ h; exact h
    | cons a r ih =>
      intro b hl hb
      rw [List.foldl_cons]
      refine ih _ (fun i hi => hl i (List.mem_cons_of_mem _ hi)) ?_
      obtain ⟨h1, h2⟩ := h a (hl a (List.mem_cons_self ..))
      dsimp only
      split
      · split
        · rw [dev_setDev_ne _ _ h1]; exact hb
        · rw [dev_setDev_ne _ _ h2]
          show Machine.dev (setDev b (rPmc core a) _) n = _
          rw [dev_setDev_ne _ _ h1]; exact hb
      · exact hb
  exact this _ _ (fun i hi => List.mem_range.1 hi) rfl

/-- The issuing warp after its issue is counted, once (R26, R31). -/
def issuedWarp (c : Chip) (x : Warp) : Warp :=
  if c.cur.since.isSome then x
  else { x with
    issued := x.issued + 1, lastIssue := c.cycle,
    frontier := x.frontier.map fun e => if stands x e || e.kernel != x.kernel then e else { e with age := e.age + 1 } }

theorem issued_eq (c : Chip) (o : Nat) (act : BitVec 32) :
    issued c o act = { c with cores := (issued c o act).cores, warps := (issued c o act).warps,
                              dev := (issued c o act).dev, pmcWas := (issued c o act).pmcWas } := by
  unfold issued
  split
  · rfl
  · rw [pmEvent_same, pmEvent_same]
    unfold modWarp
    simp only [modSlice, modCore_warps, modCore_cycle]
    cases sget c.warps c.cur.w <;> rfl

theorem issued_same (c : Chip) (o : Nat) (act : BitVec 32) :
    sget (issued c o act).warps c.cur.w = (sget c.warps c.cur.w).map (issuedWarp c) := by
  unfold issued issuedWarp
  split
  · cases sget c.warps c.cur.w <;> rfl
  · rw [pmEvent_same, pmEvent_same]
    exact warp_modWarp_same ..

theorem issued_ne (c : Chip) (o : Nat) (act : BitVec 32) {u : Nat} (h : u ≠ c.cur.w) :
    sget (issued c o act).warps u = sget c.warps u := by
  unfold issued
  split
  · rfl
  · rw [pmEvent_same, pmEvent_same]
    exact warp_modWarp_ne _ _ h

/-- The issue of an instruction changes nothing of its warp but its frontier and counts. -/
theorem issuedWarp_flow (c : Chip) (x : Warp) :
    ∃ fr n l, issuedWarp c x = { x with frontier := fr, issued := n, lastIssue := l } := by
  unfold issuedWarp
  split
  · exact ⟨_, _, _, rfl⟩
  · exact ⟨_, _, _, rfl⟩

/-! ## Going on -/

/-- Two chips that differ in warp w's frontier and body alone. -/
def SameButFlow (w : Nat) (c d : Chip) : Prop :=
  d = { c with warps := d.warps } ∧ (∀ u, u ≠ w → sget d.warps u = sget c.warps u)
    ∧ ∃ (fr : Warp → List Entry) (b : Warp → Option Body),
        sget d.warps w = (sget c.warps w).map fun x => { x with frontier := fr x, body := b x }

theorem SameButFlow.refl (w : Nat) (c : Chip) : SameButFlow w c c :=
  ⟨rfl, fun _ _ => rfl, Warp.frontier, Warp.body, by cases sget c.warps w <;> rfl⟩

theorem SameButFlow.trans {w : Nat} {c d e : Chip} (h : SameButFlow w c d) (g : SameButFlow w d e) : SameButFlow w c e := by
  obtain ⟨h1, h2, fr, b, h3⟩ := h
  obtain ⟨g1, g2, fs, d', g3⟩ := g
  refine ⟨?_, fun u hu => (g2 u hu).trans (h2 u hu),
    fun x => fs { x with frontier := fr x, body := b x }, fun x => d' { x with frontier := fr x, body := b x }, ?_⟩
  · rw [g1, h1]
  · rw [g3, h3]; cases sget c.warps w <;> rfl

theorem SameButFlow.modWarp (w : Nat) (c : Chip) (fr : Warp → List Entry) (b : Warp → Option Body) :
    SameButFlow w c (modWarp c w fun x => { x with frontier := fr x, body := b x }) := by
  refine ⟨?_, fun u hu => warp_modWarp_ne c _ hu, fr, b, warp_modWarp_same c w _⟩
  unfold Machine.modWarp
  split <;> rfl

theorem arrive_flow (m : Memory) (c : Chip) (w : Nat) (e : Entry) : SameButFlow w c (arrive m c w e) := by
  unfold arrive
  split
  · exact .refl w c
  · exact .modWarp w c _ Warp.body

theorem transfer_flow (m : Memory) (c : Chip) (stay : BitVec 32) (dest : Fin 32 → W64) (prio : Fin 32 → Option (BitVec 12)) :
    SameButFlow c.cur.w c (transfer m c stay dest prio) := by
  unfold transfer
  refine foldl_keeps (SameButFlow c.cur.w c) _ (fun b d h => h.trans (arrive_flow _ _ _ _)) _ _ ?_
  exact .modWarp c.cur.w c Warp.frontier fun _ => none

theorem goOn_flow (m : Memory) (c : Chip) : SameButFlow c.cur.w c (goOn m c) := by
  unfold goOn
  split
  · exact .refl _ c
  · rename_i b _
    split
    · exact .modWarp c.cur.w c Warp.frontier fun _ => some { b with pc := c.cur.next }
    · exact transfer_flow ..

/-! ## The end of an instruction that goes on -/

theorem SameButIssue.vread {y z : Warp} (h : SameButIssue y z) (n : Nat) (t : Fin 32) : vread z n t = Machine.vread y n t := by
  rw [h]; rfl

theorem SameButIssue.sread {y z : Warp} (h : SameButIssue y z) (n : SReg) : sread z n = Machine.sread y n := by
  rw [h]; rfl

theorem SameButIssue.pread {y z : Warp} (h : SameButIssue y z) (p : PSrc) (t : Fin 32) : pread z p t = Machine.pread y p t := by
  rw [h]; cases p <;> rfl

/-- An instruction that goes on leaves its warp as it is but for its flow, and every other warp. -/
theorem advance_issued (m : Memory) (c : Chip) (o : Nat) (act : BitVec 32) {y : Warp} (h : sget c.warps c.cur.w = some y) :
    (∃ z, sget (advance m (issued c o act)).warps c.cur.w = some z ∧ SameButIssue y z)
      ∧ (∀ u, u ≠ c.cur.w → sget (advance m (issued c o act)).warps u = sget c.warps u)
      ∧ (advance m (issued c o act)).wlog = c.wlog := by
  have hc : (issued c o act).cur = c.cur := by rw [issued_eq]
  have hl : (issued c o act).wlog = c.wlog := by rw [issued_eq]
  obtain ⟨h1, h2, fr, b, h3⟩ := goOn_flow m (issued c o act)
  rw [hc] at h2 h3
  refine ⟨?_, ?_, ?_⟩
  · obtain ⟨ff, n, l, hy⟩ := issuedWarp_flow c y
    refine ⟨{ issuedWarp c y with frontier := fr (issuedWarp c y), body := b (issuedWarp c y) }, ?_, by rw [hy]; rfl⟩
    simp only [advance, endIssue_warps]
    rw [h3, issued_same, h]
    rfl
  · intro u hu
    simp only [advance, endIssue_warps]
    rw [h2 u hu, issued_ne _ _ _ hu]
  · simp only [advance, endIssue_wlog]
    rw [h1]; exact hl

/-! ## Vector operations -/

theorem vread_freeLast {x : Warp} {u : Uses} {n : Nat} (h : u.dst.contains n = true) (t : Fin 32) :
    vread (freeLast x u) n t = vread x n t := by
  unfold freeLast
  refine foldl_keeps' (fun y => vread y n t = vread x n t) _ _ _ ?_ rfl
  intro y k hk hy
  have : k ≠ n := by
    rintro rfl
    simp [List.mem_filter, h] at hk
    exact absurd h (by simp [hk.2])
  rw [vread_vfree_ne _ (Ne.symm this), hy]

/-- The occupancy of a vector operation at issue. -/
def aluOcc (s : State) (x : Warp) (b : Body) (k : Cls) (u : Uses) : Nat :=
  occupancy k.occ (max k.bank (bankCost u.src)) (actOf s x b)

/-- What `alu` leaves of the issuing warp but for its flow. -/
def aluWarp (s : State) (x : Warp) (b : Body) (k : Cls) (u : Uses) (f : In → Out32) : Warp :=
  bumpRng (aluWrite x u (f (aluIn s x b)) (actOf s x b) (zeroOf s x b) (s.chip.cycle + max (aluOcc s x b k u) k.lat))
    (k.draws || (k.rounds && modeOf x s.chip.cur.pfx == 5))

theorem withPfx_fits {a : Option Allow} {f : Act} {m : Memory} {c : Chip} (h : fits a c.cur.pfx = true) :
    withPfx a f m c = f m c := by
  unfold withPfx
  unfold fits at h
  split <;> simp_all
  split <;> simp_all

theorem entryMask_eq {s : State} {x : Warp} {b : Body} (h : s.Runs x b) : entryMask s.chip = b.mask := by
  obtain ⟨h1, h2⟩ := h
  simp only [State.warpNo] at h1
  simp [entryMask, warpAt, h1, h2]

theorem warpAt_eq {s : State} {x : Warp} {b : Body} (h : s.Runs x b) : warpAt s.chip s.chip.cur.w = x := by
  obtain ⟨h1, -⟩ := h
  simp only [State.warpNo] at h1
  simp [warpAt, h1]

/-- Everything a vector operation that executes does to its warp, and that it touches neither memory nor another warp. -/
theorem alu_next {s : State} {x : Warp} {b : Body} {k : Cls} {u : Uses} {f : In → Out32}
    (h : s.Executes x b k.allow u.dst) (hm : ∀ i, (f i).more = id) (hk : k.still = false) :
    ∃ t z, run (alu k u f) s = .next t ∧ sget t.chip.warps s.warpNo = some z ∧ SameButIssue (aluWarp s x b k u f) z
      ∧ (∀ v, v ≠ s.warpNo → sget t.chip.warps v = sget s.chip.warps v) ∧ t.mem = commit s.mem s.chip.wlog := by
  obtain ⟨hr, hf, hroom⟩ := h
  have hw := hr.1
  have hx := warpAt_eq hr
  have he := entryMask_eq hr
  unfold State.warpNo at *
  simp only [State.Room] at hroom
  have hno : ¬(actOf s x b ||| zeroOf s x b ≠ 0 ∧ exceeds x u.dst = true) := by
    rintro ⟨h1, h2⟩
    rcases hroom with h | h
    · exact h1 h
    · simp [h] at h2
  have hrun : alu k u f s.mem s.chip = advance s.mem (issued
      (modWarp s.chip s.chip.cur.w fun _ => aluWarp s x b k u f)
      (aluOcc s x b k u) (actOf s x b)) := by
    unfold alu
    rw [withPfx_fits hf]
    simp only [hx, he, hk, Bool.false_and, Bool.false_eq_true, if_false]
    rw [if_neg (by exact hno)]
    simp only [hm, id]
    unfold modWarp
    simp only [hw]
    rfl
  generalize hc : (modWarp s.chip s.chip.cur.w
    fun _ => aluWarp s x b k u f) = c at hrun
  have hcw : sget c.warps s.chip.cur.w = some (aluWarp s x b k u f) := by
    rw [← hc, warp_modWarp_same]
    simp [hw]
  have hcur : c.cur = s.chip.cur := by rw [← hc]; simp
  have hlog : c.wlog = s.chip.wlog := by rw [← hc]; simp
  have hne : ∀ v, v ≠ s.chip.cur.w → sget c.warps v = sget s.chip.warps v := by
    intro v hv; rw [← hc, warp_modWarp_ne _ _ hv]
  obtain ⟨⟨z, hz, hs⟩, ho, hl⟩ := advance_issued s.mem c (aluOcc s x b k u) (actOf s x b) (hcur ▸ hcw)
  rw [hcur] at hz ho
  refine ⟨_, z, rfl, ?_, hs, ?_, ?_⟩
  · rw [hrun]; exact hz
  · intro v hv
    show sget (alu k u f s.mem s.chip).warps v = _
    rw [hrun, ho v hv, hne v hv]
  · show commit s.mem (alu k u f s.mem s.chip).wlog = _
    rw [hrun, hl, hlog]

theorem lane_and (a b : BitVec 32) (t : Fin 32) : lane (a &&& b) t = (lane a t && lane b t) := BitVec.getLsbD_and ..
theorem lane_or (a b : BitVec 32) (t : Fin 32) : lane (a ||| b) t = (lane a t || lane b t) := BitVec.getLsbD_or ..
@[simp] theorem lane_zero (t : Fin 32) : lane 0#32 t = false := by simp [lane]

/-- One register written under the mask of the instruction. -/
def writeOne (x : Warp) (act zero : BitVec 32) (e : Nat × BitVec 32 × (Fin 32 → W32)) : Warp :=
  let mask := (e.2.1 &&& act) ||| zero
  if mask = 0 then x else vwrite x e.1 mask fun t => if lane act t then e.2.2 t else 0

theorem vread_writeOne (x : Warp) (act zero : BitVec 32) (e : Nat × BitVec 32 × (Fin 32 → W32)) (n : Nat) (t : Fin 32) :
    vread (writeOne x act zero e) n t =
      if n = e.1 ∧ lane ((e.2.1 &&& act) ||| zero) t = true then (if lane act t then e.2.2 t else 0) else vread x n t := by
  unfold writeOne
  dsimp only
  split
  · rename_i h; simp [h]
  · rw [vread_vwrite]

/-- The warp after the writes of a vector operation's registers. -/
theorem aluWrite_v (x : Warp) (u : Uses) (r : Out32) (act zero : BitVec 32) (t : Nat) (hp : ∀ y, (r.post y).v = y.v) :
    (aluWrite x u r act zero t).v = (freeLast (r.v.foldl (fun x e => writeOne x act zero e) x) u).v := by
  have hf : ∀ (y z : Warp), y.v = z.v → (freeLast y u).v = (freeLast z u).v := by
    intro y z h
    unfold freeLast
    generalize u.last.filter _ = l
    induction l generalizing y z with
    | nil => exact h
    | cons a r ih => exact ih _ _ (by simp [vfree, h])
  unfold aluWrite
  dsimp only
  refine hf _ _ ?_
  rw [hp]
  have h1 : ∀ (y : Warp), (if r.fp then fpReady (addFp y (orFlags act r.fl)) t else y).v = y.v := by
    intro y; split <;> simp [fpReady]
  have h2 : ∀ (y : Warp), (if act ||| zero = 0 then y else setReady y u.dst (some t)).v = y.v := by
    intro y; split <;> simp
  rw [h1, h2]
  cases r.p with
  | none => rfl
  | some q => rfl

theorem vread_congr {x y : Warp} (h : x.v = y.v) (n : Nat) (t : Fin 32) : vread x n t = vread y n t := by
  simp [vread, h]

@[simp] theorem aluWarp_v (s : State) (x : Warp) (b : Body) (k : Cls) (u : Uses) (f : In → Out32) :
    (aluWarp s x b k u f).v = (aluWrite x u (f (aluIn s x b)) (actOf s x b) (zeroOf s x b)
      (s.chip.cycle + max (aluOcc s x b k u) k.lat)).v := by
  simp [aluWarp]

/-- A vector operation with one destination register writes it as R34 and R61 say. -/
theorem wrote_alu {s : State} {x z : Warp} {b : Body} {k : Cls} {u : Uses} {f : In → Out32} {d : Nat} {g : Fin 32 → W32}
    (hz : SameButIssue (aluWarp s x b k u f) z) (hd : u.dst.contains d = true)
    (hv : (f (aluIn s x b)).v = [(d, actOf s x b, g)]) (hp : ∀ y, ((f (aluIn s x b)).post y).v = y.v) : Wrote x z (actOf s x b) (zeroOf s x b) d g := by
  intro t
  rw [hz.vread, vread_congr (aluWarp_v ..), vread_congr (aluWrite_v _ _ _ _ _ _ hp), vread_freeLast hd, hv]
  simp only [List.foldl_cons, List.foldl_nil, vread_writeOne, lane_or, lane_and]
  cases lane (actOf s x b) t <;> cases lane (zeroOf s x b) t <;> simp

/-- A vector operation of one destination completes with its value there. -/
theorem writes_alu1 {i : Instr} {s : State} {x : Warp} {b : Body} {k : Cls} {u : Uses} {d : Nat} {f : In → Fin 32 → W32}
    (hi : exec i s = run (alu1 k u d f) s) (h : s.Executes x b k.allow u.dst) (hd : u.dst.contains d = true)
    (hk : k.still = false := by rfl) {g : Fin 32 → W32} (hg : ∀ t, f (aluIn s x b) t = g t) : s.Writes i x b d g := by
  obtain ⟨t, z, ht, hw, hs, -, -⟩ := alu_next (f := fun i => { v := [(d, i.act, f i)] }) h (fun _ => rfl) hk
  refine ⟨t, z, hi.trans ht, hw, ?_⟩
  have : g = f (aluIn s x b) := funext fun t => (hg t).symm
  subst this
  exact wrote_alu hs hd rfl (fun _ => rfl)

theorem halves (v : W64) : (v >>> 32).setWidth 32 ++ v.setWidth 32 = v := by
  apply BitVec.eq_of_getLsbD_eq
  intro j hj
  simp only [BitVec.getLsbD_append, BitVec.getLsbD_setWidth, BitVec.getLsbD_ushiftRight]
  by_cases h : j < 32
  · simp [h]
  · simp [h, show j - 32 < 32 by omega, show 32 + (j - 32) = j by omega]

theorem freeLast_same (x : Warp) (u : Uses) : freeLast x u = { x with v := (freeLast x u).v } := by
  unfold freeLast
  generalize u.last.filter _ = l
  induction l generalizing x with
  | nil => rfl
  | cons a r ih => rw [List.foldl_cons, ih]; rfl

theorem writeOnes_same (x : Warp) (act zero : BitVec 32) (l : List (Nat × BitVec 32 × (Fin 32 → W32))) :
    l.foldl (fun x e => writeOne x act zero e) x = { x with v := (l.foldl (fun x e => writeOne x act zero e) x).v } := by
  induction l generalizing x with
  | nil => rfl
  | cons a r ih =>
    rw [List.foldl_cons, ih]
    unfold writeOne
    dsimp only
    split <;> rfl

/-- What a vector operation leaves of its warp: its registers, its predicate, its flags, and the results' availability are
all it writes. -/
theorem aluWrite_frame (x : Warp) (u : Uses) (r : Out32) (act zero : BitVec 32) (t : Nat) (hp : r.post = id) :
    aluWrite x u r act zero t = { x with
      v := (aluWrite x u r act zero t).v, ready := (aluWrite x u r act zero t).ready,
      p := match r.p with
        | some (d, g) => (pwrite x d act g).p
        | none => x.p
      fpstat := if r.fp then x.fpstat ||| (orFlags act r.fl).setWidth 32 else x.fpstat } := by
  have hw := writeOnes_same x act zero r.v
  unfold writeOne at hw
  dsimp only at hw
  unfold aluWrite
  rw [freeLast_same, hp]
  dsimp only
  rw [hw]
  by_cases h : act ||| zero = 0 <;> cases r.p <;> cases r.fp <;> simp only [h, id, if_true, if_false, Bool.false_eq_true] <;> rfl

theorem aluWarp_fpstat (s : State) (x : Warp) (b : Body) (k : Cls) (u : Uses) (f : In → Out32)
    (hp : (f (aluIn s x b)).post = id) :
    (aluWarp s x b k u f).fpstat = if (f (aluIn s x b)).fp then
      x.fpstat ||| (orFlags (actOf s x b) (f (aluIn s x b)).fl).setWidth 32 else x.fpstat := by
  unfold aluWarp
  rw [bumpRng_fpstat, aluWrite_frame _ _ _ _ _ _ hp]

theorem aluWarp_pread (s : State) (x : Warp) (b : Body) (k : Cls) (u : Uses) (f : In → Out32) {n : PSrc} {t : Fin 32}
    (hp : (f (aluIn s x b)).post = id) :
    pread (aluWarp s x b k u f) n t = match (f (aluIn s x b)).p with
      | some (d, g) => pread (pwrite x d (actOf s x b) g) n t
      | none => pread x n t := by
  have hc : ∀ {y z : Warp}, y.p = z.p → pread y n t = pread z n t := by
    intro y z h; cases n <;> simp [pread, h]
  have key : (aluWarp s x b k u f).p = match (f (aluIn s x b)).p with
      | some (d, g) => (pwrite x d (actOf s x b) g).p
      | none => x.p := by
    unfold aluWarp
    rw [bumpRng_p, aluWrite_frame _ _ _ _ _ _ hp]
  revert key
  cases (f (aluIn s x b)).p <;> (intro key; exact hc key)

/-- A vector operation that writes a pair. -/
theorem writesPair_alu {i : Instr} {s : State} {x : Warp} {b : Body} {k : Cls} {u : Uses} {d : Nat} {r : In → Fin 32 → W64}
    (hi : exec i s = run (alu k u fun i => { v := [(d, i.act, fun t => (r i t).setWidth 32),
      (d + 1, i.act, fun t => (r i t >>> 32).setWidth 32)] }) s)
    (h : s.Executes x b k.allow u.dst) (hd : u.dst.contains d = true) (he : u.dst.contains (d + 1) = true)
    (hk : k.still = false := by rfl) {g : Fin 32 → W64} (hg : ∀ t, r (aluIn s x b) t = g t) : s.WritesPair i x b d g := by
  obtain ⟨t, z, ht, hw, hs, -, -⟩ := alu_next (f := fun i => { v := [(d, i.act, fun t => (r i t).setWidth 32),
      (d + 1, i.act, fun t => (r i t >>> 32).setWidth 32)] }) h (fun _ => rfl) hk
  refine ⟨t, z, hi.trans ht, hw, ?_⟩
  intro t
  have e : g t = r (aluIn s x b) t := (hg t).symm
  unfold pair64
  rw [hs.vread, hs.vread, vread_congr (aluWarp_v ..), vread_congr (aluWarp_v ..),
    vread_congr (aluWrite_v _ _ _ _ _ _ (fun _ => rfl)), vread_congr (aluWrite_v _ _ _ _ _ _ (fun _ => rfl)),
    vread_freeLast hd, vread_freeLast he]
  dsimp only
  simp only [List.foldl_cons, List.foldl_nil, vread_writeOne, lane_or, lane_and]
  rw [e]
  have hact : (aluIn s x b).act = actOf s x b := rfl
  rw [hact]
  cases lane (actOf s x b) t <;> cases lane (zeroOf s x b) t <;> simp [halves]

/-- A vector operation that writes one register and raises flags. -/
theorem writesFp_alu {i : Instr} {s : State} {x : Warp} {b : Body} {k : Cls} {u : Uses} {d : Nat} {f : In → Fin 32 → W32 × Flags}
    (hi : exec i s = run (alu k u fun i => { v := [(d, i.act, fun t => (f i t).1)], fp := true, fl := fun t => (f i t).2 }) s)
    (h : s.Executes x b k.allow u.dst) (hd : u.dst.contains d = true)
    (hk : k.still = false := by rfl) {g : Fin 32 → W32 × Flags} (hg : ∀ t, f (aluIn s x b) t = g t) : s.WritesFp i x b d g := by
  obtain ⟨t, z, ht, hw, hs, -, -⟩ := alu_next (f := fun i =>
    { v := [(d, i.act, fun t => (f i t).1)], fp := true, fl := fun t => (f i t).2 }) h (fun _ => rfl) hk
  have e : g = f (aluIn s x b) := funext fun t => (hg t).symm
  subst e
  refine ⟨t, z, hi.trans ht, hw, wrote_alu hs hd rfl (fun _ => rfl), ?_⟩
  rw [hs]
  show (aluWarp s x b k u _).fpstat = _
  rw [aluWarp_fpstat _ _ _ _ _ _ rfl]
  rfl

/-- As `writesFp_alu`, for an operation that rounds, and for one that does not. -/
theorem writesFp_aluFp {i : Instr} {s : State} {x : Warp} {b : Body} {k : Cls} {u : Uses} {d : Nat}
    {f : In → Fin 32 → W32 × Flags} (hi : exec i s = run (aluFp k u d f) s) (h : s.Executes x b k.allow u.dst)
    (hd : u.dst.contains d = true)
    (hk : k.still = false := by rfl) {g : Fin 32 → W32 × Flags} (hg : ∀ t, f (aluIn s x b) t = g t) : s.WritesFp i x b d g :=
  writesFp_alu (k := { k with rounds := true }) hi h hd hk hg

theorem writesFp_aluFl {i : Instr} {s : State} {x : Warp} {b : Body} {k : Cls} {u : Uses} {d : Nat}
    {f : In → Fin 32 → W32 × Flags} (hi : exec i s = run (aluFl k u d f) s) (h : s.Executes x b k.allow u.dst)
    (hd : u.dst.contains d = true)
    (hk : k.still = false := by rfl) {g : Fin 32 → W32 × Flags} (hg : ∀ t, f (aluIn s x b) t = g t) : s.WritesFp i x b d g :=
  writesFp_alu hi h hd hk hg

/-- A predicate destination needs no room in the vector registers. -/
theorem exceeds_pred (x : Warp) (p : PReg) : exceeds x [codeP p.val] = false := by
  have h : ¬192 + p.val < 96 := by omega
  simp [exceeds, vCodes, codeP, h]

@[simp] theorem exceeds_nil (x : Warp) : exceeds x [] = false := by simp [exceeds, vCodes]

/-- A vector operation that writes one predicate. -/
theorem writesP_alu {i : Instr} {s : State} {x : Warp} {b : Body} {k : Cls} {u : Uses} {d : PReg} {f : In → Out32}
    {g : Fin 32 → Bool} (hi : exec i s = run (alu k u f) s) (h : s.Executes x b k.allow u.dst)
    (hm : ∀ i, (f i).more = id) (hp : ∀ i, (f i).post = id) (hk : k.still = false := by rfl) (hg : (f (aluIn s x b)).p = some (d, g)) :
    s.WritesP i x b d g := by
  obtain ⟨t, z, ht, hw, hs, -, -⟩ := alu_next h hm hk
  refine ⟨t, z, hi.trans ht, hw, ?_⟩
  intro t
  rw [hs.pread, aluWarp_pread _ _ _ _ _ _ (hp _), hg]
  simp [pread_pwrite]

/-- What an instruction of occupancy 1 leaves of its warp, when its effect on the chip is one on the warp. -/
theorem once_next {s : State} {x : Warp} {b : Body} {lat : Nat} {u : Uses} {f : Act} {y : Warp}
    (hr : s.Runs x b) (hb : s.Bare) (hf : sget (f s.mem s.chip).warps s.warpNo = some y)
    (hc : (f s.mem s.chip).cur = s.chip.cur) :
    ∃ t z, run (once lat u f) s = .next t ∧ sget t.chip.warps s.warpNo = some z
      ∧ SameButIssue (setReady y u.dst (some ((f s.mem s.chip).cycle + lat))) z
      ∧ (∀ v, v ≠ s.warpNo → sget t.chip.warps v = sget (f s.mem s.chip).warps v)
      ∧ t.mem = commit s.mem (f s.mem s.chip).wlog := by
  unfold State.warpNo at *
  have hrun : once lat u f s.mem s.chip = advance s.mem (issued (modWarp (f s.mem s.chip) s.chip.cur.w fun x =>
      setReady x u.dst (some ((f s.mem s.chip).cycle + lat))) 1 (entryMask (modWarp (f s.mem s.chip) s.chip.cur.w fun x =>
      setReady x u.dst (some ((f s.mem s.chip).cycle + lat))))) := by
    unfold once withPfx
    rw [show s.chip.cur.pfx = none from hb]
  generalize hd : (modWarp (f s.mem s.chip) s.chip.cur.w fun x =>
      setReady x u.dst (some ((f s.mem s.chip).cycle + lat))) = d at hrun
  have hdw : sget d.warps d.cur.w = some (setReady y u.dst (some ((f s.mem s.chip).cycle + lat))) := by
    rw [← hd, modWarp_cur, hc, warp_modWarp_same, hf]; rfl
  have hdc : d.cur = s.chip.cur := by rw [← hd, modWarp_cur, hc]
  obtain ⟨⟨z, hz, hs⟩, ho, hl⟩ := advance_issued s.mem d 1 (entryMask d) hdw
  rw [hdc] at hz ho
  refine ⟨_, z, rfl, ?_, hs, ?_, ?_⟩
  · show sget (once lat u f s.mem s.chip).warps _ = _
    rw [hrun]; exact hz
  · intro v hv
    show sget (once lat u f s.mem s.chip).warps v = _
    rw [hrun, ho v hv, ← hd, warp_modWarp_ne _ _ hv]
  · show commit s.mem (once lat u f s.mem s.chip).wlog = _
    rw [hrun, hl, ← hd, modWarp_wlog]

/-- A scalar operation writes its register. -/
theorem writesS_scalar {i : Instr} {s : State} {x : Warp} {b : Body} {lat : Nat} {u : Uses} {sd : SReg} {f : Warp → W64}
    (hi : exec i s = run (scalar lat u sd f) s) (hr : s.Runs x b) (hb : s.Bare) {v : W64} (hv : f x = v) :
    s.WritesS i x sd v := by
  have hw : sget (modWarp s.chip s.chip.cur.w fun x => swrite x sd (f x)).warps s.warpNo = some (swrite x sd v) := by
    unfold State.warpNo
    rw [warp_modWarp_same, show sget s.chip.warps s.chip.cur.w = some x from hr.1, ← hv]; rfl
  obtain ⟨t, z, ht, hz, hs, -, -⟩ := once_next (lat := lat) (u := u) (f := fun _ c => modWarp c c.cur.w fun x => swrite x sd (f x))
    hr hb hw (modWarp_cur ..)
  refine ⟨t, z, hi.trans ht, hz, ?_⟩
  intro n
  rw [hs.sread]
  show sread (setReady (swrite x sd v) _ _) n = _
  have : sread (setReady (swrite x sd v) u.dst (some ((modWarp s.chip s.chip.cur.w fun x => swrite x sd (f x)).cycle + lat))) n
      = sread (swrite x sd v) n := by simp [sread]
  rw [this, sread_swrite]
  by_cases h : n = sd
  · subst h; simp
  · simp [h]

end Sys2Proof.Machine
end

