-- ==== Sys2Proof/Laws/PerInstr.lean ====
section
/-!
SUPPORT. Sys2Proof/Laws/PerInstr.lean: what holds of every instruction as syntax, one lemma for each constructor.
-/

namespace Sys2Proof.Laws
open Sys2Proof

/-- Bit 0 of the first halfword gives the length (R47): the words of a 32-bit instruction are odd, those of a 16-bit
instruction even. -/
def Sized.Statement (i : Instr) : Prop :=
  ∀ n w : Nat, encodeWord i = some (n, w) → (n = 32 ∧ w % 2 = 1) ∨ (n = 16 ∧ w % 2 = 0)

namespace Sized

set_option Elab.async false

theorem sized32 {n w : Nat} (h : n = 32) (g : w % 2 = 1) : (n = 32 ∧ w % 2 = 1) ∨ (n = 16 ∧ w % 2 = 0) := .inl ⟨h, g⟩
theorem sized16 {n w : Nat} (h : n = 16) (g : w % 2 = 0) : (n = 32 ∧ w % 2 = 1) ∨ (n = 16 ∧ w % 2 = 0) := .inr ⟨h, g⟩
theorem base_parity (maj fn : Nat) : base maj fn % 2 = 1 := by
  simp only [base]; omega
theorem encAccclr_parity (maj fn : Nat) (ac band : Fin 4) : encAccclr maj fn ac band % 2 = 1 := by
  simp only [encAccclr, base]; omega
theorem encAcx_parity (maj fn : Nat) (o : TileOps) : encAcx maj fn o % 2 = 1 := by
  simp only [encAcx, base]; omega
theorem encAtom_parity (maj : Nat) (o : AtomOps) : encAtom maj o % 2 = 1 := by
  simp only [encAtom, base]; omega
theorem encBr_parity (maj fn p : Nat) (neg : Bool) (off : Fin 65536) : encBr maj fn p neg off % 2 = 1 := by
  simp only [encBr, base]; omega
theorem encBx_parity (maj fn : Nat) (a : Src) : encBx maj fn a % 2 = 1 := by
  simp only [encBx, base]; omega
theorem encC_parity (op : Nat) (o : COps) : encC op o % 2 = 0 := by
  simp only [encC]; omega
theorem encCvt_parity (maj fn : Nat) (o : CvtOps) : encCvt maj fn o % 2 = 1 := by
  simp only [encCvt, base]; omega
theorem encE_parity (maj sub sd sa imm : Nat) : encE maj sub sd sa imm % 2 = 1 := by
  simp only [encE, base]; omega
theorem encElect_parity (maj fn : Nat) (p : PReg) : encElect maj fn p % 2 = 1 := by
  simp only [encElect, base]; omega
theorem encLd_parity (maj : Nat) (o : LdOps) : encLd maj o % 2 = 1 := by
  simp only [encLd, base]; omega
theorem encLda_parity (maj fn : Nat) (o : LdaOps) : encLda maj fn o % 2 = 1 := by
  simp only [encLda, base]; omega
theorem encMovsr_parity (maj fn : Nat) (d : VReg) (n : Fin 43) : encMovsr maj fn d n % 2 = 1 := by
  simp only [encMovsr, base]; omega
theorem encMovsw_parity (maj fn : Nat) (n : Fin 43) (a : Opd) : encMovsw maj fn n a % 2 = 1 := by
  simp only [encMovsw, base]; omega
theorem encMxs_parity (maj fn : Nat) (o : ScaccOps) : encMxs maj fn o % 2 = 1 := by
  simp only [encMxs, base]; omega
theorem encP2v_parity (maj fn : Nat) (d : VReg) (p : PSrc) : encP2v maj fn d p % 2 = 1 := by
  simp only [encP2v, base]; omega
theorem encPbal_parity (maj fn : Nat) (d : VReg) (p : PSrc) (a : Src) : encPbal maj fn d p a % 2 = 1 := by
  simp only [encPbal, base]; omega
theorem encPfx_parity (o : Prefix) : encPfx o % 2 = 1 := by
  simp only [encPfx, base]; omega
theorem encPl_parity (maj : Nat) (o : PlopOps) : encPl maj o % 2 = 1 := by
  simp only [encPl, base]; omega
theorem encPlnrd_parity (maj fn : Nat) (o : PlaneOps) : encPlnrd maj fn o % 2 = 1 := by
  simp only [encPlnrd, base]; omega
theorem encPref_parity (maj fn : Nat) (o : PrefOps) : encPref maj fn o % 2 = 1 := by
  simp only [encPref, base]; omega
theorem encRand_parity (maj fn : Nat) (d : VReg) : encRand maj fn d % 2 = 1 := by
  simp only [encRand, base]; omega
theorem encRdlane_parity (maj fn : Nat) (sd : SReg) (a : VReg) (lane : Nat) : encRdlane maj fn sd a lane % 2 = 1 := by
  simp only [encRdlane, base]; omega
theorem encRed_parity (maj fn : Nat) (o : RedOps) : encRed maj fn o % 2 = 1 := by
  simp only [encRed, base]; omega
theorem encRseed_parity (maj fn : Nat) (a b : Opd) : encRseed maj fn a b % 2 = 1 := by
  simp only [encRseed, base]; omega
theorem encRskip_parity (maj fn : Nat) (a : Opd) : encRskip maj fn a % 2 = 1 := by
  simp only [encRskip, base]; omega
theorem encS16_parity (maj fn : Nat) (sd : SReg) (imm : Fin 65536) : encS16 maj fn sd imm % 2 = 1 := by
  simp only [encS16, base]; omega
theorem encSa_parity (maj fn : Nat) (o : SaOps) : encSa maj fn o % 2 = 1 := by
  simp only [encSa, base]; omega
theorem encSimm_parity (maj sub : Nat) (o : SImmOps) : encSimm maj sub o % 2 = 1 := by
  simp only [encSimm, base]; omega
theorem encSp_parity (maj : Nat) (o : ScmpOps) : encSp maj o % 2 = 1 := by
  simp only [encSp, base]; omega
theorem encSreg_parity (maj sub : Nat) (o : SOps) : encSreg maj sub o % 2 = 1 := by
  simp only [encSreg, base]; omega
theorem encSt_parity (maj : Nat) (o : StOps) : encSt maj o % 2 = 1 := by
  simp only [encSt, base]; omega
theorem encStr_parity (maj fn : Nat) (o : StrOps) : encStr maj fn o % 2 = 1 := by
  simp only [encStr, base]; omega
theorem encU_parity (maj fn : Nat) (o : UnOps) : encU maj fn o % 2 = 1 := by
  simp only [encU, base]; omega
theorem encV_parity (maj fn : Nat) (o : VOps) : encV maj fn o % 2 = 1 := by
  simp only [encV, base]; omega
theorem encV2p_parity (maj fn : Nat) (p : PReg) (a : Src) : encV2p maj fn p a % 2 = 1 := by
  simp only [encV2p, base]; omega
theorem encVa_parity (maj fn : Nat) (o : PairOps) : encVa maj fn o % 2 = 1 := by
  simp only [encVa, base]; omega
theorem encVf_parity (maj fn : Nat) (o : FunOps) : encVf maj fn o % 2 = 1 := by
  simp only [encVf, base]; omega
theorem encVi_parity (maj fn : Nat) (o : ImmOps) : encVi maj fn o % 2 = 1 := by
  simp only [encVi, base]; omega
theorem encVn_parity (maj fn : Nat) (o : PackOps) : encVn maj fn o % 2 = 1 := by
  simp only [encVn, base]; omega
theorem encVp_parity (maj : Nat) (o : CmpOps) : encVp maj o % 2 = 1 := by
  simp only [encVp, base]; omega
theorem encVs_parity (maj fn : Nat) (o : ShOps) : encVs maj fn o % 2 = 1 := by
  simp only [encVs, base]; omega
theorem encVsel_parity (maj : Nat) (o : SelOps) : encVsel maj o % 2 = 1 := by
  simp only [encVsel, base]; omega
theorem encVt_parity (maj : Nat) (o : LutOps) : encVt maj o % 2 = 1 := by
  simp only [encVt, base]; omega
theorem iadd (o : VOps) : Statement (.iadd o) := by
  intro n w h; cases h
  exact sized32 rfl (by apply encV_parity)
theorem isub (o : VOps) : Statement (.isub o) := by
  intro n w h; cases h
  exact sized32 rfl (by apply encV_parity)
theorem imul (o : VOps) : Statement (.imul o) := by
  intro n w h; cases h
  exact sized32 rfl (by apply encV_parity)
theorem imulh (o : VOps) : Statement (.imulh o) := by
  intro n w h; cases h
  exact sized32 rfl (by apply encV_parity)
theorem imin (o : VOps) : Statement (.imin o) := by
  intro n w h; cases h
  exact sized32 rfl (by apply encV_parity)
theorem imax (o : VOps) : Statement (.imax o) := by
  intro n w h; cases h
  exact sized32 rfl (by apply encV_parity)
theorem umin (o : VOps) : Statement (.umin o) := by
  intro n w h; cases h
  exact sized32 rfl (by apply encV_parity)
theorem umax (o : VOps) : Statement (.umax o) := by
  intro n w h; cases h
  exact sized32 rfl (by apply encV_parity)
theorem and (o : VOps) : Statement (.and o) := by
  intro n w h; cases h
  exact sized32 rfl (by apply encV_parity)
theorem or (o : VOps) : Statement (.or o) := by
  intro n w h; cases h
  exact sized32 rfl (by apply encV_parity)
theorem xor (o : VOps) : Statement (.xor o) := by
  intro n w h; cases h
  exact sized32 rfl (by apply encV_parity)
theorem andn (o : VOps) : Statement (.andn o) := by
  intro n w h; cases h
  exact sized32 rfl (by apply encV_parity)
theorem shl (o : VOps) : Statement (.shl o) := by
  intro n w h; cases h
  exact sized32 rfl (by apply encV_parity)
theorem shr (o : VOps) : Statement (.shr o) := by
  intro n w h; cases h
  exact sized32 rfl (by apply encV_parity)
theorem sar (o : VOps) : Statement (.sar o) := by
  intro n w h; cases h
  exact sized32 rfl (by apply encV_parity)
theorem rot (o : VOps) : Statement (.rot o) := by
  intro n w h; cases h
  exact sized32 rfl (by apply encV_parity)
theorem bfx (o : VOps) : Statement (.bfx o) := by
  intro n w h; cases h
  exact sized32 rfl (by apply encV_parity)
theorem bfxs (o : VOps) : Statement (.bfxs o) := by
  intro n w h; cases h
  exact sized32 rfl (by apply encV_parity)
theorem bfi (o : VOps) : Statement (.bfi o) := by
  intro n w h; cases h
  exact sized32 rfl (by apply encV_parity)
theorem popc (o : UnOps) : Statement (.popc o) := by
  intro n w h; cases h
  exact sized32 rfl (by apply encU_parity)
theorem clz (o : UnOps) : Statement (.clz o) := by
  intro n w h; cases h
  exact sized32 rfl (by apply encU_parity)
theorem ctz (o : UnOps) : Statement (.ctz o) := by
  intro n w h; cases h
  exact sized32 rfl (by apply encU_parity)
theorem brev (o : UnOps) : Statement (.brev o) := by
  intro n w h; cases h
  exact sized32 rfl (by apply encU_parity)
theorem imad (o : VOps) : Statement (.imad o) := by
  intro n w h; cases h
  exact sized32 rfl (by apply encV_parity)
theorem umulh (o : VOps) : Statement (.umulh o) := by
  intro n w h; cases h
  exact sized32 rfl (by apply encV_parity)
theorem idiv (o : VOps) : Statement (.idiv o) := by
  intro n w h; cases h
  exact sized32 rfl (by apply encV_parity)
theorem udiv (o : VOps) : Statement (.udiv o) := by
  intro n w h; cases h
  exact sized32 rfl (by apply encV_parity)
theorem lut3 (o : LutOps) : Statement (.lut3 o) := by
  intro n w h; cases h
  exact sized32 rfl (by apply encVt_parity)
theorem fadd (o : VOps) : Statement (.fadd o) := by
  intro n w h; cases h
  exact sized32 rfl (by apply encV_parity)
theorem fsub (o : VOps) : Statement (.fsub o) := by
  intro n w h; cases h
  exact sized32 rfl (by apply encV_parity)
theorem fmul (o : VOps) : Statement (.fmul o) := by
  intro n w h; cases h
  exact sized32 rfl (by apply encV_parity)
theorem ffma (o : VOps) : Statement (.ffma o) := by
  intro n w h; cases h
  exact sized32 rfl (by apply encV_parity)
theorem fmin (o : VOps) : Statement (.fmin o) := by
  intro n w h; cases h
  exact sized32 rfl (by apply encV_parity)
theorem fmax (o : VOps) : Statement (.fmax o) := by
  intro n w h; cases h
  exact sized32 rfl (by apply encV_parity)
theorem fminn (o : VOps) : Statement (.fminn o) := by
  intro n w h; cases h
  exact sized32 rfl (by apply encV_parity)
theorem fmaxn (o : VOps) : Statement (.fmaxn o) := by
  intro n w h; cases h
  exact sized32 rfl (by apply encV_parity)
theorem frcp (o : UnOps) : Statement (.frcp o) := by
  intro n w h; cases h
  exact sized32 rfl (by apply encU_parity)
theorem frsq (o : UnOps) : Statement (.frsq o) := by
  intro n w h; cases h
  exact sized32 rfl (by apply encU_parity)
theorem fsqrt (o : UnOps) : Statement (.fsqrt o) := by
  intro n w h; cases h
  exact sized32 rfl (by apply encU_parity)
theorem fexp2 (o : UnOps) : Statement (.fexp2 o) := by
  intro n w h; cases h
  exact sized32 rfl (by apply encU_parity)
theorem flog2 (o : UnOps) : Statement (.flog2 o) := by
  intro n w h; cases h
  exact sized32 rfl (by apply encU_parity)
theorem fsin (o : UnOps) : Statement (.fsin o) := by
  intro n w h; cases h
  exact sized32 rfl (by apply encU_parity)
theorem fcos (o : UnOps) : Statement (.fcos o) := by
  intro n w h; cases h
  exact sized32 rfl (by apply encU_parity)
theorem ftanh (o : UnOps) : Statement (.ftanh o) := by
  intro n w h; cases h
  exact sized32 rfl (by apply encU_parity)
theorem badd2 (o : VOps) : Statement (.badd2 o) := by
  intro n w h; cases h
  exact sized32 rfl (by apply encV_parity)
theorem bmul2 (o : VOps) : Statement (.bmul2 o) := by
  intro n w h; cases h
  exact sized32 rfl (by apply encV_parity)
theorem bfma2 (o : VOps) : Statement (.bfma2 o) := by
  intro n w h; cases h
  exact sized32 rfl (by apply encV_parity)
theorem bmax2 (o : VOps) : Statement (.bmax2 o) := by
  intro n w h; cases h
  exact sized32 rfl (by apply encV_parity)
theorem hadd2 (o : VOps) : Statement (.hadd2 o) := by
  intro n w h; cases h
  exact sized32 rfl (by apply encV_parity)
theorem hmul2 (o : VOps) : Statement (.hmul2 o) := by
  intro n w h; cases h
  exact sized32 rfl (by apply encV_parity)
theorem hfma2 (o : VOps) : Statement (.hfma2 o) := by
  intro n w h; cases h
  exact sized32 rfl (by apply encV_parity)
theorem hmax2 (o : VOps) : Statement (.hmax2 o) := by
  intro n w h; cases h
  exact sized32 rfl (by apply encV_parity)
theorem fcvt (o : CvtOps) : Statement (.fcvt o) := by
  intro n w h; cases h
  exact sized32 rfl (by apply encCvt_parity)
theorem fcvtSat (o : CvtOps) : Statement (.fcvtSat o) := by
  intro n w h; cases h
  exact sized32 rfl (by apply encCvt_parity)
theorem frnd (o : UnOps) : Statement (.frnd o) := by
  intro n w h; cases h
  exact sized32 rfl (by apply encU_parity)
theorem ffrac (o : UnOps) : Statement (.ffrac o) := by
  intro n w h; cases h
  exact sized32 rfl (by apply encU_parity)
theorem fclass (o : UnOps) : Statement (.fclass o) := by
  intro n w h; cases h
  exact sized32 rfl (by apply encU_parity)
theorem fldexp (o : VOps) : Statement (.fldexp o) := by
  intro n w h; cases h
  exact sized32 rfl (by apply encV_parity)
theorem icmp (o : CmpOps) : Statement (.icmp o) := by
  intro n w h; cases h
  exact sized32 rfl (by apply encVp_parity)
theorem fcmp (o : CmpOps) : Statement (.fcmp o) := by
  intro n w h; cases h
  exact sized32 rfl (by apply encVp_parity)
theorem sel (o : SelOps) : Statement (.sel o) := by
  intro n w h; cases h
  exact sized32 rfl (by apply encVsel_parity)
theorem plop (o : PlopOps) : Statement (.plop o) := by
  intro n w h; cases h
  exact sized32 rfl (by apply encPl_parity)
theorem p2v (d : VReg) (p : PSrc) : Statement (.p2v d p) := by
  intro n w h; cases h
  exact sized32 rfl (by apply encP2v_parity)
theorem v2p (p : PReg) (a : Src) : Statement (.v2p p a) := by
  intro n w h; cases h
  exact sized32 rfl (by apply encV2p_parity)
theorem elect (p : PReg) : Statement (.elect p) := by
  intro n w h; cases h
  exact sized32 rfl (by apply encElect_parity)
theorem pbal (d : VReg) (p : PSrc) (a : Src) : Statement (.pbal d p a) := by
  intro n w h; cases h
  exact sized32 rfl (by apply encPbal_parity)
theorem mov (o : UnOps) : Statement (.mov o) := by
  intro n w h; cases h
  exact sized32 rfl (by apply encU_parity)
theorem mov64 (o : UnOps) : Statement (.mov64 o) := by
  intro n w h; cases h
  exact sized32 rfl (by apply encU_parity)
theorem movsr (d : VReg) (n : Fin 43) : Statement (.movsr d n) := by
  intro n w h; cases h
  exact sized32 rfl (by apply encMovsr_parity)
theorem movsw (n : Fin 43) (a : Opd) : Statement (.movsw n a) := by
  intro n w h; cases h
  exact sized32 rfl (by apply encMovsw_parity)
theorem movil (o : ImmOps) : Statement (.movil o) := by
  intro n w h; cases h
  exact sized32 rfl (by apply encVi_parity)
theorem movih (o : ImmOps) : Statement (.movih o) := by
  intro n w h; cases h
  exact sized32 rfl (by apply encVi_parity)
theorem movis (o : ImmOps) : Statement (.movis o) := by
  intro n w h; cases h
  exact sized32 rfl (by apply encVi_parity)
theorem movif (o : ImmOps) : Statement (.movif o) := by
  intro n w h; cases h
  exact sized32 rfl (by apply encVi_parity)
theorem shflIdx (o : VOps) : Statement (.shflIdx o) := by
  intro n w h; cases h
  exact sized32 rfl (by apply encV_parity)
theorem shflUp (o : VOps) : Statement (.shflUp o) := by
  intro n w h; cases h
  exact sized32 rfl (by apply encV_parity)
theorem shflDn (o : VOps) : Statement (.shflDn o) := by
  intro n w h; cases h
  exact sized32 rfl (by apply encV_parity)
theorem shflXor (o : VOps) : Statement (.shflXor o) := by
  intro n w h; cases h
  exact sized32 rfl (by apply encV_parity)
theorem xpush (o : VOps) : Statement (.xpush o) := by
  intro n w h; cases h
  exact sized32 rfl (by apply encV_parity)
theorem voteAll (o : UnOps) : Statement (.voteAll o) := by
  intro n w h; cases h
  exact sized32 rfl (by apply encU_parity)
theorem voteAny (o : UnOps) : Statement (.voteAny o) := by
  intro n w h; cases h
  exact sized32 rfl (by apply encU_parity)
theorem voteBal (o : UnOps) : Statement (.voteBal o) := by
  intro n w h; cases h
  exact sized32 rfl (by apply encU_parity)
theorem voteEq (o : VOps) : Statement (.voteEq o) := by
  intro n w h; cases h
  exact sized32 rfl (by apply encV_parity)
theorem redux (o : RedOps) : Statement (.redux o) := by
  intro n w h; cases h
  exact sized32 rfl (by apply encRed_parity)
theorem scan (o : RedOps) : Statement (.scan o) := by
  intro n w h; cases h
  exact sized32 rfl (by apply encRed_parity)
theorem scanX (o : RedOps) : Statement (.scanX o) := by
  intro n w h; cases h
  exact sized32 rfl (by apply encRed_parity)
theorem rand (d : VReg) : Statement (.rand d) := by
  intro n w h; cases h
  exact sized32 rfl (by apply encRand_parity)
theorem randf (d : VReg) : Statement (.randf d) := by
  intro n w h; cases h
  exact sized32 rfl (by apply encRand_parity)
theorem rseed (a : Opd) (b : Opd) : Statement (.rseed a b) := by
  intro n w h; cases h
  exact sized32 rfl (by apply encRseed_parity)
theorem rskip (a : Opd) : Statement (.rskip a) := by
  intro n w h; cases h
  exact sized32 rfl (by apply encRskip_parity)
theorem npack (o : PackOps) : Statement (.npack o) := by
  intro n w h; cases h
  exact sized32 rfl (by apply encVn_parity)
theorem nunpk (o : PackOps) : Statement (.nunpk o) := by
  intro n w h; cases h
  exact sized32 rfl (by apply encVn_parity)
theorem next (o : PackOps) : Statement (.next o) := by
  intro n w h; cases h
  exact sized32 rfl (by apply encVn_parity)
theorem nins (o : PackOps) : Statement (.nins o) := by
  intro n w h; cases h
  exact sized32 rfl (by apply encVn_parity)
theorem aidx (o : PairOps) : Statement (.aidx o) := by
  intro n w h; cases h
  exact sized32 rfl (by apply encVa_parity)
theorem aidxu (o : PairOps) : Statement (.aidxu o) := by
  intro n w h; cases h
  exact sized32 rfl (by apply encVa_parity)
theorem algn (o : PairOps) : Statement (.algn o) := by
  intro n w h; cases h
  exact sized32 rfl (by apply encVa_parity)
theorem adif (o : PairOps) : Statement (.adif o) := by
  intro n w h; cases h
  exact sized32 rfl (by apply encVa_parity)
theorem b2a (o : PairOps) : Statement (.b2a o) := by
  intro n w h; cases h
  exact sized32 rfl (by apply encVa_parity)
theorem a2b (o : PairOps) : Statement (.a2b o) := by
  intro n w h; cases h
  exact sized32 rfl (by apply encVa_parity)
theorem aadd (o : PairOps) : Statement (.aadd o) := by
  intro n w h; cases h
  exact sized32 rfl (by apply encVa_parity)
theorem asub (o : PairOps) : Statement (.asub o) := by
  intro n w h; cases h
  exact sized32 rfl (by apply encVa_parity)
theorem ld (o : LdOps) : Statement (.ld o) := by
  intro n w h; cases h
  exact sized32 rfl (by apply encLd_parity)
theorem ldv (o : LdOps) : Statement (.ldv o) := by
  intro n w h; cases h
  exact sized32 rfl (by apply encLd_parity)
theorem st (o : StOps) : Statement (.st o) := by
  intro n w h; cases h
  exact sized32 rfl (by apply encSt_parity)
theorem stv (o : StOps) : Statement (.stv o) := by
  intro n w h; cases h
  exact sized32 rfl (by apply encSt_parity)
theorem lda (o : LdaOps) : Statement (.lda o) := by
  intro n w h; cases h
  exact sized32 rfl (by apply encLda_parity)
theorem ldc (o : LdaOps) : Statement (.ldc o) := by
  intro n w h; cases h
  exact sized32 rfl (by apply encLda_parity)
theorem str (o : StrOps) : Statement (.str o) := by
  intro n w h; cases h
  exact sized32 rfl (by apply encStr_parity)
theorem stc (o : StrOps) : Statement (.stc o) := by
  intro n w h; cases h
  exact sized32 rfl (by apply encStr_parity)
theorem atom (o : AtomOps) : Statement (.atom o) := by
  intro n w h; cases h
  exact sized32 rfl (by apply encAtom_parity)
theorem atomn (o : AtomOps) : Statement (.atomn o) := by
  intro n w h; cases h
  exact sized32 rfl (by apply encAtom_parity)
theorem fence (scope : Scope) (kind : FenceKind) : Statement (.fence scope kind) := by
  intro n w h; cases h
  exact sized32 rfl (by apply encE_parity)
theorem bara (g : Fin 256) : Statement (.bara g) := by
  intro n w h; cases h
  exact sized32 rfl (by apply encE_parity)
theorem barw (g : Fin 256) : Statement (.barw g) := by
  intro n w h; cases h
  exact sized32 rfl (by apply encE_parity)
theorem bar (g : Fin 256) : Statement (.bar g) := by
  intro n w h; cases h
  exact sized32 rfl (by apply encE_parity)
theorem phadv (g : Fin 256) : Statement (.phadv g) := by
  intro n w h; cases h
  exact sized32 rfl (by apply encE_parity)
theorem nop  : Statement (.nop) := by
  intro n w h; cases h
  exact sized32 rfl rfl
theorem prefL1 (o : PrefOps) : Statement (.prefL1 o) := by
  intro n w h; cases h
  exact sized32 rfl (by apply encPref_parity)
theorem prefL2 (o : PrefOps) : Statement (.prefL2 o) := by
  intro n w h; cases h
  exact sized32 rfl (by apply encPref_parity)
theorem cinv (o : PrefOps) : Statement (.cinv o) := by
  intro n w h; cases h
  exact sized32 rfl (by apply encPref_parity)
theorem tagwa (sa : SReg) : Statement (.tagwa sa) := by
  intro n w h; cases h
  exact sized32 rfl (by apply encE_parity)
theorem tagwy (sd : SReg) (sa : SReg) : Statement (.tagwy sd sa) := by
  intro n w h; cases h
  exact sized32 rfl (by apply encE_parity)
theorem tagff (sd : SReg) (sa : SReg) : Statement (.tagff sd sa) := by
  intro n w h; cases h
  exact sized32 rfl (by apply encE_parity)
theorem tagclr (sa : SReg) : Statement (.tagclr sa) := by
  intro n w h; cases h
  exact sized32 rfl (by apply encE_parity)
theorem tagrd (sd : SReg) (tag : Fin 64) : Statement (.tagrd sd tag) := by
  intro n w h; cases h
  exact sized32 rfl (by apply encE_parity)
theorem jpop (sd : SReg) (mb : Fin 8) : Statement (.jpop sd mb) := by
  intro n w h; cases h
  exact sized32 rfl (by apply encE_parity)
theorem jdone  : Statement (.jdone) := by
  intro n w h; cases h
  exact sized32 rfl rfl
theorem jyield (sa : SReg) : Statement (.jyield sa) := by
  intro n w h; cases h
  exact sized32 rfl (by apply encE_parity)
theorem fspawn (sd : SReg) (sa : SReg) : Statement (.fspawn sd sa) := by
  intro n w h; cases h
  exact sized32 rfl (by apply encE_parity)
theorem fref (sa : SReg) (n : Fin 2048) : Statement (.fref sa n) := by
  intro n w h; cases h
  exact sized32 rfl (by apply encE_parity)
theorem fdrop (sa : SReg) (n : Fin 2048) : Statement (.fdrop sa n) := by
  intro n w h; cases h
  exact sized32 rfl (by apply encE_parity)
theorem fwait (sa : SReg) : Statement (.fwait sa) := by
  intro n w h; cases h
  exact sized32 rfl (by apply encE_parity)
theorem fpoll (sd : SReg) (sa : SReg) (p : PReg) : Statement (.fpoll sd sa p) := by
  intro n w h; cases h
  exact sized32 rfl (by apply encE_parity)
theorem fcommit  : Statement (.fcommit) := by
  intro n w h; cases h
  exact sized32 rfl rfl
theorem evsig (sa : SReg) (n : Fin 2048) : Statement (.evsig sa n) := by
  intro n w h; cases h
  exact sized32 rfl (by apply encE_parity)
theorem qsnd (sd : SReg) (sa : SReg) : Statement (.qsnd sd sa) := by
  intro n w h; cases h
  exact sized32 rfl (by apply encE_parity)
theorem qrcv (sd : SReg) (q : Fin 4) : Statement (.qrcv sd q) := by
  intro n w h; cases h
  exact sized32 rfl (by apply encE_parity)
theorem qpoll (sd : SReg) (q : Fin 4) (p : PReg) : Statement (.qpoll sd q p) := by
  intro n w h; cases h
  exact sized32 rfl (by apply encE_parity)
theorem racq (sd : SReg) (kind : Fin 4) (k : Fin 512) : Statement (.racq sd kind k) := by
  intro n w h; cases h
  exact sized32 rfl (by apply encE_parity)
theorem rrel (kind : Fin 4) (k : Fin 512) : Statement (.rrel kind k) := by
  intro n w h; cases h
  exact sized32 rfl (by apply encE_parity)
theorem rqry (sd : SReg) (kind : Fin 4) : Statement (.rqry sd kind) := by
  intro n w h; cases h
  exact sized32 rfl (by apply encE_parity)
theorem enter (n : Fin 2048) : Statement (.enter n) := by
  intro n w h; cases h
  exact sized32 rfl (by apply encE_parity)
theorem leave (n : Fin 2048) : Statement (.leave n) := by
  intro n w h; cases h
  exact sized32 rfl (by apply encE_parity)
theorem conerd (sd : SReg) : Statement (.conerd sd) := by
  intro n w h; cases h
  exact sized32 rfl (by apply encE_parity)
theorem bkpt (n : Fin 2048) : Statement (.bkpt n) := by
  intro n w h; cases h
  exact sized32 rfl (by apply encE_parity)
theorem trap (n : Fin 2048) : Statement (.trap n) := by
  intro n w h; cases h
  exact sized32 rfl (by apply encE_parity)
theorem tmset (sa : SReg) : Statement (.tmset sa) := by
  intro n w h; cases h
  exact sized32 rfl (by apply encE_parity)
theorem tret  : Statement (.tret) := by
  intro n w h; cases h
  exact sized32 rfl rfl
theorem sysr (sd : SReg) (sa : SReg) (n : Fin 2048) : Statement (.sysr sd sa n) := by
  intro n w h; cases h
  exact sized32 rfl (by apply encE_parity)
theorem sysw (sd : SReg) (sa : SReg) (n : Fin 2048) : Statement (.sysw sd sa n) := by
  intro n w h; cases h
  exact sized32 rfl (by apply encE_parity)
theorem tlbi (sa : SReg) (kind : Fin 3) : Statement (.tlbi sa kind) := by
  intro n w h; cases h
  exact sized32 rfl (by apply encE_parity)
theorem halt  : Statement (.halt) := by
  intro n w h; cases h
  exact sized32 rfl rfl
theorem kret  : Statement (.kret) := by
  intro n w h; cases h
  exact sized32 rfl rfl
theorem sadd (o : SOps) : Statement (.sadd o) := by
  intro n w h; cases h
  exact sized32 rfl (by apply encSreg_parity)
theorem saddImm (o : SImmOps) : Statement (.saddImm o) := by
  intro n w h; cases h
  exact sized32 rfl (by apply encSimm_parity)
theorem ssub (o : SOps) : Statement (.ssub o) := by
  intro n w h; cases h
  exact sized32 rfl (by apply encSreg_parity)
theorem ssubImm (o : SImmOps) : Statement (.ssubImm o) := by
  intro n w h; cases h
  exact sized32 rfl (by apply encSimm_parity)
theorem smul (o : SOps) : Statement (.smul o) := by
  intro n w h; cases h
  exact sized32 rfl (by apply encSreg_parity)
theorem smulImm (o : SImmOps) : Statement (.smulImm o) := by
  intro n w h; cases h
  exact sized32 rfl (by apply encSimm_parity)
theorem smulh (o : SOps) : Statement (.smulh o) := by
  intro n w h; cases h
  exact sized32 rfl (by apply encSreg_parity)
theorem smulhImm (o : SImmOps) : Statement (.smulhImm o) := by
  intro n w h; cases h
  exact sized32 rfl (by apply encSimm_parity)
theorem sand (o : SOps) : Statement (.sand o) := by
  intro n w h; cases h
  exact sized32 rfl (by apply encSreg_parity)
theorem sandImm (o : SImmOps) : Statement (.sandImm o) := by
  intro n w h; cases h
  exact sized32 rfl (by apply encSimm_parity)
theorem sor (o : SOps) : Statement (.sor o) := by
  intro n w h; cases h
  exact sized32 rfl (by apply encSreg_parity)
theorem sorImm (o : SImmOps) : Statement (.sorImm o) := by
  intro n w h; cases h
  exact sized32 rfl (by apply encSimm_parity)
theorem sxor (o : SOps) : Statement (.sxor o) := by
  intro n w h; cases h
  exact sized32 rfl (by apply encSreg_parity)
theorem sxorImm (o : SImmOps) : Statement (.sxorImm o) := by
  intro n w h; cases h
  exact sized32 rfl (by apply encSimm_parity)
theorem sshl (o : SOps) : Statement (.sshl o) := by
  intro n w h; cases h
  exact sized32 rfl (by apply encSreg_parity)
theorem sshlImm (o : SImmOps) : Statement (.sshlImm o) := by
  intro n w h; cases h
  exact sized32 rfl (by apply encSimm_parity)
theorem sshr (o : SOps) : Statement (.sshr o) := by
  intro n w h; cases h
  exact sized32 rfl (by apply encSreg_parity)
theorem sshrImm (o : SImmOps) : Statement (.sshrImm o) := by
  intro n w h; cases h
  exact sized32 rfl (by apply encSimm_parity)
theorem ssar (o : SOps) : Statement (.ssar o) := by
  intro n w h; cases h
  exact sized32 rfl (by apply encSreg_parity)
theorem ssarImm (o : SImmOps) : Statement (.ssarImm o) := by
  intro n w h; cases h
  exact sized32 rfl (by apply encSimm_parity)
theorem smin (o : SOps) : Statement (.smin o) := by
  intro n w h; cases h
  exact sized32 rfl (by apply encSreg_parity)
theorem sminImm (o : SImmOps) : Statement (.sminImm o) := by
  intro n w h; cases h
  exact sized32 rfl (by apply encSimm_parity)
theorem smax (o : SOps) : Statement (.smax o) := by
  intro n w h; cases h
  exact sized32 rfl (by apply encSreg_parity)
theorem smaxImm (o : SImmOps) : Statement (.smaxImm o) := by
  intro n w h; cases h
  exact sized32 rfl (by apply encSimm_parity)
theorem sminu (o : SOps) : Statement (.sminu o) := by
  intro n w h; cases h
  exact sized32 rfl (by apply encSreg_parity)
theorem sminuImm (o : SImmOps) : Statement (.sminuImm o) := by
  intro n w h; cases h
  exact sized32 rfl (by apply encSimm_parity)
theorem smaxu (o : SOps) : Statement (.smaxu o) := by
  intro n w h; cases h
  exact sized32 rfl (by apply encSreg_parity)
theorem smaxuImm (o : SImmOps) : Statement (.smaxuImm o) := by
  intro n w h; cases h
  exact sized32 rfl (by apply encSimm_parity)
theorem sdivu (o : SOps) : Statement (.sdivu o) := by
  intro n w h; cases h
  exact sized32 rfl (by apply encSreg_parity)
theorem sdivuImm (o : SImmOps) : Statement (.sdivuImm o) := by
  intro n w h; cases h
  exact sized32 rfl (by apply encSimm_parity)
theorem smov (o : SOps) : Statement (.smov o) := by
  intro n w h; cases h
  exact sized32 rfl (by apply encSreg_parity)
theorem smovImm (o : SImmOps) : Statement (.smovImm o) := by
  intro n w h; cases h
  exact sized32 rfl (by apply encSimm_parity)
theorem smoviZ (sd : SReg) (imm : Fin 65536) : Statement (.smoviZ sd imm) := by
  intro n w h; cases h
  exact sized32 rfl (by apply encS16_parity)
theorem smoviH1 (sd : SReg) (imm : Fin 65536) : Statement (.smoviH1 sd imm) := by
  intro n w h; cases h
  exact sized32 rfl (by apply encS16_parity)
theorem smoviH2 (sd : SReg) (imm : Fin 65536) : Statement (.smoviH2 sd imm) := by
  intro n w h; cases h
  exact sized32 rfl (by apply encS16_parity)
theorem smoviH3 (sd : SReg) (imm : Fin 65536) : Statement (.smoviH3 sd imm) := by
  intro n w h; cases h
  exact sized32 rfl (by apply encS16_parity)
theorem scmp (o : ScmpOps) : Statement (.scmp o) := by
  intro n w h; cases h
  exact sized32 rfl (by apply encSp_parity)
theorem saidx (o : SaOps) : Statement (.saidx o) := by
  intro n w h; cases h
  exact sized32 rfl (by apply encSa_parity)
theorem salgn (o : SaOps) : Statement (.salgn o) := by
  intro n w h; cases h
  exact sized32 rfl (by apply encSa_parity)
theorem sb2a (o : SaOps) : Statement (.sb2a o) := by
  intro n w h; cases h
  exact sized32 rfl (by apply encSa_parity)
theorem sa2b (o : SaOps) : Statement (.sa2b o) := by
  intro n w h; cases h
  exact sized32 rfl (by apply encSa_parity)
theorem rdlane (sd : SReg) (a : VReg) (lane : Fin 32) : Statement (.rdlane sd a lane) := by
  intro n w h; cases h
  exact sized32 rfl (by apply encRdlane_parity)
theorem rdfirst (sd : SReg) (a : VReg) : Statement (.rdfirst sd a) := by
  intro n w h; cases h
  exact sized32 rfl (by apply encRdlane_parity)
theorem scacc (o : ScaccOps) : Statement (.scacc o) := by
  intro n w h; cases h
  exact sized32 rfl (by apply encMxs_parity)
theorem scaccUe4m3 (o : ScaccOps) : Statement (.scaccUe4m3 o) := by
  intro n w h; cases h
  exact sized32 rfl (by apply encMxs_parity)
theorem accclr (ac : Fin 4) (band : Fin 4) : Statement (.accclr ac band) := by
  intro n w h; cases h
  exact sized32 rfl (by apply encAccclr_parity)
theorem accrd (o : TileOps) : Statement (.accrd o) := by
  intro n w h; cases h
  exact sized32 rfl (by apply encAcx_parity)
theorem accwr (o : TileOps) : Statement (.accwr o) := by
  intro n w h; cases h
  exact sized32 rfl (by apply encAcx_parity)
theorem plnrd (o : PlaneOps) : Statement (.plnrd o) := by
  intro n w h; cases h
  exact sized32 rfl (by apply encPlnrd_parity)
theorem brp (p : PReg) (neg : Bool) (off : Fin 65536) : Statement (.brp p neg off) := by
  intro n w h; cases h
  exact sized32 rfl (by apply encBr_parity)
theorem bra (off : Fin 65536) : Statement (.bra off) := by
  intro n w h; cases h
  exact sized32 rfl (by apply encBr_parity)
theorem call (off : Fin 65536) : Statement (.call off) := by
  intro n w h; cases h
  exact sized32 rfl (by apply encBr_parity)
theorem brx (a : Src) : Statement (.brx a) := by
  intro n w h; cases h
  exact sized32 rfl (by apply encBx_parity)
theorem callx (a : Src) : Statement (.callx a) := by
  intro n w h; cases h
  exact sized32 rfl (by apply encBx_parity)
theorem ret  : Statement (.ret) := by
  intro n w h; cases h
  exact sized32 rfl rfl
theorem exit  : Statement (.exit) := by
  intro n w h; cases h
  exact sized32 rfl rfl
theorem shlImm (o : ShOps) : Statement (.shlImm o) := by
  intro n w h; cases h
  exact sized32 rfl (by apply encVs_parity)
theorem shrImm (o : ShOps) : Statement (.shrImm o) := by
  intro n w h; cases h
  exact sized32 rfl (by apply encVs_parity)
theorem sarImm (o : ShOps) : Statement (.sarImm o) := by
  intro n w h; cases h
  exact sized32 rfl (by apply encVs_parity)
theorem rotImm (o : ShOps) : Statement (.rotImm o) := by
  intro n w h; cases h
  exact sized32 rfl (by apply encVs_parity)
theorem fshl (o : FunOps) : Statement (.fshl o) := by
  intro n w h; cases h
  exact sized32 rfl (by apply encVf_parity)
theorem fshr (o : FunOps) : Statement (.fshr o) := by
  intro n w h; cases h
  exact sized32 rfl (by apply encVf_parity)
theorem pfx (o : Prefix) : Statement (.pfx o) := by
  intro n w h; cases h
  exact sized32 rfl (by apply encPfx_parity)
theorem iaddC (o : COps) : Statement (.iaddC o) := by
  intro n w h; cases h
  exact sized16 rfl (by apply encC_parity)
theorem isubC (o : COps) : Statement (.isubC o) := by
  intro n w h; cases h
  exact sized16 rfl (by apply encC_parity)
theorem imulC (o : COps) : Statement (.imulC o) := by
  intro n w h; cases h
  exact sized16 rfl (by apply encC_parity)
theorem andC (o : COps) : Statement (.andC o) := by
  intro n w h; cases h
  exact sized16 rfl (by apply encC_parity)
theorem orC (o : COps) : Statement (.orC o) := by
  intro n w h; cases h
  exact sized16 rfl (by apply encC_parity)
theorem xorC (o : COps) : Statement (.xorC o) := by
  intro n w h; cases h
  exact sized16 rfl (by apply encC_parity)
theorem shlC (o : COps) : Statement (.shlC o) := by
  intro n w h; cases h
  exact sized16 rfl (by apply encC_parity)
theorem shrC (o : COps) : Statement (.shrC o) := by
  intro n w h; cases h
  exact sized16 rfl (by apply encC_parity)
theorem iminC (o : COps) : Statement (.iminC o) := by
  intro n w h; cases h
  exact sized16 rfl (by apply encC_parity)
theorem imaxC (o : COps) : Statement (.imaxC o) := by
  intro n w h; cases h
  exact sized16 rfl (by apply encC_parity)
theorem faddC (o : COps) : Statement (.faddC o) := by
  intro n w h; cases h
  exact sized16 rfl (by apply encC_parity)
theorem fsubC (o : COps) : Statement (.fsubC o) := by
  intro n w h; cases h
  exact sized16 rfl (by apply encC_parity)
theorem fmulC (o : COps) : Statement (.fmulC o) := by
  intro n w h; cases h
  exact sized16 rfl (by apply encC_parity)
theorem fminC (o : COps) : Statement (.fminC o) := by
  intro n w h; cases h
  exact sized16 rfl (by apply encC_parity)
theorem fmaxC (o : COps) : Statement (.fmaxC o) := by
  intro n w h; cases h
  exact sized16 rfl (by apply encC_parity)
theorem movC (o : COps) : Statement (.movC o) := by
  intro n w h; cases h
  exact sized16 rfl (by apply encC_parity)
theorem issueOpportunity (core : CoreId) (slice : Fin 32) : Statement (.issueOpportunity core slice) := by intro n w h; cases h
theorem ageEscape (w : WarpId) : Statement (.ageEscape w) := by intro n w h; cases h
theorem userTimerExpiry (w : WarpId) : Statement (.userTimerExpiry w) := by intro n w h; cases h
theorem icacheLineFill (core : CoreId) (line : Nat) : Statement (.icacheLineFill core line) := by intro n w h; cases h
theorem loadReply (id : Nat) : Statement (.loadReply id) := by intro n w h; cases h
theorem storeAtHome (id : Nat) : Statement (.storeAtHome id) := by intro n w h; cases h
theorem atomicAtHome (id : Nat) : Statement (.atomicAtHome id) := by intro n w h; cases h
theorem uncorrectableRead (key : Nat) (e : ReadError) : Statement (.uncorrectableRead key e) := by intro n w h; cases h
theorem pageWalkComplete (id : Nat) : Statement (.pageWalkComplete id) := by intro n w h; cases h
theorem faultBufferEntry (id : Nat) : Statement (.faultBufferEntry id) := by intro n w h; cases h
theorem faultReplay (idx : Fin 4096) (ok : Bool) : Statement (.faultReplay idx ok) := by intro n w h; cases h
theorem deferredFaultDelivery (w : WarpId) : Statement (.deferredFaultDelivery w) := by intro n w h; cases h
theorem racqGrant (w : WarpId) : Statement (.racqGrant w) := by intro n w h; cases h
theorem rrelFree (w : WarpId) : Statement (.rrelFree w) := by intro n w h; cases h
theorem jobPop (core : CoreId) (mb : Fin 8) : Statement (.jobPop core mb) := by intro n w h; cases h
theorem barrierComplete (g : Fin 256) : Statement (.barrierComplete g) := by intro n w h; cases h
theorem phaseAdvance (core : CoreId) : Statement (.phaseAdvance core) := by intro n w h; cases h
theorem phaseValueArrival (src : CoreId) (dst : CoreId) (value : BitVec 32) : Statement (.phaseValueArrival src dst value) := by intro n w h; cases h
theorem queueMessageArrival (id : Nat) : Statement (.queueMessageArrival id) := by intro n w h; cases h
theorem queueNack (id : Nat) : Statement (.queueNack id) := by intro n w h; cases h
theorem queueBackoffResend (id : Nat) : Statement (.queueBackoffResend id) := by intro n w h; cases h
theorem queueAck (id : Nat) : Statement (.queueAck id) := by intro n w h; cases h
theorem scaccPerform (core : CoreId) : Statement (.scaccPerform core) := by intro n w h; cases h
theorem goAccept (core : CoreId) (eng : Fin 9) : Statement (.goAccept core eng) := by intro n w h; cases h
theorem engineCommandComplete (id : Nat) : Statement (.engineCommandComplete id) := by intro n w h; cases h
theorem copy (id : Nat) : Statement (.copy id) := by intro n w h; cases h
theorem fill (id : Nat) : Statement (.fill id) := by intro n w h; cases h
theorem qfence (id : Nat) : Statement (.qfence id) := by intro n w h; cases h
theorem pinl2 (id : Nat) : Statement (.pinl2 id) := by intro n w h; cases h
theorem unpin (id : Nat) : Statement (.unpin id) := by intro n w h; cases h
theorem bcol (id : Nat) : Statement (.bcol id) := by intro n w h; cases h
theorem accout (id : Nat) : Statement (.accout id) := by intro n w h; cases h
theorem matrixAcc (id : Nat) : Statement (.matrixAcc id) := by intro n w h; cases h
theorem matrixPlane (id : Nat) : Statement (.matrixPlane id) := by intro n w h; cases h
theorem matrixAccClear (id : Nat) : Statement (.matrixAccClear id) := by intro n w h; cases h
theorem matrixBlockStep (id : Nat) : Statement (.matrixBlockStep id) := by intro n w h; cases h
theorem gather (id : Nat) : Statement (.gather id) := by intro n w h; cases h
theorem nred (id : Nat) : Statement (.nred id) := by intro n w h; cases h
theorem bcast (id : Nat) : Statement (.bcast id) := by intro n w h; cases h
theorem collectiveTimeout (id : Nat) : Statement (.collectiveTimeout id) := by intro n w h; cases h
theorem eventRequestArrival (id : Nat) : Statement (.eventRequestArrival id) := by intro n w h; cases h
theorem mailboxPush (id : Nat) : Statement (.mailboxPush id) := by intro n w h; cases h
theorem kilnRemoteRequest (r : RemoteReq) : Statement (.kilnRemoteRequest r) := by intro n w h; cases h
theorem kilnRemoteAnswer (r : RemoteAns) : Statement (.kilnRemoteAnswer r) := by intro n w h; cases h
theorem tile (st : StreamId) : Statement (.tile st) := by intro n w h; cases h
theorem waitev (st : StreamId) : Statement (.waitev st) := by intro n w h; cases h
theorem sigev (st : StreamId) : Statement (.sigev st) := by intro n w h; cases h
theorem jump (st : StreamId) : Statement (.jump st) := by intro n w h; cases h
theorem loop (st : StreamId) : Statement (.loop st) := by intro n w h; cases h
theorem kopFence (st : StreamId) : Statement (.kopFence st) := by intro n w h; cases h
theorem yield (st : StreamId) : Statement (.yield st) := by intro n w h; cases h
theorem hostsig (st : StreamId) : Statement (.hostsig st) := by intro n w h; cases h
theorem pin (st : StreamId) : Statement (.pin st) := by intro n w h; cases h
theorem kopUnpin (st : StreamId) : Statement (.kopUnpin st) := by intro n w h; cases h
theorem prefetch (st : StreamId) : Statement (.prefetch st) := by intro n w h; cases h
theorem drop (st : StreamId) : Statement (.drop st) := by intro n w h; cases h
theorem endStream (st : StreamId) : Statement (.endStream st) := by intro n w h; cases h
theorem streamRun (st : StreamId) : Statement (.streamRun st) := by intro n w h; cases h
theorem streamStop (st : StreamId) : Statement (.streamStop st) := by intro n w h; cases h
theorem klnSpcWrite (st : StreamId) (v : BitVec 64) : Statement (.klnSpcWrite st v) := by intro n w h; cases h
theorem klnSloopWrite (st : StreamId) (v : BitVec 64) : Statement (.klnSloopWrite st v) := by intro n w h; cases h
theorem klnSsaveWrite (st : StreamId) (v : BitVec 64) : Statement (.klnSsaveWrite st v) := by intro n w h; cases h
theorem klnEvFreeWrite (e : Fin 65536) (v : BitVec 128) : Statement (.klnEvFreeWrite e v) := by intro n w h; cases h
theorem klnPreempt (v : BitVec 64) : Statement (.klnPreempt v) := by intro n w h; cases h
theorem preemptAutomatic (e : Nat) : Statement (.preemptAutomatic e) := by intro n w h; cases h
theorem drainStepAdvance (st : StreamId) : Statement (.drainStepAdvance st) := by intro n w h; cases h
theorem drainTimeout (st : StreamId) : Statement (.drainTimeout st) := by intro n w h; cases h
theorem streamResume (st : StreamId) : Statement (.streamResume st) := by intro n w h; cases h
theorem restoreVerify (st : StreamId) : Statement (.restoreVerify st) := by intro n w h; cases h
theorem registerWrite (r : RegWrite) : Statement (.registerWrite r) := by intro n w h; cases h
theorem blkctlContinue (core : CoreId) (g : Fin 256) : Statement (.blkctlContinue core g) := by intro n w h; cases h
theorem blkctlDiscard (core : CoreId) (g : Fin 256) : Statement (.blkctlDiscard core g) := by intro n w h; cases h
theorem memOwnerWrite (core : CoreId) (v : BitVec 64) : Statement (.memOwnerWrite core v) := by intro n w h; cases h
theorem klnWake (core : CoreId) : Statement (.klnWake core) := by intro n w h; cases h
theorem tlbiComplete (w : WarpId) : Statement (.tlbiComplete w) := by intro n w h; cases h
theorem dbgStop (core : CoreId) (v : BitVec 64) : Statement (.dbgStop core v) := by intro n w h; cases h
theorem traceSample (core : CoreId) : Statement (.traceSample core) := by intro n w h; cases h
theorem coneTick  : Statement (.coneTick) := by intro n w h; cases h
theorem coneEpochAlert  : Statement (.coneEpochAlert) := by intro n w h; cases h
theorem conePhysStop  : Statement (.conePhysStop) := by intro n w h; cases h
theorem conePhysWrite (v : BitVec 64) : Statement (.conePhysWrite v) := by intro n w h; cases h
theorem hbmSlotServe (id : Nat) : Statement (.hbmSlotServe id) := by intro n w h; cases h
theorem hbmRefresh (bank : Nat) : Statement (.hbmRefresh bank) := by intro n w h; cases h
theorem ualinkPacketReceive (p : Packet) : Statement (.ualinkPacketReceive p) := by intro n w h; cases h
theorem ualinkCrcError (port : Fin 16) (again : Bool) : Statement (.ualinkCrcError port again) := by intro n w h; cases h
theorem linkTraining (port : Fin 16) (lat : BitVec 64) : Statement (.linkTraining port lat) := by intro n w h; cases h
theorem linkDown (port : Fin 16) : Statement (.linkDown port) := by intro n w h; cases h
theorem bar2Access (a : Bar2) : Statement (.bar2Access a) := by intro n w h; cases h
theorem hoh2dReleased (f : Fin 16) : Statement (.hoh2dReleased f) := by intro n w h; cases h
theorem hoh2dGiveRequest (f : Fin 16) : Statement (.hoh2dGiveRequest f) := by intro n w h; cases h
theorem msixUnmask (f : Fin 16) (vec : Fin 64) : Statement (.msixUnmask f vec) := by intro n w h; cases h
theorem functionLevelReset (f : Fin 16) : Statement (.functionLevelReset f) := by intro n w h; cases h
theorem flrCommandTimeout (f : Fin 16) : Statement (.flrCommandTimeout f) := by intro n w h; cases h
theorem partitionEnable (f : Fin 16) (v : BitVec 64) : Statement (.partitionEnable f v) := by intro n w h; cases h
theorem secSvnWrite (v : BitVec 64) : Statement (.secSvnWrite v) := by intro n w h; cases h
theorem capFrame (fr : CapFrame) : Statement (.capFrame fr) := by intro n w h; cases h
theorem capExpiry (i : Nat) : Statement (.capExpiry i) := by intro n w h; cases h
theorem partitionDutyWindow (f : Fin 16) : Statement (.partitionDutyWindow f) := by intro n w h; cases h
theorem thermalLimit (t : Thermal) : Statement (.thermalLimit t) := by intro n w h; cases h
theorem bringUp (b : BringUp) : Statement (.bringUp b) := by intro n w h; cases h
theorem spdmRequest (q : SpdmReq) : Statement (.spdmRequest q) := by intro n w h; cases h
theorem encodingNotAnInstruction  : Statement (.encodingNotAnInstruction) := by intro n w h; cases h
theorem badkop (st : StreamId) : Statement (.badkop st) := by intro n w h; cases h
theorem operatorWordFetchFault (st : StreamId) : Statement (.operatorWordFetchFault st) := by intro n w h; cases h
theorem engineSourceReply (id : Nat) : Statement (.engineSourceReply id) := by intro n w h; cases h

end Sized

end Sys2Proof.Laws
end

