-- ==== Sys2Proof/Laws/Uses.lean ====
section
/-!
SUPPORT. Sys2Proof/Laws/Uses.lean: what each instruction reads, writes and frees, one lemma for each constructor.
-/

namespace Sys2Proof.Machine
open Sys2Proof

set_option Elab.async false
set_option autoImplicit true

theorem usesOf_iadd o p : usesOf (.iadd o) p =
    usesV o := rfl
theorem usesOf_isub o p : usesOf (.isub o) p =
    usesV o := rfl
theorem usesOf_imul o p : usesOf (.imul o) p =
    usesV o := rfl
theorem usesOf_imulh o p : usesOf (.imulh o) p =
    usesV o := rfl
theorem usesOf_imin o p : usesOf (.imin o) p =
    usesV o := rfl
theorem usesOf_imax o p : usesOf (.imax o) p =
    usesV o := rfl
theorem usesOf_umin o p : usesOf (.umin o) p =
    usesV o := rfl
theorem usesOf_umax o p : usesOf (.umax o) p =
    usesV o := rfl
theorem usesOf_and o p : usesOf (.and o) p =
    usesV o := rfl
theorem usesOf_or o p : usesOf (.or o) p =
    usesV o := rfl
theorem usesOf_xor o p : usesOf (.xor o) p =
    usesV o := rfl
theorem usesOf_andn o p : usesOf (.andn o) p =
    usesV o := rfl
theorem usesOf_shl o p : usesOf (.shl o) p =
    usesV o := rfl
theorem usesOf_shr o p : usesOf (.shr o) p =
    usesV o := rfl
theorem usesOf_sar o p : usesOf (.sar o) p =
    usesV o := rfl
theorem usesOf_rot o p : usesOf (.rot o) p =
    usesV o := rfl
theorem usesOf_bfx o p : usesOf (.bfx o) p =
    usesV o := rfl
theorem usesOf_bfxs o p : usesOf (.bfxs o) p =
    usesV o := rfl
theorem usesOf_umulh o p : usesOf (.umulh o) p =
    usesV o := rfl
theorem usesOf_idiv o p : usesOf (.idiv o) p =
    usesV o := rfl
theorem usesOf_udiv o p : usesOf (.udiv o) p =
    usesV o := rfl
theorem usesOf_fadd o p : usesOf (.fadd o) p =
    usesV o := rfl
theorem usesOf_fsub o p : usesOf (.fsub o) p =
    usesV o := rfl
theorem usesOf_fmul o p : usesOf (.fmul o) p =
    usesV o := rfl
theorem usesOf_fmin o p : usesOf (.fmin o) p =
    usesV o := rfl
theorem usesOf_fmax o p : usesOf (.fmax o) p =
    usesV o := rfl
theorem usesOf_fminn o p : usesOf (.fminn o) p =
    usesV o := rfl
theorem usesOf_fmaxn o p : usesOf (.fmaxn o) p =
    usesV o := rfl
theorem usesOf_badd2 o p : usesOf (.badd2 o) p =
    usesV o := rfl
theorem usesOf_bmul2 o p : usesOf (.bmul2 o) p =
    usesV o := rfl
theorem usesOf_bmax2 o p : usesOf (.bmax2 o) p =
    usesV o := rfl
theorem usesOf_hadd2 o p : usesOf (.hadd2 o) p =
    usesV o := rfl
theorem usesOf_hmul2 o p : usesOf (.hmul2 o) p =
    usesV o := rfl
theorem usesOf_hmax2 o p : usesOf (.hmax2 o) p =
    usesV o := rfl
theorem usesOf_fldexp o p : usesOf (.fldexp o) p =
    usesV o := rfl
theorem usesOf_bfi o p : usesOf (.bfi o) p =
    { usesV o with src := o.d.val :: (usesV o).src } := rfl
theorem usesOf_imad o p : usesOf (.imad o) p =
    usesFused o p := rfl
theorem usesOf_ffma o p : usesOf (.ffma o) p =
    usesFused o p := rfl
theorem usesOf_bfma2 o p : usesOf (.bfma2 o) p =
    usesFused o p := rfl
theorem usesOf_hfma2 o p : usesOf (.hfma2 o) p =
    usesFused o p := rfl
theorem usesOf_shflIdx o p : usesOf (.shflIdx o) p =
    { usesV o with src := (usesV o).src ++ memberSrc p } := rfl
theorem usesOf_shflUp o p : usesOf (.shflUp o) p =
    { usesV o with src := (usesV o).src ++ memberSrc p } := rfl
theorem usesOf_shflDn o p : usesOf (.shflDn o) p =
    { usesV o with src := (usesV o).src ++ memberSrc p } := rfl
theorem usesOf_shflXor o p : usesOf (.shflXor o) p =
    { usesV o with src := (usesV o).src ++ memberSrc p } := rfl
theorem usesOf_xpush o p : usesOf (.xpush o) p =
    { usesV o with src := (usesV o).src ++ memberSrc p } := rfl
theorem usesOf_voteEq o p : usesOf (.voteEq o) p =
    { usesV o with src := (usesV o).src ++ memberSrc p } := rfl
theorem usesOf_voteAll o p : usesOf (.voteAll o) p =
    { usesU o with src := (usesU o).src ++ memberSrc p } := rfl
theorem usesOf_voteAny o p : usesOf (.voteAny o) p =
    { usesU o with src := (usesU o).src ++ memberSrc p } := rfl
theorem usesOf_voteBal o p : usesOf (.voteBal o) p =
    { usesU o with src := (usesU o).src ++ memberSrc p } := rfl
theorem usesOf_redux o p : usesOf (.redux o) p =
    { src := opdSrc o.a ++ memberSrc p, dst := [o.d.val], last := opdLast o.a } := rfl
theorem usesOf_scan o p : usesOf (.scan o) p =
    { src := opdSrc o.a ++ memberSrc p, dst := [o.d.val], last := opdLast o.a } := rfl
theorem usesOf_scanX o p : usesOf (.scanX o) p =
    { src := opdSrc o.a ++ memberSrc p, dst := [o.d.val], last := opdLast o.a } := rfl
theorem usesOf_popc o p : usesOf (.popc o) p =
    usesU o := rfl
theorem usesOf_clz o p : usesOf (.clz o) p =
    usesU o := rfl
theorem usesOf_ctz o p : usesOf (.ctz o) p =
    usesU o := rfl
theorem usesOf_brev o p : usesOf (.brev o) p =
    usesU o := rfl
theorem usesOf_frcp o p : usesOf (.frcp o) p =
    usesU o := rfl
theorem usesOf_frsq o p : usesOf (.frsq o) p =
    usesU o := rfl
theorem usesOf_fsqrt o p : usesOf (.fsqrt o) p =
    usesU o := rfl
theorem usesOf_fexp2 o p : usesOf (.fexp2 o) p =
    usesU o := rfl
theorem usesOf_flog2 o p : usesOf (.flog2 o) p =
    usesU o := rfl
theorem usesOf_fsin o p : usesOf (.fsin o) p =
    usesU o := rfl
theorem usesOf_fcos o p : usesOf (.fcos o) p =
    usesU o := rfl
theorem usesOf_ftanh o p : usesOf (.ftanh o) p =
    usesU o := rfl
theorem usesOf_frnd o p : usesOf (.frnd o) p =
    usesU o := rfl
theorem usesOf_ffrac o p : usesOf (.ffrac o) p =
    usesU o := rfl
theorem usesOf_fclass o p : usesOf (.fclass o) p =
    usesU o := rfl
theorem usesOf_mov o p : usesOf (.mov o) p =
    usesU o := rfl
theorem usesOf_mov64 o p : usesOf (.mov64 o) p =
    { src := opdSrc64 o.a, dst := [o.d.val, o.d.val + 1], last := opdLast64 o.a } := rfl
theorem usesOf_lut3 o p : usesOf (.lut3 o) p =
    { src := [o.a.val, o.b.val, o.d.val], dst := [o.d.val], last := (if o.la then [o.a.val] else []) ++ (if o.lb then [o.b.val] else []) } := rfl
theorem usesOf_fcvt o p : usesOf (.fcvt o) p =
    { src := opdSrc o.a, dst := [o.d.val], last := opdLast o.a } := rfl
theorem usesOf_fcvtSat o p : usesOf (.fcvtSat o) p =
    { src := opdSrc o.a, dst := [o.d.val], last := opdLast o.a } := rfl
theorem usesOf_icmp o p : usesOf (.icmp o) p =
    { src := opdSrc o.a ++ opdSrc o.b, dst := [codeP o.p.val], last := opdLast o.a ++ opdLast o.b } := rfl
theorem usesOf_fcmp o p : usesOf (.fcmp o) p =
    { src := opdSrc o.a ++ opdSrc o.b, dst := [codeP o.p.val], last := opdLast o.a ++ opdLast o.b } := rfl
theorem usesOf_sel o p : usesOf (.sel o) p =
    { src := psrcSrc o.p ++ [o.a.val, o.b.val], dst := [o.d.val], last := (if o.la then [o.a.val] else []) ++ (if o.lb then [o.b.val] else []) } := rfl
theorem usesOf_plop o p : usesOf (.plop o) p =
    { src := psrcSrc o.pa ++ psrcSrc o.pb, dst := [codeP o.pd.val] } := rfl
theorem usesOf_p2v d q p : usesOf (.p2v d q) p =
    { src := psrcSrc q, dst := [d.val] } := rfl
theorem usesOf_v2p q a p : usesOf (.v2p q a) p =
    { src := srcSrc a, dst := [codeP q.val] } := rfl
theorem usesOf_elect q p : usesOf (.elect q) p =
    { dst := [codeP q.val] } := rfl
theorem usesOf_pbal d q a p : usesOf (.pbal d q a) p =
    { src := psrcSrc q ++ srcSrc a, dst := [d.val] } := rfl
theorem usesOf_movsr d n p : usesOf (.movsr d n) p =
    { inner := if n.val = 36 then [codeFp] else [], dst := [d.val] } := rfl
theorem usesOf_movsw y0 a p : usesOf (.movsw y0 a) p =
    { src := opdSrc a, last := opdLast a } := rfl
theorem usesOf_movil o p : usesOf (.movil o) p =
    { dst := [o.d.val] } := rfl
theorem usesOf_movis o p : usesOf (.movis o) p =
    { dst := [o.d.val] } := rfl
theorem usesOf_movif o p : usesOf (.movif o) p =
    { dst := [o.d.val] } := rfl
theorem usesOf_movih o p : usesOf (.movih o) p =
    { src := [o.d.val], dst := [o.d.val] } := rfl
theorem usesOf_rand d p : usesOf (.rand d) p =
    { dst := [d.val] } := rfl
theorem usesOf_randf d p : usesOf (.randf d) p =
    { dst := [d.val] } := rfl
theorem usesOf_rseed a b p : usesOf (.rseed a b) p =
    { src := opdSrc a ++ opdSrc b, last := opdLast a ++ opdLast b } := rfl
theorem usesOf_rskip a p : usesOf (.rskip a) p =
    { src := opdSrc a, last := opdLast a } := rfl
theorem usesOf_npack o p : usesOf (.npack o) p =
    { src := regRun o.a.num (o.idx.val + 1) ++ [o.d.val], dst := [o.d.val] } := rfl
theorem usesOf_nunpk o p : usesOf (.nunpk o) p =
    { src := srcSrc o.a, dst := regRun o.d.val (o.idx.val + 1) } := rfl
theorem usesOf_next o p : usesOf (.next o) p =
    { src := srcSrc o.a, dst := [o.d.val] } := rfl
theorem usesOf_nins o p : usesOf (.nins o) p =
    { src := srcSrc o.a ++ [o.d.val], dst := [o.d.val] } := rfl
theorem usesOf_aidx o p : usesOf (.aidx o) p =
    usesPair o false := rfl
theorem usesOf_aidxu o p : usesOf (.aidxu o) p =
    usesPair o false := rfl
theorem usesOf_algn o p : usesOf (.algn o) p =
    usesPair o false := rfl
theorem usesOf_b2a o p : usesOf (.b2a o) p =
    usesPair o false := rfl
theorem usesOf_a2b o p : usesOf (.a2b o) p =
    usesPair o false := rfl
theorem usesOf_adif o p : usesOf (.adif o) p =
    usesPair o true := rfl
theorem usesOf_aadd o p : usesOf (.aadd o) p =
    usesPair o true := rfl
theorem usesOf_asub o p : usesOf (.asub o) p =
    usesPair o true := rfl
theorem usesOf_ld o p : usesOf (.ld o) p =
    usesLd o (srcSrc o.x) := rfl
theorem usesOf_ldv o p : usesOf (.ldv o) p =
    usesLd o (srcSrc64 o.x) := rfl
theorem usesOf_st o p : usesOf (.st o) p =
    usesSt o (srcSrc o.x) := rfl
theorem usesOf_stv o p : usesOf (.stv o) p =
    usesSt o (srcSrc64 o.x) := rfl
theorem usesOf_lda o p : usesOf (.lda o) p =
    { src := codeS o.sb.val :: srcSrc o.x, dst := regRun o.d.val (if o.w64 then 2 else 1) } := rfl
theorem usesOf_ldc o p : usesOf (.ldc o) p =
    { src := codeS o.sb.val :: srcSrc o.x, dst := regRun o.d.val (if o.w64 then 2 else 1) } := rfl
theorem usesOf_str o p : usesOf (.str o) p =
    { src := codeS o.sb.val :: (srcSrc o.x ++ dataSrc o.d (if o.w64 then 2 else 1)) } := rfl
theorem usesOf_stc o p : usesOf (.stc o) p =
    { src := codeS o.sb.val :: (srcSrc o.x ++ dataSrc o.d (if o.w64 then 2 else 1)) } := rfl
theorem usesOf_atom o p : usesOf (.atom o) p =
    usesAtom o true := rfl
theorem usesOf_atomn o p : usesOf (.atomn o) p =
    usesAtom o false := rfl
theorem usesOf_prefL1 o p : usesOf (.prefL1 o) p =
    { src := codeS o.sb.val :: srcSrc o.x } := rfl
theorem usesOf_prefL2 o p : usesOf (.prefL2 o) p =
    { src := codeS o.sb.val :: srcSrc o.x } := rfl
theorem usesOf_cinv o p : usesOf (.cinv o) p =
    { src := codeS o.sb.val :: srcSrc o.x } := rfl
theorem usesOf_tagwa sa p : usesOf (.tagwa sa) p =
    { src := [codeS sa.val] } := rfl
theorem usesOf_tagclr sa p : usesOf (.tagclr sa) p =
    { src := [codeS sa.val] } := rfl
theorem usesOf_jyield sa p : usesOf (.jyield sa) p =
    { src := [codeS sa.val] } := rfl
theorem usesOf_fref sa y1 p : usesOf (.fref sa y1) p =
    { src := [codeS sa.val] } := rfl
theorem usesOf_fdrop sa y1 p : usesOf (.fdrop sa y1) p =
    { src := [codeS sa.val] } := rfl
theorem usesOf_fwait sa p : usesOf (.fwait sa) p =
    { src := [codeS sa.val] } := rfl
theorem usesOf_evsig sa y1 p : usesOf (.evsig sa y1) p =
    { src := [codeS sa.val] } := rfl
theorem usesOf_tmset sa p : usesOf (.tmset sa) p =
    { src := [codeS sa.val] } := rfl
theorem usesOf_tlbi sa y1 p : usesOf (.tlbi sa y1) p =
    { src := [codeS sa.val] } := rfl
theorem usesOf_tagwy sd sa p : usesOf (.tagwy sd sa) p =
    { src := [codeS sa.val], dst := [codeS sd.val] } := rfl
theorem usesOf_tagff sd sa p : usesOf (.tagff sd sa) p =
    { src := [codeS sa.val], dst := [codeS sd.val] } := rfl
theorem usesOf_sysr sd sa y2 p : usesOf (.sysr sd sa y2) p =
    { src := [codeS sa.val], dst := [codeS sd.val] } := rfl
theorem usesOf_tagrd sd y1 p : usesOf (.tagrd sd y1) p =
    { dst := [codeS sd.val] } := rfl
theorem usesOf_qrcv sd y1 p : usesOf (.qrcv sd y1) p =
    { dst := [codeS sd.val] } := rfl
theorem usesOf_racq sd y1 y2 p : usesOf (.racq sd y1 y2) p =
    { dst := [codeS sd.val] } := rfl
theorem usesOf_rqry sd y1 p : usesOf (.rqry sd y1) p =
    { dst := [codeS sd.val] } := rfl
theorem usesOf_conerd sd p : usesOf (.conerd sd) p =
    { dst := [codeS sd.val] } := rfl
theorem usesOf_jpop sd y1 p : usesOf (.jpop sd y1) p =
    { dst := (regRun sd.val 4).map codeS } := rfl
theorem usesOf_fspawn sd sa p : usesOf (.fspawn sd sa) p =
    { src := (regRun sa.val 4).map codeS, dst := [codeS sd.val] } := rfl
theorem usesOf_fpoll sd sa q p : usesOf (.fpoll sd sa q) p =
    { src := [codeS sa.val], dst := [codeS sd.val, codeP q.val] } := rfl
theorem usesOf_qsnd sd sa p : usesOf (.qsnd sd sa) p =
    { src := [codeS sd.val, codeS sa.val] } := rfl
theorem usesOf_sysw sd sa y2 p : usesOf (.sysw sd sa y2) p =
    { src := [codeS sd.val, codeS sa.val] } := rfl
theorem usesOf_qpoll sd y1 q p : usesOf (.qpoll sd y1 q) p =
    { dst := [codeS sd.val, codeP q.val] } := rfl
theorem usesOf_sadd o p : usesOf (.sadd o) p =
    usesS o := rfl
theorem usesOf_ssub o p : usesOf (.ssub o) p =
    usesS o := rfl
theorem usesOf_smul o p : usesOf (.smul o) p =
    usesS o := rfl
theorem usesOf_smulh o p : usesOf (.smulh o) p =
    usesS o := rfl
theorem usesOf_sand o p : usesOf (.sand o) p =
    usesS o := rfl
theorem usesOf_sor o p : usesOf (.sor o) p =
    usesS o := rfl
theorem usesOf_sxor o p : usesOf (.sxor o) p =
    usesS o := rfl
theorem usesOf_sshl o p : usesOf (.sshl o) p =
    usesS o := rfl
theorem usesOf_sshr o p : usesOf (.sshr o) p =
    usesS o := rfl
theorem usesOf_ssar o p : usesOf (.ssar o) p =
    usesS o := rfl
theorem usesOf_smin o p : usesOf (.smin o) p =
    usesS o := rfl
theorem usesOf_smax o p : usesOf (.smax o) p =
    usesS o := rfl
theorem usesOf_sminu o p : usesOf (.sminu o) p =
    usesS o := rfl
theorem usesOf_smaxu o p : usesOf (.smaxu o) p =
    usesS o := rfl
theorem usesOf_sdivu o p : usesOf (.sdivu o) p =
    usesS o := rfl
theorem usesOf_smov o p : usesOf (.smov o) p =
    usesS o := rfl
theorem usesOf_saddImm o p : usesOf (.saddImm o) p =
    usesSi o := rfl
theorem usesOf_ssubImm o p : usesOf (.ssubImm o) p =
    usesSi o := rfl
theorem usesOf_smulImm o p : usesOf (.smulImm o) p =
    usesSi o := rfl
theorem usesOf_smulhImm o p : usesOf (.smulhImm o) p =
    usesSi o := rfl
theorem usesOf_sandImm o p : usesOf (.sandImm o) p =
    usesSi o := rfl
theorem usesOf_sorImm o p : usesOf (.sorImm o) p =
    usesSi o := rfl
theorem usesOf_sxorImm o p : usesOf (.sxorImm o) p =
    usesSi o := rfl
theorem usesOf_sshlImm o p : usesOf (.sshlImm o) p =
    usesSi o := rfl
theorem usesOf_sshrImm o p : usesOf (.sshrImm o) p =
    usesSi o := rfl
theorem usesOf_ssarImm o p : usesOf (.ssarImm o) p =
    usesSi o := rfl
theorem usesOf_sminImm o p : usesOf (.sminImm o) p =
    usesSi o := rfl
theorem usesOf_smaxImm o p : usesOf (.smaxImm o) p =
    usesSi o := rfl
theorem usesOf_sminuImm o p : usesOf (.sminuImm o) p =
    usesSi o := rfl
theorem usesOf_smaxuImm o p : usesOf (.smaxuImm o) p =
    usesSi o := rfl
theorem usesOf_sdivuImm o p : usesOf (.sdivuImm o) p =
    usesSi o := rfl
theorem usesOf_smovImm o p : usesOf (.smovImm o) p =
    usesSi o := rfl
theorem usesOf_smoviZ sd y1 p : usesOf (.smoviZ sd y1) p =
    { dst := [codeS sd.val] } := rfl
theorem usesOf_smoviH1 sd y1 p : usesOf (.smoviH1 sd y1) p =
    { inner := [codeS sd.val], dst := [codeS sd.val] } := rfl
theorem usesOf_smoviH2 sd y1 p : usesOf (.smoviH2 sd y1) p =
    { inner := [codeS sd.val], dst := [codeS sd.val] } := rfl
theorem usesOf_smoviH3 sd y1 p : usesOf (.smoviH3 sd y1) p =
    { inner := [codeS sd.val], dst := [codeS sd.val] } := rfl
theorem usesOf_scmp o p : usesOf (.scmp o) p =
    { src := [codeS o.sa.val, codeS o.sb.val], dst := [codeP o.p.val] } := rfl
theorem usesOf_saidx o p : usesOf (.saidx o) p =
    { src := [codeS o.sa.val, codeS o.sb.val], dst := [codeS o.sd.val] } := rfl
theorem usesOf_salgn o p : usesOf (.salgn o) p =
    { src := [codeS o.sa.val, codeS o.sb.val], dst := [codeS o.sd.val] } := rfl
theorem usesOf_sb2a o p : usesOf (.sb2a o) p =
    { src := [codeS o.sa.val, codeS o.sb.val], dst := [codeS o.sd.val] } := rfl
theorem usesOf_sa2b o p : usesOf (.sa2b o) p =
    { src := [codeS o.sa.val, codeS o.sb.val], dst := [codeS o.sd.val] } := rfl
theorem usesOf_rdlane sd a y2 p : usesOf (.rdlane sd a y2) p =
    { src := [a.val], dst := [codeS sd.val] } := rfl
theorem usesOf_rdfirst sd a p : usesOf (.rdfirst sd a) p =
    { src := [a.val], dst := [codeS sd.val] } := rfl
theorem usesOf_scacc o p : usesOf (.scacc o) p =
    { src := codeAcc o.ac.val :: codeAcc (4 + o.pl.val) :: (srcSrc o.va ++ regRun o.vb.val 4) } := rfl
theorem usesOf_scaccUe4m3 o p : usesOf (.scaccUe4m3 o) p =
    { src := codeAcc o.ac.val :: codeAcc (4 + o.pl.val) :: (srcSrc o.va ++ regRun o.vb.val 4) } := rfl
theorem usesOf_accrd o p : usesOf (.accrd o) p =
    { src := [codeAcc o.ac.val], dst := regRun o.d.val 4 } := rfl
theorem usesOf_accwr o p : usesOf (.accwr o) p =
    { src := regRun o.d.val 4 } := rfl
theorem usesOf_plnrd o p : usesOf (.plnrd o) p =
    { src := [codeAcc (4 + o.pl.val)], dst := regRun o.d.val 4 } := rfl
theorem usesOf_brp q y1 y2 p : usesOf (.brp q y1 y2) p =
    { src := [codeP q.val] } := rfl
theorem usesOf_brx a p : usesOf (.brx a) p =
    { src := srcSrc64 a } := rfl
theorem usesOf_callx a p : usesOf (.callx a) p =
    { src := srcSrc64 a } := rfl
theorem usesOf_shlImm o p : usesOf (.shlImm o) p =
    { src := opdSrc o.a, dst := [o.d.val], last := opdLast o.a } := rfl
theorem usesOf_shrImm o p : usesOf (.shrImm o) p =
    { src := opdSrc o.a, dst := [o.d.val], last := opdLast o.a } := rfl
theorem usesOf_sarImm o p : usesOf (.sarImm o) p =
    { src := opdSrc o.a, dst := [o.d.val], last := opdLast o.a } := rfl
theorem usesOf_rotImm o p : usesOf (.rotImm o) p =
    { src := opdSrc o.a, dst := [o.d.val], last := opdLast o.a } := rfl
theorem usesOf_fshl o p : usesOf (.fshl o) p =
    { src := [o.a.val, o.b.val], dst := [o.d.val] } := rfl
theorem usesOf_fshr o p : usesOf (.fshr o) p =
    { src := [o.a.val, o.b.val], dst := [o.d.val] } := rfl
theorem usesOf_iaddC o p : usesOf (.iaddC o) p =
    usesC o := rfl
theorem usesOf_isubC o p : usesOf (.isubC o) p =
    usesC o := rfl
theorem usesOf_imulC o p : usesOf (.imulC o) p =
    usesC o := rfl
theorem usesOf_andC o p : usesOf (.andC o) p =
    usesC o := rfl
theorem usesOf_orC o p : usesOf (.orC o) p =
    usesC o := rfl
theorem usesOf_xorC o p : usesOf (.xorC o) p =
    usesC o := rfl
theorem usesOf_shlC o p : usesOf (.shlC o) p =
    usesC o := rfl
theorem usesOf_shrC o p : usesOf (.shrC o) p =
    usesC o := rfl
theorem usesOf_iminC o p : usesOf (.iminC o) p =
    usesC o := rfl
theorem usesOf_imaxC o p : usesOf (.imaxC o) p =
    usesC o := rfl
theorem usesOf_faddC o p : usesOf (.faddC o) p =
    usesC o := rfl
theorem usesOf_fsubC o p : usesOf (.fsubC o) p =
    usesC o := rfl
theorem usesOf_fmulC o p : usesOf (.fmulC o) p =
    usesC o := rfl
theorem usesOf_fminC o p : usesOf (.fminC o) p =
    usesC o := rfl
theorem usesOf_fmaxC o p : usesOf (.fmaxC o) p =
    usesC o := rfl
theorem usesOf_movC o p : usesOf (.movC o) p =
    { src := [o.b.val], dst := [o.d.val], last := if o.lb then [o.b.val] else [] } := rfl

end Sys2Proof.Machine
end

