-- ==== Sys2Proof/Tests/Slice0.lean ====
section
/-!
SUPPORT. Sys2Proof/Tests/Slice0.lean: the author's own tests: a term that each check of WellFormed refuses; words of the
spec's own encodings; one step of an instruction on a small state, with the value that the spec's examples give; and, for
each statement with hypotheses, states and operands that meet them.
-/

set_option Elab.async false

namespace Sys2Proof.Tests
open Sys2Proof Sys2Proof.Machine

/-! ## Small states -/

/-- A clause body of sixteen words at bit address 64, with SETA f0 and SETB f1. -/
def bod : Body :=
  { hdr := 0, pc := 64, stop := 576, prio := 0, mask := 0xFFFFFFFF, setA := some 0, setB := some 1, kernel := false }

/-- A warp in that body with three registers: 7, 3 and -1 in every thread; s7 is 64 and s8 is 1. -/
def war : Warp :=
  { Warp.blank with
    floor := 96, body := some bod,
    v := [(1, Vector.replicate 32 7), (2, Vector.replicate 32 3), (3, Vector.replicate 32 0xFFFFFFFF)],
    s := ((Vector.replicate 32 0).set 7 64).set 8 1 }

/-- The warp with other values in v1, v2 and v3. -/
def vals (a b c : W32) : Warp :=
  { war with v := [(1, Vector.replicate 32 a), (2, Vector.replicate 32 b), (3, Vector.replicate 32 c)] }

/-- A chip with that warp at residency slot 0, about to issue the instruction at 64. -/
def chipOf (x : Warp) (next : W64) (p : Option Prefix) : Chip :=
  { State.reset.chip with
    warps := [(0, x)], phase := .issue, cycle := 100, cur := { w := 0, pc := 64, faultPc := 64, next := next, pfx := p } }

def at_ (x : Warp) : State := { State.reset with chip := chipOf x 96 none }
/-- As `at_`, with the instruction last in its body. -/
def last_ (x : Warp) : State := { State.reset with chip := chipOf x 576 none }
/-- As `at_`, behind a prefix. -/
def behind (p : Prefix) : State := { State.reset with chip := chipOf war 128 (some p) }
/-- As `at_`, with a page of HBM at 0 that may be read and written. -/
def paged (x : Warp) : State :=
  { State.reset with chip := modCore (chipOf x 96 none) 0 fun k => { k with tlb := [fetchLeaf 0] } }
/-- The chip with core 0 changed. -/
def core0 (s : State) (f : Core → Core) : State := { s with chip := modCore s.chip 0 f }
def withChip (f : Chip → Chip) : State := { State.reset with chip := f (chipOf war 96 none) }

/-- A warp in kernel mode. -/
def kern : Warp := { war with kernel := true, body := some { bod with kernel := true } }
def kbod : Body := { bod with kernel := true }

/-- A prefix that saturates in every thread, and one that masks with p0 and zeroes. -/
def sat : Prefix := ⟨false, true, false, .v 0 false, 6, .p 0, .none⟩
def zeroing : Prefix := ⟨false, false, false, .v 0 false, 6, .p 0, .zero⟩

/-- An outcome is a next state. -/
def isNext (o : Host.Outcome State Fault Refusal) : Bool :=
  match o with
  | .next _ => true
  | _ => false

theorem next_of {o : Host.Outcome State Fault Refusal} (h : isNext o = true) : ∃ t, o = .next t := by
  cases o with
  | next t => exact ⟨t, rfl⟩
  | fault _ => cases h
  | refused _ => cases h

/-- The instruction gives a next state of which `f` holds, with its warp. -/
def gives (i : Instr) (s : State) (f : State → Warp → Bool) : Bool :=
  match exec i s with
  | .next t =>
    match sget t.chip.warps s.warpNo with
    | some y => f t y
    | none => false
  | _ => false

/-- It leaves a value in vd of thread k. -/
def leaves (i : Instr) (x : Warp) (d : Nat) (k : Fin 32) (v : W32) : Bool := gives i (at_ x) fun _ y => vread y d k == v

/-! ## WellFormed -/

/-- An ill-formed term for each check. -/
theorem ill_formed_refused : ([
    .mov64 ⟨1, .v 2 false⟩, .mov64 ⟨2, .v 1 false⟩, .adif ⟨0, 0, .v 1, 0⟩, .aadd ⟨0, 0, .v 3, 0⟩, .asub ⟨0, 0, .v 95, 9⟩,
    .ld ⟨1, 0, .v 0, 8, false, false⟩, .ld ⟨2, 0, .v 0, 9, false, false⟩, .ldv ⟨2, 0, .v 0, 9, false, false⟩,
    .ldv ⟨0, 0, .v 1, 0, false, false⟩, .st ⟨.v 1, 0, .v 0, 8, false, false⟩, .st ⟨.v 2, 0, .v 0, 9, false, false⟩,
    .st ⟨.s 4, 0, .v 0, 9, false, false⟩, .stv ⟨.v 3, 0, .v 0, 8, false, false⟩, .stv ⟨.v 0, 0, .v 5, 0, false, false⟩,
    .lda ⟨1, 0, .v 0, .chip, false, true⟩, .ldc ⟨1, 0, .v 0, .chip, false, true⟩, .ldc ⟨0, 0, .v 0, .chip, true, false⟩,
    .str ⟨.v 1, 0, .v 0, .chip, true⟩, .stc ⟨.v 1, 0, .v 0, .chip, true⟩, .atom ⟨1, 0, 0, .add, .w64, 0⟩,
    .atom ⟨0, 0, 0, .fadd, .w64, 0⟩, .atom ⟨95, 0, 0, .add, .bf, 0⟩, .atom ⟨95, 0, 0, .cas, .w32, 0⟩,
    .atom ⟨94, 0, 0, .cas, .w64, 0⟩, .atomn ⟨0, 0, 0, .cas, .w32, 0⟩, .atomn ⟨1, 0, 0, .add, .w64, 0⟩, .jpop 3 0, .fspawn 0 2,
    .npack ⟨0, .v 0, 0, 10⟩, .npack ⟨0, .s 0, 0, 0⟩, .npack ⟨0, .v 95, 0, 1⟩, .nunpk ⟨95, .v 0, 0, 1⟩, .nunpk ⟨0, .s 0, 0, 0⟩,
    .next ⟨0, .v 0, 6, 4⟩, .nins ⟨0, .v 0, 12, 2⟩, .scacc ⟨0, 0, .v 0, 1, 0⟩, .scaccUe4m3 ⟨0, 0, .v 0, 2, 0⟩, .accrd ⟨1, 0, 0⟩,
    .accwr ⟨2, 0, 0⟩, .plnrd ⟨3, 0, 0⟩, .brx (.v 1), .callx (.v 1), .pfx ⟨false, false, true, .v 0 false, 6, .p 0, .none⟩,
    .pfx ⟨false, false, false, .v 0 false, 6, .p 1, .none⟩] : List Instr).all (fun i => !wellFormed i) = true := by
  decide +kernel

/-- Words that are no instruction: a reserved MAJ, a D code of 96 of a vector form, and a MERGE of 11. -/
theorem reserved_words_refused :
    decodeTableWord 32 (0x01 + 0x1F * 2) = none ∧ decodeTableWord 32 (0x01 + 96 * 2 ^ 9) = none
    ∧ decodeTableWord 32 (0x7F + 3 * 2 ^ 7) = none ∧ decodeTableWord 32 (0x7F + 7 * 2 ^ 15) = none := by
  decide +kernel


/-! ## Words of the spec -/

theorem decode_integer :
    decodeTableWord 32 0x83040A01 = some (.iadd ⟨5, .v 4 false, .v 6 true⟩)
    ∧ decodeTableWord 32 0x01820F81 = some (.imulh ⟨7, .v 2 false, .v 3 false⟩)
    ∧ decodeTableWord 32 0x31810803 = some (.imin ⟨4, .v 1 false, .s 3⟩)
    ∧ decodeTableWord 32 0x31810903 = some (.umin ⟨4, .v 1 false, .s 3⟩)
    ∧ decodeTableWord 32 0x31810983 = some (.umax ⟨4, .v 1 false, .s 3⟩)
    ∧ decodeTableWord 32 0x71010785 = some (.andn ⟨3, .v 1 true, .s 2⟩)
    ∧ decodeTableWord 32 0x01810587 = some (.rot ⟨2, .v 1 false, .v 3 false⟩)
    ∧ decodeTableWord 32 0x32820689 = some (.bfxs ⟨3, .v 2 false, .s 5⟩)
    ∧ decodeTableWord 32 0x0001060B = some (.popc ⟨3, .v 1 false⟩)
    ∧ decodeTableWord 32 0x0001068B = some (.clz ⟨3, .v 1 false⟩)
    ∧ decodeTableWord 32 0x0001070B = some (.ctz ⟨3, .v 1 false⟩)
    ∧ decodeTableWord 32 0x0282060D = some (.imad ⟨3, .v 2 false, .v 5 false⟩)
    ∧ decodeTableWord 32 0x01010B0D = some (.idiv ⟨5, .v 1 false, .v 2 false⟩)
    ∧ decodeTableWord 32 0x01010B8D = some (.udiv ⟨5, .v 1 false, .v 2 false⟩)
    ∧ decodeTableWord 32 0x3A04148F = some (.lut3 ⟨9, 1, 2, false, false, 0xE8⟩)
    ∧ decodeTableWord 32 0x040105F3 = some (.rotImm ⟨2, .v 1 false, 8⟩)
    ∧ decodeTableWord 32 0x04010573 = some (.sarImm ⟨2, .v 1 false, 8⟩)
    ∧ decodeTableWord 32 0x08818A75 = some (.fshl ⟨10, 3, 4, 1⟩)
    ∧ decodeTableWord 32 0xF8818BF5 = some (.fshr ⟨11, 3, 4, 31⟩) := by
  decide +kernel

theorem decode_float :
    decodeTableWord 32 0x02881211 = some (.fadd ⟨9, .v 8 false, .v 5 false⟩)
    ∧ decodeTableWord 32 0x01010B93 = some (.fmaxn ⟨5, .v 1 false, .v 2 false⟩)
    ∧ decodeTableWord 32 0x00010C15 = some (.frcp ⟨6, .v 1 false⟩)
    ∧ decodeTableWord 32 0x00020E97 = some (.fsin ⟨7, .v 2 false⟩)
    ∧ decodeTableWord 32 0x01010A19 = some (.badd2 ⟨5, .v 1 false, .v 2 false⟩)
    ∧ decodeTableWord 32 0x01010A1B = some (.hadd2 ⟨5, .v 1 false, .v 2 false⟩)
    ∧ decodeTableWord 32 0x01010D1B = some (.hfma2 ⟨6, .v 1 false, .v 2 false⟩)
    ∧ decodeTableWord 32 0x0301041D = some (.fcvt ⟨2, .v 1 false, false, 6⟩)
    ∧ decodeTableWord 32 0x0381069D = some (.fcvtSat ⟨3, .v 1 false, false, 7⟩)
    ∧ decodeTableWord 32 0x0001091F = some (.fclass ⟨4, .v 1 false⟩)
    ∧ decodeTableWord 32 0x0181059F = some (.fldexp ⟨2, .v 1 false, .v 3 false⟩) := by
  decide +kernel

theorem decode_predicate :
    decodeTableWord 32 0x70010021 = some (.icmp ⟨0, .v 1 true, .s 0, 0⟩)
    ∧ decodeTableWord 32 0x02844121 = some (.icmp ⟨2, .v 4 false, .v 5 false, 2⟩)
    ∧ decodeTableWord 32 0x02844123 = some (.fcmp ⟨2, .v 4 false, .v 5 false, 2⟩)
    ∧ decodeTableWord 32 0x18420825 = some (.sel ⟨4, .p 2, 1, 3, false, false⟩)
    ∧ decodeTableWord 32 0x10102227 = some (.plop ⟨4, .p 1, .p 2, 8⟩)
    ∧ decodeTableWord 32 0x01800A29 = some (.p2v 5 (.p 3))
    ∧ decodeTableWord 32 0x01640DA9 = some (.pbal 6 (.p 2) (.s 4))
    ∧ decodeTableWord 32 0x018500A9 = some (.v2p 3 (.v 5))
    ∧ decodeTableWord 32 0x02000129 = some (.elect 4) := by
  decide +kernel

theorem decode_move :
    decodeTableWord 32 0x006F282B = some (.mov ⟨20, .s 15⟩)
    ∧ decodeTableWord 32 0x007404AB = some (.mov64 ⟨2, .s 20⟩)
    ∧ decodeTableWord 32 0x0000032B = some (.movsr 1 0)
    ∧ decodeTableWord 32 0x0800072B = some (.movsr 3 16)
    ∧ decodeTableWord 32 0x118201AB = some (.movsw 35 (.v 2 false))
    ∧ decodeTableWord 32 0x1234022D = some (.movil ⟨1, 0x1234⟩)
    ∧ decodeTableWord 32 0xABCD02AD = some (.movih ⟨1, 0xABCD⟩)
    ∧ decodeTableWord 32 0xFFFB052D = some (.movis ⟨2, 0xFFFB⟩)
    ∧ decodeTableWord 32 0x3FC007AD = some (.movif ⟨3, 0x3FC0⟩) := by
  decide +kernel

theorem decode_cross_lane :
    decodeTableWord 32 0x32020DAF = some (.shflXor ⟨6, .v 2 false, .s 4⟩)
    ∧ decodeTableWord 32 0x01820C31 = some (.xpush ⟨6, .v 2 false, .v 3 false⟩)
    ∧ decodeTableWord 32 0x00010833 = some (.voteAll ⟨4, .v 1 false⟩)
    ∧ decodeTableWord 32 0x00010933 = some (.voteBal ⟨4, .v 1 false⟩)
    ∧ decodeTableWord 32 0x010109B3 = some (.voteEq ⟨4, .v 1 false, .v 2 false⟩)
    ∧ decodeTableWord 32 0x00010835 = some (.redux ⟨4, .v 1 false, 0⟩)
    ∧ decodeTableWord 32 0x04010835 = some (.redux ⟨4, .v 1 false, 8⟩)
    ∧ decodeTableWord 32 0x00010AB5 = some (.scan ⟨5, .v 1 false, 0⟩)
    ∧ decodeTableWord 32 0x04010B35 = some (.scanX ⟨5, .v 1 false, 8⟩)
    ∧ decodeTableWord 32 0x00000837 = some (.rand 4)
    ∧ decodeTableWord 32 0x00000AB7 = some (.randf 5)
    ∧ decodeTableWord 32 0x01010137 = some (.rseed (.v 1 false) (.v 2 false))
    ∧ decodeTableWord 32 0x006401B7 = some (.rskip (.s 4))
    ∧ decodeTableWord 32 0x1B080839 = some (.npack ⟨4, .v 8, 6, 3⟩)
    ∧ decodeTableWord 32 0x1B0218B9 = some (.nunpk ⟨12, .v 2, 6, 3⟩)
    ∧ decodeTableWord 32 0x24010739 = some (.next ⟨3, .v 1, 8, 4⟩)
    ∧ decodeTableWord 32 0x0E010FB9 = some (.nins ⟨7, .v 1, 12, 1⟩) := by
  decide +kernel

theorem decode_memory :
    decodeTableWord 32 0x20E20841 = some (.ld ⟨4, 2, .v 7, 2, false, false⟩)
    ∧ decodeTableWord 32 0xACA30DC1 = some (.ld ⟨6, 3, .s 5, 10, true, true⟩)
    ∧ decodeTableWord 32 0x70821043 = some (.ldv ⟨8, 2, .v 4, 7, false, false⟩)
    ∧ decodeTableWord 32 0x3C030449 = some (.lda ⟨2, 3, .s 0, .chip, false, false⟩)
    ∧ decodeTableWord 32 0xBC030449 = some (.lda ⟨2, 3, .s 0, .chip, true, false⟩)
    ∧ decodeTableWord 32 0x70E20845 = some (.st ⟨.v 4, 2, .v 7, 7, false, false⟩)
    ∧ decodeTableWord 32 0x8DA61045 = some (.st ⟨.v 8, 6, .s 13, 8, false, false⟩)
    ∧ decodeTableWord 32 0x50821247 = some (.stv ⟨.v 9, 2, .v 4, 5, false, false⟩)
    ∧ decodeTableWord 32 0x3C03024B = some (.str ⟨.v 1, 3, .s 0, .chip, false⟩)
    ∧ decodeTableWord 32 0x20E209CB = some (.stc ⟨.v 4, 2, .v 7, .cluster, true⟩)
    ∧ decodeTableWord 32 0x70E20153 = some (.cinv ⟨2, .v 7, 7⟩)
    ∧ decodeTableWord 32 0x70E200D3 = some (.prefL2 ⟨2, .v 7, 7⟩) := by
  decide +kernel

theorem decode_synchronising :
    decodeTableWord 32 0x00600051 = some (.fence .chip .acqRel)
    ∧ decodeTableWord 32 0x02200051 = some (.fence .core .release)
    ∧ decodeTableWord 32 0x01800051 = some (.fence .fabric .acquire)
    ∧ decodeTableWord 32 0x018000D1 = some (.bara 12)
    ∧ decodeTableWord 32 0x01800151 = some (.barw 12)
    ∧ decodeTableWord 32 0x018001D1 = some (.bar 12)
    ∧ decodeTableWord 32 0x00600251 = some (.phadv 3)
    ∧ decodeTableWord 32 0x000002D1 = some (.nop)
    ∧ decodeTableWord 32 0x000E0055 = some (.tagwa 14)
    ∧ decodeTableWord 32 0x000E20D5 = some (.tagwy 4 14)
    ∧ decodeTableWord 32 0x000E2155 = some (.tagff 4 14)
    ∧ decodeTableWord 32 0x000E01D5 = some (.tagclr 14)
    ∧ decodeTableWord 32 0x00A02255 = some (.tagrd 4 5)
    ∧ decodeTableWord 32 0x00052059 = some (.qsnd 4 5)
    ∧ decodeTableWord 32 0x004030D9 = some (.qrcv 6 2)
    ∧ decodeTableWord 32 0x02C03159 = some (.qpoll 6 2 5)
    ∧ decodeTableWord 32 0xFFA0285B = some (.racq 5 1 511)
    ∧ decodeTableWord 32 0x040000DB = some (.rrel 0 8)
    ∧ decodeTableWord 32 0x0060315B = some (.rqry 6 3) := by
  decide +kernel

theorem decode_job :
    decodeTableWord 32 0x00402057 = some (.jpop 4 2)
    ∧ decodeTableWord 32 0x000000D7 = some (.jdone)
    ∧ decodeTableWord 32 0x00090157 = some (.jyield 9)
    ∧ decodeTableWord 32 0x001061D7 = some (.fspawn 12 16)
    ∧ decodeTableWord 32 0x00470257 = some (.fref 7 2)
    ∧ decodeTableWord 32 0x002702D7 = some (.fdrop 7 1)
    ∧ decodeTableWord 32 0x00090357 = some (.fwait 9)
    ∧ decodeTableWord 32 0x006953D7 = some (.fpoll 10 9 3)
    ∧ decodeTableWord 32 0x002504D7 = some (.evsig 5 1) := by
  decide +kernel

theorem decode_system :
    decodeTableWord 32 0x0220005D = some (.enter 17)
    ∧ decodeTableWord 32 0x022000DD = some (.leave 17)
    ∧ decodeTableWord 32 0x0000215D = some (.conerd 4)
    ∧ decodeTableWord 32 0x00E001DD = some (.bkpt 7)
    ∧ decodeTableWord 32 0x00A0025D = some (.trap 5)
    ∧ decodeTableWord 32 0x000802DD = some (.tmset 8)
    ∧ decodeTableWord 32 0x0205205F = some (.sysr 4 5 16)
    ∧ decodeTableWord 32 0x000520DF = some (.sysw 4 5 0)
    ∧ decodeTableWord 32 0x0040015F = some (.tlbi 0 2)
    ∧ decodeTableWord 32 0x000001DF = some (.halt)
    ∧ decodeTableWord 32 0x0000025F = some (.kret) := by
  decide +kernel

theorem decode_scalar :
    decodeTableWord 32 0x00A22061 = some (.sadd ⟨4, 2, 5⟩)
    ∧ decodeTableWord 32 0xFFE22061 = some (.saddImm ⟨4, 2, 1023⟩)
    ∧ decodeTableWord 32 0x80831BE1 = some (.sshlImm ⟨3, 3, 4⟩)
    ∧ decodeTableWord 32 0x01283F61 = some (.sdivu ⟨7, 8, 9⟩)
    ∧ decodeTableWord 32 0x8C8037E1 = some (.smovImm ⟨6, 0, 100⟩)
    ∧ decodeTableWord 32 0x00011463 = some (.smoviZ 10 1)
    ∧ decodeTableWord 32 0x0FF00DE3 = some (.smoviH3 6 0x0FF0)
    ∧ decodeTableWord 32 0x00A440E5 = some (.scmp ⟨1, 4, 5, 2⟩)
    ∧ decodeTableWord 32 0x01A24E69 = some (.rdlane 7 9 13)
    ∧ decodeTableWord 32 0x00024EE9 = some (.rdfirst 7 9) := by
  decide +kernel

theorem decode_matrix :
    decodeTableWord 32 0x9305086B = some (.scacc ⟨0, 1, .v 20, 24, 9⟩)
    ∧ decodeTableWord 32 0x631BDCEB = some (.scaccUe4m3 ⟨2, 3, .s 15, 24, 6⟩)
    ∧ decodeTableWord 32 0x8000036B = some (.accclr 1 2)
    ∧ decodeTableWord 32 0x012304ED = some (.accwr ⟨12, 2, 9⟩)
    ∧ decodeTableWord 32 0x00A2096D = some (.plnrd ⟨8, 1, 5⟩) := by
  decide +kernel

theorem decode_control :
    decodeTableWord 32 0x00000C71 = some (.brx (.v 6))
    ∧ decodeTableWord 32 0x0000D071 = some (.brx (.s 8))
    ∧ decodeTableWord 32 0x00000CF1 = some (.callx (.v 6))
    ∧ decodeTableWord 32 0x0000D0F1 = some (.callx (.s 8))
    ∧ decodeTableWord 32 0x00000171 = some (.ret)
    ∧ decodeTableWord 32 0x000001F1 = some (.exit) := by
  decide +kernel

theorem decode_prefix :
    decodeTableWord 32 0x0007007F = some (.pfx ⟨false, false, false, .v 1 false, 6, .p 0, .none⟩)
    ∧ decodeTableWord 32 0x119B007F = some (.pfx ⟨true, false, false, .s 6, 6, .p 0, .none⟩) := by
  decide +kernel

theorem decode_compact :
    decodeTableWord 16 0x1500 = some (.iaddC ⟨8, 5, false⟩)
    ∧ decodeTableWord 16 0x2462 = some (.isubC ⟨3, 9, false⟩)
    ∧ decodeTableWord 16 0x1084 = some (.imulC ⟨4, 4, false⟩)
    ∧ decodeTableWord 16 0x1890 = some (.iminC ⟨4, 6, false⟩)
    ∧ decodeTableWord 16 0x9892 = some (.imaxC ⟨4, 6, true⟩)
    ∧ decodeTableWord 16 0x445E = some (.movC ⟨2, 17, false⟩)
    ∧ decodeTableWord 16 0x0868 = some (.orC ⟨3, 2, false⟩)
    ∧ decodeTableWord 16 0x086A = some (.xorC ⟨3, 2, false⟩)
    ∧ decodeTableWord 16 0x086E = some (.shrC ⟨3, 2, false⟩)
    ∧ decodeTableWord 16 0x1114 = some (.faddC ⟨8, 4, false⟩) := by
  decide +kernel


/-! ## One step, with the values of the spec's examples -/

theorem test_iadd_wraps : leaves (.iadd ⟨5, .v 3 false, .v 1 false⟩) war 5 9 6 = true := by decide +kernel
theorem test_iadd_saturates :
    gives (.iadd ⟨5, .v 1 false, .v 2 false⟩) { behind sat with chip := chipOf (vals 0x7FFFFFFF 1 0) 128 (some sat) }
      (fun _ y => vread y 5 0 == 0x7FFFFFFF) = true := by decide +kernel
theorem test_isub : leaves (.isub ⟨5, .v 2 false, .v 1 false⟩) war 5 0 0xFFFFFFFC = true := by decide +kernel
theorem test_imulh : leaves (.imulh ⟨7, .v 1 false, .v 2 false⟩) (vals 0xFFFFFFFE 0x40000000 0) 7 0 0xFFFFFFFF = true := by decide +kernel
theorem test_umulh : leaves (.umulh ⟨7, .v 1 false, .v 2 false⟩) (vals 0xFFFFFFFE 0x40000000 0) 7 0 0x3FFFFFFF = true := by decide +kernel
theorem test_imin : leaves (.imin ⟨4, .v 1 false, .v 2 false⟩) (vals 0xFFFFFFFF 1 0) 4 0 0xFFFFFFFF = true := by decide +kernel
theorem test_umin : leaves (.umin ⟨4, .v 1 false, .v 2 false⟩) (vals 0xFFFFFFFF 1 0) 4 0 1 = true := by decide +kernel
theorem test_umax : leaves (.umax ⟨4, .v 1 false, .v 2 false⟩) (vals 0xFFFFFFFF 1 0) 4 0 0xFFFFFFFF = true := by decide +kernel
theorem test_rot : leaves (.rotImm ⟨2, .v 1 false, 1⟩) (vals 0x80000001 0 0) 2 0 3 = true := by decide +kernel
theorem test_shl : leaves (.shl ⟨2, .v 1 false, .v 3 false⟩) (vals 0x800000F0 0 4) 2 0 0xF00 = true := by decide +kernel
theorem test_sar : leaves (.sarImm ⟨2, .v 1 false, 8⟩) (vals 0x800000F0 0 0) 2 0 0xFF800000 = true := by decide +kernel
theorem test_shr_compact : leaves (.shrC ⟨3, 2, false⟩) (vals 0 8 0x800000F0) 3 0 0x00800000 = true := by decide +kernel
theorem test_clz : leaves (.clz ⟨3, .v 1 false⟩) (vals 0x400 0 0) 3 0 21 = true := by decide +kernel
theorem test_ctz : leaves (.ctz ⟨3, .v 1 false⟩) (vals 0x400 0 0) 3 0 10 = true := by decide +kernel
theorem test_popc : leaves (.popc ⟨3, .v 1 false⟩) (vals 0x0F000101 0 0) 3 0 6 = true := by decide +kernel
theorem test_brev : leaves (.brev ⟨3, .v 1 false⟩) (vals 7 0 0) 3 0 0xE0000000 = true := by decide +kernel
theorem test_bfxs : leaves (.bfxs ⟨3, .v 2 false, .v 1 false⟩) (vals 0x200 7 0) 3 0 0xFFFFFFFF = true := by decide +kernel
theorem test_fshl : leaves (.fshl ⟨10, 1, 2, 1⟩) (vals 1 0x80000000 0) 10 0 3 = true := by decide +kernel
theorem test_fshr : leaves (.fshr ⟨11, 1, 2, 31⟩) (vals 1 0x80000000 0) 11 0 3 = true := by decide +kernel
theorem test_lut3_sum : leaves (.lut3 ⟨3, 1, 2, false, false, 0x96⟩) (vals 0b1100 0b1010 0b0110) 3 0 0 = true := by decide +kernel
theorem test_lut3_carry : leaves (.lut3 ⟨3, 1, 2, false, false, 0xE8⟩) (vals 0b1100 0b1010 0b0110) 3 0 0b1110 = true := by decide +kernel
theorem test_imad_remainder :
    gives (.imad ⟨3, .v 2 false, .v 3 false⟩)
      { behind sat with chip := chipOf (vals (-7) (-3) (-2)) 128 (some { sat with sat := false, c := .v 1 false }) }
      (fun _ y => vread y 3 0 == 0xFFFFFFFF) = true := by decide +kernel
theorem test_idiv_by_zero : leaves (.udiv ⟨5, .v 1 false, .v 2 false⟩) (vals 9 0 0) 5 0 0xFFFFFFFF = true := by decide +kernel
theorem test_udiv : leaves (.udiv ⟨5, .v 1 false, .v 2 false⟩) (vals 0xFFFFFFFF 16 0) 5 0 0x0FFFFFFF = true := by decide +kernel
theorem test_movih : leaves (.movih ⟨1, 0xABCD⟩) (vals 0x1234 0 0) 1 0 0xABCD1234 = true := by decide +kernel
theorem test_movis : leaves (.movis ⟨2, 0xFFFB⟩) war 2 0 0xFFFFFFFB = true := by decide +kernel
theorem test_movif : leaves (.movif ⟨3, 0x3FC0⟩) war 3 0 0x3FC00000 = true := by decide +kernel
theorem test_badd2 : leaves (.badd2 ⟨5, .v 1 false, .v 2 false⟩) (vals 0x40003F80 0x40403F00 0) 5 0 0x40A03FC0 = true := by decide +kernel
theorem test_icmp_signed :
    gives (.icmp ⟨2, .v 1 false, .v 2 false, 2⟩) (at_ (vals 0xFFFFFFFF 1 0)) (fun _ y => pread y (.p 2) 0) = true := by decide +kernel
theorem test_icmp_unsigned :
    gives (.icmp ⟨2, .v 1 false, .v 2 false, 6⟩) (at_ (vals 0xFFFFFFFF 1 0)) (fun _ y => !pread y (.p 2) 0) = true := by decide +kernel
theorem test_elect :
    gives (.elect 4) (at_ { war with body := some { bod with mask := 0x4220 } })
      (fun _ y => pread y (.p 4) 5 && !pread y (.p 4) 9 && !pread y (.p 4) 14) = true := by decide +kernel
theorem test_mask_zeroes :
    gives (.mov ⟨1, .v 2 false⟩) (behind zeroing) (fun _ y => vread y 1 0 == 0) = true := by decide +kernel
theorem test_last_read_frees :
    gives (.mov ⟨5, .v 1 true⟩) (at_ war) (fun _ y => vread y 5 0 == 7 && (sget y.v 1).isNone) = true := by decide +kernel
theorem test_sadd_minus_one :
    gives (.saddImm ⟨4, 7, 1023⟩) (at_ war) (fun _ y => sread y 4 == 63) = true := by decide +kernel
theorem test_s0_stays_zero : gives (.smovImm ⟨0, 0, 100⟩) (at_ war) (fun _ y => sread y 0 == 0) = true := by decide +kernel
theorem test_smovi_h3 :
    gives (.smoviH3 7 0x0FF0) (at_ war) (fun _ y => sread y 7 == 0x0FF0000000000040) = true := by decide +kernel
theorem test_tmset : gives (.tmset 7) (at_ war) (fun _ y => y.tcmp == 64) = true := by decide +kernel
theorem test_enter : gives (.enter 17) (at_ war) (fun _ y => y.regions == [17] && y.rgnDepth == 1) = true := by decide +kernel
theorem test_rseed :
    gives (.rseed (.v 1 false) (.v 2 false)) (at_ war) (fun _ y => y.rngLo == 7 && y.rngHi == 3 && y.rngCtr == 0) = true := by
  decide +kernel
theorem test_rskip : gives (.rskip (.v 3 false)) (at_ { war with rngCtr := 5 }) (fun _ y => y.rngCtr == 4) = true := by
  decide +kernel
theorem test_sysr_in_worker_mode_traps :
    gives (.sysr 4 5 0) (at_ war) (fun t y => y.kernel && dev t.chip (rKepc 0) == 64) = true := by decide +kernel
theorem test_trap_20_is_a_kernel_trap :
    gives (.trap 20) (last_ { war with tvec := 1 }) (fun t y => y.kernel && dev t.chip (rKepc 0) == 576) = true := by decide +kernel
theorem test_trap_5_goes_to_the_user_vector :
    gives (.trap 5) (last_ { war with tvec := 2 })
      (fun _ y => !y.kernel && y.tepc == 9 && y.frontier.map Entry.pc == [128]) = true := by decide +kernel
theorem test_bra_back :
    gives (.bra 0xFFFF) (last_ { war with body := some { bod with hdr := 128 } })
      (fun _ y => y.frontier.map Entry.pc == [64] && y.body == none) = true := by decide +kernel
theorem test_call_pushes :
    gives (.call 1) (last_ war)
      (fun _ y => (y.coil[0]).map CoilEntry.pc == [576] && y.frontier.map Entry.pc == [64]) = true := by decide +kernel
theorem test_load_counts : gives (.ld ⟨4, 0, .v 1, 7, false, false⟩) (paged war) (fun _ y => y.flags[0] == 1) = true := by
  decide +kernel
theorem test_misaligned_lda_traps :
    gives (.lda ⟨4, 8, .s 0, .chip, false, false⟩) (paged war) (fun _ y => y.kernel && y.flags[0] == 0) = true := by decide +kernel


/-! ## States that meet the hypotheses of the statements -/

theorem witness_StepKeepsCanonicalMemory : State.reset.Canonical ∧ ∃ t, step State.reset = .next t :=
  ⟨⟨by decide +kernel, rfl⟩, next_of (by decide +kernel)⟩

theorem witness_DecodeUndoesEncode :
    wellFormed (.ld ⟨92, 31, .s 31, 9, true, true⟩) = true ∧ ∃ e, encodeWord (.ld ⟨92, 31, .s 31, 9, true, true⟩) = some e :=
  ⟨by decide +kernel, _, rfl⟩

theorem witness_DecodedWordsAreEncodings :
    decode (toBytes 4 (0x000002D1#32).toNat) = .ok (.nop, 4) ∧ (0x1500#16).toNat % 2 = 0 := ⟨rfl, rfl⟩

/-- An instruction that writes these registers executes, with no prefix, under SAT where it admits it, and masked off. -/
theorem runs_war : (at_ war).Runs war bod := ⟨rfl, rfl⟩

theorem executes (k : Option Allow) (l : List Nat) (h : exceeds war l = false) : (at_ war).Executes war bod k l :=
  ⟨⟨rfl, rfl⟩, rfl, .inr h⟩

theorem executes_sat : (behind sat).Executes war bod (some { sat := true }) [95] :=
  ⟨⟨rfl, rfl⟩, by decide +kernel, .inr (by decide +kernel)⟩

theorem executes_zeroing : (behind zeroing).Executes war bod (some {}) [0] :=
  ⟨⟨rfl, rfl⟩, by decide +kernel, .inr (by decide +kernel)⟩

/-- No thread executes and none is zeroed, in a warp that has no room. -/
theorem executes_masked :
    ({ behind { zeroing with merge := .keep } with chip := chipOf { war with floor := 0 } 128 (some { zeroing with merge := .keep }) } :
      State).Executes { war with floor := 0 } bod (some {}) [9] :=
  ⟨⟨rfl, rfl⟩, by decide +kernel, .inl (by decide +kernel)⟩

theorem witness_IntegerTwoSourceResults :
    (at_ war).Executes war bod (some { sat := true }) [0] ∧ (behind sat).Executes war bod (some { sat := true }) [95]
    ∧ (behind zeroing).Executes war bod (some {}) [0] :=
  ⟨executes _ _ (by decide +kernel), executes_sat, executes_zeroing⟩

theorem witness_MoveAndShiftResults :
    (behind zeroing).Executes war bod (some {}) [0] ∧ (at_ war).Executes war bod (some {}) [94, 95]
    ∧ (at_ war).Executes war bod (some { sat := true, c := true }) [5] :=
  ⟨executes_zeroing, executes _ _ (by decide +kernel), executes _ _ (by decide +kernel)⟩

theorem witness_LogicalRules :
    (behind zeroing).Executes war bod (some {}) [0] ∧ (at_ war).Executes war bod none [3]
    ∧ (behind sat).Runs war bod ∧ (behind sat).CanTrap war
    ∧ ∃ q, (behind sat).chip.cur.pfx = some q ∧ Allow.ok {} q = false :=
  ⟨executes_zeroing, executes _ _ (by decide +kernel), ⟨rfl, rfl⟩, ⟨rfl, by decide +kernel⟩, sat, rfl, by decide +kernel⟩

theorem witness_PointerResults : (at_ war).Executes war bod none [2 * 47, 2 * 47 + 1] := executes _ _ (by decide +kernel)

theorem witness_PredicateResults :
    (at_ war).Executes war bod none [] ∧ (at_ war).Room war bod [95]
    ∧ (∃ f, (intConditions 32)[0]? = some f) ∧ ∃ f, (intConditions 32)[7]? = some f :=
  ⟨executes _ _ (by decide +kernel), .inr (by decide +kernel), ⟨_, rfl⟩, _, rfl⟩

theorem witness_CompactFormsAbbreviate : (at_ war).Executes war bod none [31] := executes _ _ (by decide +kernel)

theorem witness_Fp32TwoSourceResults : (at_ war).Executes war bod (some { rnd := true, sat := true }) [5] :=
  executes _ _ (by decide +kernel)

theorem witness_PackedAndFusedResults : (at_ war).Executes war bod (some { rnd := true, sat := true, c := true }) [5] :=
  executes _ _ (by decide +kernel)

theorem witness_SpecialFunctionResults :
    (at_ war).Executes war bod (some { rnd := true }) [5] :=
  executes _ _ (by decide +kernel)

theorem witness_ConversionResults :
    (at_ war).Executes war bod (some { rnd := true, sat := true }) [5] ∧ (at_ war).Executes war bod none []
    ∧ (decodeFmt fp32 (0x7FC00000#32).toNat).isNan = true :=
  ⟨executes _ _ (by decide +kernel), executes _ _ (by decide +kernel), by decide +kernel⟩

theorem witness_ElementResults :
    (at_ war).Executes war bod (some { rnd := true, sat := true }) [5] ∧ wellFormed (.npack ⟨5, .v 92, 6, 3⟩) = true
    ∧ (at_ war).Executes war bod (some {}) (regRun 92 4) :=
  ⟨executes _ _ (by decide +kernel), by decide +kernel, executes _ _ (by decide +kernel)⟩

theorem witness_GeneratorResults :
    (at_ war).Executes war bod (some {}) [4] ∧ (at_ war).Executes war bod (some {}) [] ∧ lowest (actOf (at_ war) war bod) = some 0 :=
  ⟨executes _ _ (by decide +kernel), executes _ _ (by decide +kernel), by decide +kernel⟩

/-- A prefix with W whose members, in s7, stand in the entry. -/
def joined : Prefix := ⟨true, false, false, .s 7, 6, .p 0, .none⟩

theorem witness_CrossLaneResults :
    (behind joined).Executes war bod (some crossAllow) [4] ∧ waits (behind joined).chip.cur.pfx = true
    ∧ membersOf war (behind joined).chip.cur.pfx &&& ~~~bod.mask = 0 ∧ membersOf war (behind joined).chip.cur.pfx = 0x40 :=
  ⟨⟨⟨rfl, rfl⟩, by decide +kernel, .inr (by decide +kernel)⟩, by decide +kernel⟩

theorem witness_ReductionResults :
    (behind joined).Executes war bod (some (redAllow 0)) [4] ∧ (behind joined).Executes war bod (some (redAllow 8)) [4]
    ∧ membersOf war (behind joined).chip.cur.pfx &&& ~~~bod.mask = 0 :=
  ⟨⟨⟨rfl, rfl⟩, by decide +kernel, .inr (by decide +kernel)⟩, ⟨⟨rfl, rfl⟩, by decide +kernel, .inr (by decide +kernel)⟩,
   by decide +kernel⟩

theorem witness_ScalarResults :
    (at_ war).Runs war bod ∧ (at_ war).Bare ∧ (∃ f, (intConditions 64)[7]? = some f) ∧ lowest bod.mask = some 0 :=
  ⟨⟨rfl, rfl⟩, rfl, ⟨_, rfl⟩, by decide +kernel⟩

theorem witness_SpecialRegisterResults :
    (at_ war).Executes war bod (some {}) [1] ∧ actOf (at_ war) war bod ≠ 0 ∧ war.latches.tcmp = none ∧ war.latches.cone = none
    ∧ lowest (actOf (at_ war) war bod) = some 0 ∧ isRW 35 = true
    ∧ (at_ kern).Executes kern kbod (some {}) [] ∧ lowest (actOf (at_ kern) kern kbod) = some 0 ∧ isRK 27 = true ∧ kern.kernel = true :=
  ⟨executes _ _ (by decide +kernel), by decide +kernel, rfl, rfl, by decide +kernel, by decide +kernel,
   ⟨⟨rfl, rfl⟩, rfl, .inr (by decide +kernel)⟩, by decide +kernel, by decide +kernel, rfl⟩

/-- A warp with no share of registers. -/
def poor : Warp := { war with floor := 0 }

theorem witness_IllegalAndPrivilegedFaults :
    (at_ war).Runs war bod ∧ (at_ war).CanTrap war ∧ isRW 0 = false ∧ isRW 42 = false ∧ isRW 27 = false ∧ actOf (at_ war) war bod ≠ 0
    ∧ (at_ poor).Runs poor bod ∧ (at_ poor).CanTrap poor ∧ ¬(at_ poor).Room poor bod [5]
    ∧ ¬(at_ poor).Room poor bod [10, 11] ∧ exceeds poor (regRun 5 (wcRegs 7)) = true
    ∧ (last_ war).AtEnd bod ∧ lane bod.mask 0 = true ∧ ¬goodHeader (src64 war (.s 8) 0)
    ∧ isMember (at_ war).chip (at_ war).warpNo 0 = false ∧ isMember (at_ war).chip (at_ war).warpNo 255 = false := by
  refine ⟨⟨rfl, rfl⟩, ⟨rfl, by decide +kernel⟩, by decide +kernel, by decide +kernel, by decide +kernel, by decide +kernel, ⟨rfl, rfl⟩,
    ⟨rfl, by decide +kernel⟩, ?_, ?_, by decide +kernel, ?_, by decide +kernel, ?_, by decide +kernel⟩
  · unfold State.Room; decide +kernel
  · unfold State.Room; decide +kernel
  · unfold State.AtEnd; decide +kernel
  · unfold goodHeader; decide +kernel

theorem witness_PrefixResults :
    (at_ war).Runs war bod ∧ (at_ war).Bare ∧ (at_ war).chip.cur.next.toNat + 32 ≤ bod.stop.toNat
    ∧ (∀ h, fetchBits (at_ war).mem (at_ war).chip (at_ war).warpNo (at_ war).chip.cur.next 16 = .val h → h % 2 = 1)
    ∧ (last_ war).CanTrap war ∧ bod.stop.toNat < (last_ war).chip.cur.next.toNat + 32
    ∧ (behind sat).CanTrap war ∧ (behind sat).chip.cur.pfx.isSome = true ∧ fits (some {}) (behind sat).chip.cur.pfx = false
    ∧ fits (some { rnd := true, sat := true }) (behind joined).chip.cur.pfx = false ∧ ¬(behind sat).Bare := by
  refine ⟨⟨rfl, rfl⟩, rfl, by decide +kernel, ?_, ⟨rfl, by decide +kernel⟩, by decide +kernel, ⟨rfl, by decide +kernel⟩, rfl,
    by decide +kernel, by decide +kernel, ?_⟩
  · intro h e
    have f : (match fetchBits (at_ war).mem (at_ war).chip (at_ war).warpNo (at_ war).chip.cur.next 16 with
      | .val _ => false
      | _ => true) = true := by decide +kernel
    rw [e] at f
    cases f
  · unfold State.Bare; decide +kernel

/-- A warp whose threads have each a return header in their Coil. -/
def called : Warp := { war with coil := Vector.replicate 32 [{ pc := 128, prio := 0 }], coilDep := Vector.replicate 32 1 }

theorem witness_BranchAndCallResults :
    (last_ war).Runs war bod ∧ (last_ war).Bare ∧ (last_ war).AtEnd bod
    ∧ goodHeader (bod.hdr + (BitVec.ofNat 16 1).signExtend 64 * 64) ∧ goodHeader (src64 war (.s 7) 0)
    ∧ (∀ t : Fin 32, (war.coil[t.val]).length < 4) ∧ bod.mask ≠ 0
    ∧ ∀ t : Fin 32, ∃ e r, called.coil[t.val] = e :: r ∧ goodHeader e.pc := by
  refine ⟨⟨rfl, rfl⟩, rfl, ?_, ?_, ?_, by decide +kernel, by decide +kernel, ?_⟩
  · unfold State.AtEnd; decide +kernel
  · unfold goodHeader; decide +kernel
  · unfold goodHeader; decide +kernel
  · intro t
    exact ⟨{ pc := 128, prio := 0 }, [], by simp [called], by unfold goodHeader; decide +kernel⟩

/-- A warp with another entry in its frontier. -/
def parted : Warp := { war with frontier := [{ pc := 640, hdr := 640, prio := 0, mask := 1 }] }

theorem witness_ExitNopTmsetResults :
    (last_ parted).Runs parted bod ∧ (last_ parted).Bare ∧ (last_ parted).AtEnd bod ∧ parted.kernel = false
    ∧ ∃ e ∈ parted.frontier, e.mask ≠ 0 := by
  refine ⟨⟨rfl, rfl⟩, rfl, ?_, rfl, _, List.mem_cons_self, by decide +kernel⟩
  unfold State.AtEnd; decide +kernel

theorem witness_TrapResults :
    (last_ { war with tvec := 2 }).Runs { war with tvec := 2 } bod ∧ ({ war with tvec := 2 } : Warp).tvec ≠ 0
    ∧ (last_ war).Bare ∧ (last_ war).AtEnd bod ∧ war.kernel = false ∧ war.tvec = 0 ∧ (last_ war).CanTrap war := by
  refine ⟨⟨rfl, rfl⟩, by decide +kernel, rfl, ?_, rfl, rfl, rfl, by decide +kernel⟩
  unfold State.AtEnd; decide +kernel

theorem witness_KernelReturnAndHalt :
    (last_ kern).Runs kern kbod ∧ (last_ kern).Bare ∧ (last_ kern).AtEnd kbod ∧ kern.kernel = true ∧ kbod.mask ≠ 0
    ∧ resumeOk (last_ kern).mem (last_ kern).chip 0 (dev (last_ kern).chip (rKepc 0)) (dev (last_ kern).chip (rKhdr 0)) = true
    ∧ kern.frontier.all (fun e => !e.kernel) = true := by
  refine ⟨⟨rfl, rfl⟩, rfl, ?_, rfl, by decide +kernel⟩
  unfold State.AtEnd; decide +kernel

theorem witness_KernelTraps :
    sget (at_ war).chip.warps 0 = some war ∧ war.kernel = false ∧ (dev (at_ war).chip (rKvec (coreOf 0))).toNat % 64 = 0
    ∧ sget (at_ kern).chip.warps 0 = some kern ∧ kern.kernel = true :=
  by decide +kernel


theorem reaches_load :
    (paged war).Reaches war bod { acc := .load } (scaledAddr 0 (.v 1) 32 war) (fun _ => 32)
    ∧ (paged war).Reaches war bod { acc := .load } (fullAddr 7 (.s 7) war) (fun _ => 128)
    ∧ (paged war).Reaches war bod { acc := .load, suits := classN } (scaledAddr 7 (.v 1) 64 war) (fun _ => 64) := by
  unfold State.Reaches; decide +kernel

theorem witness_LoadsStart :
    (paged war).Runs war bod ∧ (paged war).Bare ∧ exceeds war (regRun 4 (wcRegs 7)) = false ∧ exceeds war (regRun 92 (wcRegs 9)) = false
    ∧ (paged war).Reaches war bod { acc := .load } (scaledAddr 0 (.v 1) 32 war) (fun _ => 32)
    ∧ (paged war).Canonical ∧ (∀ e ∈ (paged war).chip.ops, isAtom e.2.kind = false) :=
  ⟨⟨rfl, rfl⟩, rfl, by decide +kernel, by decide +kernel, reaches_load.1, ⟨by decide +kernel, rfl⟩, fun e h => by cases h⟩

theorem witness_StoresStart :
    (paged war).Runs war bod ∧ (paged war).Bare ∧ bod.mask ≠ 0
    ∧ (paged war).Reaches war bod { acc := .store } (scaledAddr 0 (.v 1) 32 war) (fun _ => 32)
    ∧ (paged war).Reaches war bod { acc := .store } (fullAddr 7 (.s 7) war) (fun _ => 3)
    ∧ (paged war).Reaches war bod { acc := .store, suits := classN } (scaledAddr 7 (.v 1) 64 war) (fun _ => 64)
    ∧ lowest bod.mask = some 0 ∧ inWindow (scaledAddr 0 (.v 1) 32 war 0).toNat = false ∧ (paged war).Canonical := by
  refine ⟨⟨rfl, rfl⟩, rfl, by decide +kernel, ?_, ?_, ?_, by decide +kernel, by decide +kernel, by decide +kernel, rfl⟩ <;>
    (unfold State.Reaches; decide +kernel)

/-- One thread with the window's base in s9 and a good GO, tag 63 of copy queue 0, in s10; s11 names engine 4. -/
def lone : Body := { bod with mask := 8 }
def windowed : Warp :=
  { war with body := some lone, s := (((Vector.replicate 32 0).set 9 0x0FF0000000000000).set 10 (63 * 32)).set 11 4 }

theorem witness_EngineWindowStores :
    (at_ windowed).Runs windowed lone ∧ (at_ windowed).Bare ∧ popCount lone.mask = 1 ∧ lowest lone.mask = some 3
    ∧ inWindow (scaledAddr 9 (.s 0) 64 windowed 3).toNat = true
    ∧ winWord (scaledAddr 9 (.s 0) 64 windowed 3).toNat = some (.stage 0)
    ∧ winWord 0x0FF00000000000C0 = some (.stage 3) ∧ winWord 0x0FF0000000000100 = some .go ∧ winWord 0x0FF0000000000140 = none
    ∧ goOk (at_ windowed).chip 0 (src64 windowed (.s 10) 3).toNat = true ∧ (at_ windowed).warpNo < 24576
    ∧ (at_ windowed).CanTrap windowed ∧ goOk (at_ windowed).chip 0 (src64 windowed (.s 11) 3).toNat = false :=
  ⟨⟨rfl, rfl⟩, rfl, by decide +kernel, rfl, rfl, by decide +kernel, by decide +kernel,
   by decide +kernel, rfl, rfl, by decide +kernel, ⟨rfl, by decide +kernel⟩, by decide +kernel⟩

theorem witness_AtomicsStart :
    (paged war).Runs war bod ∧ (paged war).Bare ∧ exceeds war (regRun 4 2) = false
    ∧ (paged war).Reaches war bod { acc := .store, suits := classN, atomic := true, bytes := false }
        (atomAddr ⟨4, 0, 1, .add, .w64, 0⟩ war) (atomWidth ⟨4, 0, 1, .add, .w64, 0⟩ war)
    ∧ (paged war).Reaches war bod { acc := .store, suits := inGranule, atomic := true, bytes := false }
        (atomAddr ⟨1, 7, 9, .or, .bf, 0⟩ war) (atomWidth ⟨1, 7, 9, .or, .bf, 0⟩ war) := by
  refine ⟨⟨rfl, rfl⟩, rfl, by decide +kernel, ?_, ?_⟩ <;> (unfold State.Reaches; decide +kernel)

theorem witness_AccessFaults :
    (at_ war).Runs war bod ∧ (at_ war).Bare ∧ (at_ war).CanTrap war ∧ lane bod.mask 31 = true
    ∧ exceeds war (regRun 4 1) = false ∧ (scaledAddr 8 (.s 0) 32 war 31).toNat % 32 ≠ 0
    ∧ ∃ f, worst (faultsOf ((at_ war).finds war bod { acc := .load } (scaledAddr 0 (.v 1) 32 war) (fun _ => 32))) = some f
        ∧ f.again = true :=
  ⟨⟨rfl, rfl⟩, rfl, ⟨rfl, by decide +kernel⟩, by decide +kernel, by decide +kernel, by decide +kernel,
   { code := cPAGE, t := 0, addr := 224, again := true }, by decide +kernel, rfl⟩

theorem witness_FenceAndCacheResults :
    (paged war).Runs war bod ∧ (paged war).Bare ∧ bod.mask ≠ 0
    ∧ faultsOf ((paged war).finds war bod { acc := .load } (scaledAddr 0 (.v 1) 32 war) fun _ => 32) = []
    ∧ (∃ g ∈ foundOf ((paged war).finds war bod { acc := .load } (scaledAddr 0 (.v 1) 32 war) fun _ => 32), g.x.home < 2)
    ∧ (paged war).Reaches war bod { acc := .store, bytes := false } (scaledAddr 0 (.v 1) 32 war) (fun _ => 32) := by
  refine ⟨⟨rfl, rfl⟩, rfl, by decide +kernel, by decide +kernel, by decide +kernel, ?_⟩
  unfold State.Reaches; decide +kernel

/-- A piece of thread 2: bits 3 to 12 of a byte pair of HBM. -/
def bits10 : Piece := ⟨2, 0, ⟨.hbm, 67⟩, 10⟩

/-- An access of thread 2 in flight, and its one request. -/
def flight (k : OpKind) : Op :=
  { w := 0, slot := 0, core := 0, part := 0, kind := k, issued := 90, occ := 1, act := 4, addr := Vector.replicate 32 67, width := 10,
    data := Vector.replicate 32 0x2A5, data2 := Vector.replicate 32 0, left := 1, poison := 0, poisonSub := 0, gone := 0,
    flag := some 1, pc := 64, seq := 0, kernel := false, recs := 0, late := [], parts := [] }

def asked (p : Piece) (write : Bool) : Req :=
  { op := 5, pieces := [p], block := ⟨.hbm, 0⟩, off := 0, grain := 1024, home := .l2 0, enc := false, lu := false, nt := false,
    noAlloc := false, write := write, sent := 90, arrive := 90, waiting := false, missed := false, route := 0, extra := 0, done := false }

def flying (k : OpKind) (p : Piece) (write : Bool) : State :=
  { at_ war with chip := { (at_ war).chip with ops := [(5, flight k)], reqs := [(6, asked p write)] } }

/-- A request of a load whose data has been read. -/
def answered : State :=
  { flying (.load 4 7 false false) bits10 false with chip := { (flying (.load 4 7 false false) bits10 false).chip with
      reqs := [(6, { asked bits10 false with done := true })] } }

theorem witness_LoadReplyResults :
    let c := takeEffect answered.mem answered.chip 6
    sget c.reqs 6 = some { asked bits10 false with done := true } ∧ sget c.ops 5 = some (flight (.load 4 7 false false))
      ∧ (flight (.load 4 7 false false)).left = 1 ∧ promotes answered.chip 6 = none
      ∧ sget c.warps (flight (.load 4 7 false false)).w = some war :=
  ⟨by decide +kernel, by decide +kernel, rfl, by decide +kernel, by decide +kernel⟩

theorem witness_StorePerformsItsBits :
    let s := flying .store bits10 true
    s.Canonical ∧ sget s.chip.reqs 6 = some (asked bits10 true) ∧ (asked bits10 true).done = false
      ∧ (asked bits10 true).pieces = [bits10] ∧ sget s.chip.ops 5 = some (flight .store) ∧ (flight .store).left = 1
      ∧ earlier s.chip (asked bits10 true) 0 = [] ∧ homeGone s.chip (asked bits10 true).home = false
      ∧ sameKey s.chip (asked bits10 true).home.isL2 false 0 bits10 = true ∧ homeFirst s.chip 6 = false :=
  ⟨⟨by decide +kernel, rfl⟩, by decide +kernel⟩

/-- The store changes ten bits of two bytes and no other. -/
theorem test_store_performs :
    (match exec (.storeAtHome 6) (flying .store bits10 true) with
     | .next t => t.byte 8 == 0x28 && t.byte 9 == 0x15 && t.byte 7 == 0 && t.byte 10 == 0
     | _ => false) = true := by decide +kernel

theorem witness_AtomicPerformsItsBits :
    let p : Piece := ⟨2, 0, ⟨.hbm, 64⟩, 32⟩
    let s := flying (.atom (some 4) .add .w32) p true
    s.Canonical ∧ sget s.chip.reqs 6 = some (asked p true) ∧ sget s.chip.ops 5 = some (flight (.atom (some 4) .add .w32))
      ∧ earlier s.chip (asked p true) 0 = [] ∧ homeGone s.chip (asked p true).home = false ∧ sameKey s.chip (asked p true).home.isL2 false 0 p = true
      ∧ badSectors s.chip p = [] ∧ undefMask s.chip p = 0 :=
  ⟨⟨by decide +kernel, rfl⟩, rfl, rfl, by decide +kernel⟩

/-- Group 255 with one member, warp 0, which has arrived; the warp waits at it. -/
def grouped (x : Warp) (arrived : Nat) : State :=
  { at_ x with chip := { chipOf x 96 none with
      dev := [(rGrp 255 0, BitVec.ofNat 64 (1 + 1 * 2 ^ 6 + arrived * 2 ^ 21)), (rWgrp 0, BitVec.ofNat 64 (255 + 2 ^ 32))] } }

theorem witness_BarrierResults :
    (grouped war 0).Runs war bod ∧ (grouped war 0).Bare ∧ isMember (grouped war 0).chip 0 255 = true
    ∧ ¬sget war.arrived 255 = some (gGen (grouped war 0).chip 255)
    ∧ sget ({ war with arrived := [(255, false)] } : Warp).arrived 255 = some (gGen (grouped war 0).chip 255)
    ∧ gArrived (grouped war 1).chip 255 = gMembers (grouped war 1).chip 255 ∧ 0 < gMembers (grouped war 1).chip 255 :=
  ⟨⟨rfl, rfl⟩, rfl, by decide +kernel⟩

theorem witness_PhaseResults :
    let s := grouped { war with wait := .phadv 255, phaseReady := true } 0
    phaseHolds s.chip 0 255 = true ∧ ∀ h : Fin 256, h ≠ 255 → phaseWaiters s.chip 0 h = [] := by
  decide +kernel

theorem witness_TagResults :
    (at_ war).Runs war bod ∧ (at_ war).Bare ∧ tagHolds (tagView (at_ war).chip 0) (.tagwa 0) = some 0
    ∧ tagHolds (tagView (at_ war).chip 0) (.tagwy 4 0xFFFFFFFFFFFFFFFF) = some 0xFFFFFFFFFFFFFFFF :=
  ⟨⟨rfl, rfl⟩, rfl, by decide +kernel⟩

/-- The partition holds cluster 0; core 0 holds a message in queue 3. -/
def posted (at_cycle : Nat) : State :=
  { core0 (at_ war) fun k => { k with queues := k.queues.set 3 [{ value := 77, at_ := at_cycle }] } with
    chip := { (core0 (at_ war) fun k => { k with queues := k.queues.set 3 [{ value := 77, at_ := at_cycle }] }).chip with
      dev := [(rPtn 0 1, 1)] } }

theorem witness_MessageResults :
    (posted 99).Runs war bod ∧ (posted 99).Bare
    ∧ ((sread war 8).toNat < 1024 ∧ (sread war 8).toNat % 256 < 192
        ∧ bit (dev (posted 99).chip (rPtn war.part.toNat 1)).toNat (clusterOf ((sread war 8).toNat % 256)) = true)
    ∧ bit (dev (posted 99).chip (rPtn war.part.toNat 1)).toNat (clusterOf ((sread war 7).toNat % 256)) = false
    ∧ (posted 99).CanTrap war
    ∧ (queueWaiters (posted 99).chip 0 3).length = 0 ∧ ((coreAt (posted 99).chip 0).queues[3])[0]? = some { value := 77, at_ := 99 }
    ∧ (99 < (posted 99).chip.cycle) ∧ (posted 100).chip.cycle ≤ 100 :=
  ⟨⟨rfl, rfl⟩, rfl, by decide +kernel, by decide +kernel, ⟨rfl, by decide +kernel⟩, by decide +kernel⟩

/-- A message in turn to queue 3 of core 0 that holds `n` others. -/
def sent (n : Nat) : State :=
  let s := core0 (at_ war) fun k => { k with queues := k.queues.set 3 (List.replicate n { value := 1, at_ := 1 }) }
  let g : Msg := { src := 1, dst := 0, q := 3, num := 0, value := 77, w := 0, flag := some 1, nacks := 0, left := true }
  { s with chip := { s.chip with msgs := [(9, g)],
                                 pairs := [(g.key, { next := 1, window := [9], blocked := none, expect := 0, linkFree := 0 })] } }

theorem witness_MessageDelivery :
    ∃ g, sget (sent 31).chip.msgs 9 = some g ∧ (pairAt (sent 31).chip g.key).expect = g.num
      ∧ (pairAt (sent 31).chip g.key).blocked = none ∧ ((coreAt (sent 31).chip g.dst).queues[g.q.val]).length = 31
      ∧ ((coreAt (sent 32).chip g.dst).queues[g.q.val]).length = 32 ∧ 9 ∈ (pairAt (sent 31).chip g.key).window ∧ g.left = true
      ∧ sget (sent 31).chip.warps g.w = some war :=
  ⟨{ src := 1, dst := 0, q := 3, num := 0, value := 77, w := 0, flag := some 1, nacks := 0, left := true },
   by decide +kernel⟩

/-- A warp of block 5 with room in its share, and the block as holder of tile 0 and plane 7. -/
def owner : Warp := { war with floor := 32, block := some 5 }
def holding : State :=
  core0 (at_ owner) fun k => { k with tileHolder := k.tileHolder.set 0 (some 5), planeHolder := k.planeHolder.set 7 (some 5),
                                      poolHolder := k.poolHolder.set 63 (some 5) }
/-- As `holding`, with a matrix command of the block in flight on tile 0. -/
def busyTile : State :=
  { holding with chip := { holding.chip with
      cmds := [(3, { Cmd.blank with core := 0, queue := 4, block := some 5, accepted := some 1 })] } }

theorem witness_ResourceResults :
    holding.Runs owner bod ∧ holding.Bare ∧ holding.CanTrap owner
    ∧ racqOk owner 1 511 = true ∧ racqOk owner 0 64 = true ∧ racqOk owner 0 68 = false ∧ racqOk owner 3 0 = false
    ∧ racqHeld holding.chip 0 1 511 = false ∧ racqWaiters holding.chip 0 = []
    ∧ (racqTry holding.chip 0 1 1).isSome = true ∧ racqTry holding.chip 0 3 64 = none
    ∧ rrelIds holding.chip 0 1 511 = [0] ∧ rrelIds holding.chip 0 2 7 = [7]
    ∧ (rrelIds holding.chip 0 1 511).all (fun i => !accBusy holding.chip 0 owner.block 1 i) = true
    ∧ (rrelIds busyTile.chip 0 1 511).any (fun i => accBusy busyTile.chip 0 owner.block 1 i) = true
    ∧ owner.block.isSome = true ∧ (coreAt holding.chip 0).poolHolder[63] = owner.block :=
  ⟨⟨rfl, rfl⟩, rfl, ⟨rfl, by decide +kernel⟩, by decide +kernel⟩

/-- The waits of RACQ and RREL end. -/
theorem witness_ResourceResults_grants :
    let x := { owner with wait := .racq 4 1 1 90 }
    let s := core0 (at_ x) id
    let y := { owner with wait := .rrel 1 0 }
    sget s.chip.warps 0 = some x ∧ x.body = some bod ∧ (racqTry s.chip 0 1 1).isSome = true
      ∧ sget (at_ y).chip.warps 0 = some y ∧ (rrelIds (at_ y).chip 0 1 0).all (fun i => !accBusy (at_ y).chip 0 y.block 1 i) = true :=
  ⟨by decide +kernel, rfl, by decide +kernel⟩


theorem witness_RegisterInstructionsKeepTheRest :
    (at_ war).Canonical ∧ (at_ war).Executes war bod (some { rnd := true, sat := true, c := true }) [5]
    ∧ (at_ war).Executes war bod none [94, 95] ∧ (at_ war).Executes war bod none []
    ∧ (at_ war).Executes war bod (some {}) (regRun 92 4) ∧ (at_ war).Runs war bod ∧ (at_ war).Bare
    ∧ (behind joined).Executes war bod (some (redAllow 8)) [4] :=
  ⟨⟨by decide +kernel, rfl⟩, executes _ _ (by decide +kernel), executes _ _ (by decide +kernel), executes _ _ (by decide +kernel),
   executes _ _ (by decide +kernel), ⟨rfl, rfl⟩, rfl, ⟨rfl, rfl⟩, by decide +kernel, .inr (by decide +kernel)⟩

theorem witness_SystemRegisterResults :
    (at_ kern).Runs kern kbod ∧ (at_ kern).Bare ∧ kern.kernel = true ∧ tlbiOk kern 7 0 = true ∧ tlbiOk kern 8 1 = true
    ∧ tlbiOk kern 0 2 = true
    ∧ sget (at_ { kern with wait := .tlbi 2 0 0 }).chip.warps 0 = some { kern with wait := .tlbi 2 0 0 }
    ∧ (1 : Fin 16) ≠ 0 ∧ (rBackoff = rCoTimeout ∨ rBackoff = rBackoff) :=
  ⟨⟨rfl, rfl⟩, rfl, rfl, by decide +kernel, by decide +kernel, by decide +kernel, rfl, by decide +kernel, .inr rfl⟩

theorem witness_RegionAndDebugResults :
    (at_ war).Runs war bod ∧ (at_ war).Bare ∧ (at_ war).CanTrap war ∧ (at_ war).chip.cur.next.toNat < bod.stop.toNat
    ∧ bod.stop.toNat ≤ (last_ war).chip.cur.next.toNat ∧ (at_ war).chip.lastStamp ≠ BitVec.allOnes 64 ∧ kern.kernel = true
    ∧ sget (at_ war).chip.warps 0 = some war ∧ coreOf 0 = (0 : CoreId).val ∧ sampleWarp (at_ war).chip 0 0 = some 0 :=
  ⟨⟨rfl, rfl⟩, rfl, ⟨rfl, by decide +kernel⟩, by decide +kernel⟩

/-- A warp of worker block 5 with a job; s12 names entry 65,535 of this chip, which its partition holds. -/
def working : Warp := { war with block := some 5, job := some 3, s := (Vector.replicate 32 0).set 12 65535 }
def named : State := { at_ working with chip := { (at_ working).chip with dev := [(rPevr 0, 65535 + 2 ^ 16)] } }

theorem witness_JobInstructionResults :
    named.Runs working bod ∧ named.Bare ∧ named.CanTrap working ∧ working.job = some 3
    ∧ ({ working with job := none } : Warp).block = some 5 ∧ working.kernel = false ∧ (0 : Fin 8).val = gMbox named.chip 5
    ∧ goodName named.chip working 12 ∧ working.rcl = false ∧ working.drn = false
    ∧ ({ working with rcl := true } : Warp).rcl = true ∧ war.job = none ∧ (2047 : Fin 2048).val ≠ 0 := by
  refine ⟨⟨rfl, rfl⟩, rfl, ⟨rfl, by decide +kernel⟩, rfl, rfl, rfl, by decide +kernel, ?_, by decide +kernel⟩
  unfold goodName; decide +kernel

/-- Entries 1 to 7 in their states, entry 8 queued for mailbox 7 of core 191, and requests for them. -/
def entries : State :=
  let e := fun (k : Fin 8) (n : BitVec 16) => { Event.blank with state := k, cnt := n }
  let r := fun (n : BitVec 26) (op : KilnOp) => ({ w := 0, part := 0, name := n, op := op, issued := 90 } : KilnReq)
  withChip fun c => { c with
    events := [(1, e 1 1), (2, e 2 1), (3, e 3 65535), (4, e 4 5), (5, e 5 0), (6, e 6 0), (7, { e 7 0 with cval := 9 }),
               (8, { e 2 1 with info := { JobInfo.blank with queued := some (191, 7) } })],
    kreqs := [(20, r 3 (.fref 2047)), (21, r 4 (.fdrop 4)), (22, r 3 .fcommit), (23, r 7 (.fpoll 4 0 1)), (24, r (65536 + 3) .fwait)],
    dev := [(rPevr 0, 65535 * 2 ^ 16)] }

theorem witness_EventTableResults_requests :
    let c := entries.chip
    isLocal c 3 = true ∧ isLocal c 7 = true
    ∧ (eventAt c 3).state = sRUNNING ∧ 4 < (eventAt c 4).cnt.toNat ∧ (eventAt c 4).state ≠ sFREE ∧ (eventAt c 4).state ≠ sCOUNTER
    ∧ sget c.warps 0 = some war ∧ (eventAt c 8).info.queued = some (191, 7) ∧ inRange c 0 65534 = true
    ∧ (∃ q, sget c.kreqs 24 = some q ∧ q.op = .fwait)
    ∧ fld (4#128).toNat 2 3 ≠ 0 ∧ fld (0#128).toNat 2 3 = 0 ∧ (eventAt c 65535).state ≠ sCOUNTER := by
  refine ⟨by decide +kernel, by decide +kernel, by decide +kernel, by decide +kernel, by decide +kernel,
    by decide +kernel, rfl, by decide +kernel, by decide +kernel, ⟨_, rfl, rfl⟩, by decide +kernel⟩

/-- Worker block 5 waits at mailbox 0 of its core, which holds a job. -/
def popping : State :=
  let x := { working with job := none, wait := .jpop 28 }
  core0 { at_ x with chip := { (at_ x).chip with dev := [(rGrp 5 0, 3)], events := [(8, { Event.blank with state := 2 })] } }
    fun k => { k with mail := k.mail.set 0 [{ idx := 8, words := Vector.replicate 4 1 }] }

theorem witness_EventTableResults_pop :
    (∀ id, ¬Due popping popping.chip.cycle (.eventRequestArrival id)) ∧ waitingBlocks popping.chip 0 0 = [5]
    ∧ (coreAt popping.chip 0).mail[0] = [{ idx := 8, words := Vector.replicate 4 1 }]
    ∧ 0 ∈ warpsOfBlock popping.chip 0 5 ∧ (28 : SReg).val + 3 < 32 :=
  ⟨fun _ h => by unfold Due at h; revert h; simp [popping, core0, modCore, at_, chipOf, State.reset, Chip.reset],
   by decide +kernel⟩

/-- Stream 5 of partition 0 runs, and the fetcher holds a word of it. -/
def wording (w : BitVec 256) (f : Chip → Chip) : State :=
  withChip fun c => f { c with
    streams := [(5, { Stream.blank with state := 1, run := true, pc := 256 })],
    fetcher := { c.fetcher with busy := some 5, word := w, begun := true } }

theorem word_held (w : BitVec 256) (f : Chip → Chip) (h : wordOk w = true) (hf : (f (wording w id).chip).fetcher = (wording w id).chip.fetcher)
    (hs : (f (wording w id).chip).streams = (wording w id).chip.streams) : (wording w f).HasWord 5 w := by
  have e : (wording w f).chip = f (wording w id).chip := rfl
  unfold State.HasWord
  rw [e, hf]
  unfold streamAt
  rw [hs]
  exact ⟨rfl, rfl, h, rfl, rfl⟩

/-- A JUMP to 512, one to 1, a LOOP, a HOSTSIG of vector 63 and of 64, a WAITEV and a SIGEV of entry n, a DROP of it. -/
def wJump (a : Nat) : BitVec 256 := BitVec.ofNat 256 (4 + a * 2 ^ 128)
def wHostsig (v : Nat) : BitVec 256 := BitVec.ofNat 256 (8 + v * 2 ^ 96)
/-- DROP of one event, 3, by k. -/
def wDrop (k : Nat) : BitVec 256 := BitVec.ofNat 256 (12 + 2 ^ 32 + 2 ^ 48 + 3 * 2 ^ 64 + k * 2 ^ 96)
def wWaitev (n k : Nat) : BitVec 256 := BitVec.ofNat 256 (2 + k * 2 ^ 96 + n * 2 ^ 192)

theorem witness_OperatorWordResults :
    (wording (wJump 512) id).HasWord 5 (wJump 512) ∧ (wArg (wJump 512)).toNat % 256 = 0 ∧ (wArg (wJump 1)).toNat % 256 ≠ 0
    ∧ (wording (wHostsig 63) id).HasWord 5 (wHostsig 63) ∧ wCons (wHostsig 63) ≤ 63 ∧ 63 < wCons (wHostsig 64)
    ∧ (wording (wHostsig 63) id).chip.recovery = false ∧ ((sget (wording (wHostsig 63) id).chip.msixMask 0).getD 0).getLsbD 63 = false
    ∧ streamBusy (wording (wJump 512) id).chip 5 = false
    ∧ streamBusy (wording (wJump 512) fun c => { c with events := [(1, { Event.blank with state := 2, stream := 5 })] }).chip 5 = true
    ∧ (wording (wWaitev 7 9) fun c => { c with events := entries.chip.events }).HasWord 5 (wWaitev 7 9)
    ∧ isLocal (wording (wWaitev 7 9) fun c => { c with events := entries.chip.events }).chip (wProd (wWaitev 7 9)) = true
    ∧ evIdx (wProd (wWaitev 7 9)) = 7 ∧ wCons (wWaitev 7 9) ≤ (eventAt entries.chip 7).cval.toNat
    ∧ (∀ n ∈ [1, 2, 3, 4, 5, 6, 7], wordOk (wWaitev n 1) = true ∧ (eventAt entries.chip n).state.val = n)
    ∧ (eventAt entries.chip 7).cval ≠ 0
    ∧ (wording (wDrop 65534) fun c => { c with events := entries.chip.events }).HasWord 5 (wDrop 65534)
    ∧ wGx (wDrop 65534) * wGy (wDrop 65534) = 1 ∧ (wEb (wDrop 65534) % 65536 + wordOff Stream.blank (wDrop 65534)) % 65536 = 3
    ∧ wEb (wDrop 65534) % 2 ^ 26 / 65536 = entries.chip.chipNo.toNat ∧ wCons (wDrop 65534) < (eventAt entries.chip 3).cnt.toNat := by
  refine ⟨word_held _ _ (by decide +kernel) rfl rfl, by decide +kernel, by decide +kernel, word_held _ _ (by decide +kernel) rfl rfl,
    by decide +kernel, by decide +kernel, rfl, by decide +kernel, by decide +kernel, by decide +kernel,
    word_held _ _ (by decide +kernel) rfl rfl, by decide +kernel, by decide +kernel, by decide +kernel, by decide +kernel,
    by decide +kernel, word_held _ _ (by decide +kernel) rfl rfl, by decide +kernel⟩


/-! ### Kiln, engines and the matrix engine -/

/-- A TILE of a 2 x 1 grid from entry 100 on, and a PIN, UNPIN or PREFETCH at core n. -/
def wTile : BitVec 256 := BitVec.ofNat 256 (1 + 2 * 2 ^ 32 + 1 * 2 ^ 48 + 100 * 2 ^ 64 + 3 * 2 ^ 96)
def wPin (n : Nat) : BitVec 256 := BitVec.ofNat 256 (9 + n * 2 ^ 32 + 1024 * 2 ^ 192)
/-- The Kiln's accesses reach page 0 of HBM. -/
def kilnPage (c : Chip) : Chip := modCore c 192 fun k => { k with tlb := [fetchLeaf 0] }

theorem witness_TileAndCopyWordResults :
    (wording wTile kilnPage).HasWord 5 wTile ∧ (wording wTile kilnPage).chip.fetcher.begun = true
    ∧ (wording wTile kilnPage).chip.fetcher.index < wGx wTile * wGy wTile ∧ wSten wTile = 0
    ∧ reusable (eventAt (wording wTile kilnPage).chip 100) = true
    ∧ (∃ out c, kilnRead (wording wTile kilnPage).mem (wording wTile kilnPage).chip 0 (wArg wTile).toNat 64 = .ok (out, c))
    ∧ reusable (eventAt entries.chip 4) = false
    ∧ wGx wTile * wGy wTile ≤ 2
    ∧ (wording (wPin 191) id).HasWord 5 (wPin 191) ∧ wGx (wPin 191) < 192 ∧ 192 ≤ wGx (wPin 192)
    ∧ ∃ v c, kilnRead (wording wTile kilnPage).mem (wording wTile kilnPage).chip 0 0 256 = .ok (v, c) :=
  ⟨word_held _ _ (by decide +kernel) rfl rfl, rfl, by decide +kernel, by decide +kernel, by decide +kernel, ⟨_, _, rfl⟩,
   by decide +kernel, by decide +kernel, word_held _ _ (by decide +kernel) rfl rfl, by decide +kernel, by decide +kernel, _, _, rfl⟩

/-- A chip whose stream 5 is as given, its partition accepted. -/
def streaming (x : Stream) : State := withChip fun c => { c with streams := [(5, x)], accepted := [0] }
def draining (step : Nat) : Stream :=
  { Stream.blank with state := 3, drain := some { favour := 6, step := step, since := 10, timedOut := false } }
/-- Entry 3 of stream 6 of a higher priority has waited for the mailbox that entry 2 of stream 5 holds. -/
def preempted : State :=
  { streaming Stream.blank with chip := { (streaming Stream.blank).chip with
      cycle := 20000,
      streams := [(5, { Stream.blank with state := 1 }), (6, { Stream.blank with state := 1, prio := 1 })],
      warps := [(0, working)],
      dev := [(rGrp 5 0, 3)],
      events := [(2, { Event.blank with state := 2, stream := 5, info := { JobInfo.blank with queued := some (0, 0) } }),
                 (3, { Event.blank with state := 2, stream := 6, info := { JobInfo.blank with blocked := some 10 } })] } }

theorem witness_StreamResults :
    let x := Stream.blank
    (streaming x).chip.accepted.contains x.part.toNat = true ∧ (x.state = 0 ∨ x.state = 5 ∨ x.state = 6)
    ∧ (streamAt (wording wTile id).chip 5).state = 1 ∧ (wording wTile id).chip.fetcher.busy = some 5
    ∧ (streamAt (streaming { x with state := 1 }).chip 5).state = 1 ∧ (streaming { x with state := 1 }).chip.fetcher.busy ≠ some 5
    ∧ ¬(({ x with state := 2 } : Stream).state = 0 ∨ ({ x with state := 2 } : Stream).state = 5 ∨ ({ x with state := 2 } : Stream).state = 6)
    ∧ (4096#64).toNat % 4096 = 0 ∧ fld (0x605#64).toNat 0 6 = (5 : StreamId).val ∧ fld (0x605#64).toNat 8 6 ≠ (5 : StreamId).val
    ∧ ({ x with state := 2 } : Stream).state.val < 3
    ∧ (∃ d, (draining 2).drain = some d ∧ d.step = 2 ∧ d.timedOut = false)
    ∧ ((streaming (draining 2)).chip.events.all fun e => !(e.2.stream.toNat == 5 && e.2.state == sRUNNING)) = true
    ∧ ((streaming (draining 3)).chip.cmds.all fun e => decide (e.2.stream ≠ some 5)) = true
    ∧ saveOk (saveFound (streaming (draining 3)).mem (streaming (draining 3)).chip (draining 3) .store) = false
    ∧ 10 + (dev preempted.chip rDrainTmo).toNat ≤ 70000
    ∧ saveOk (saveFound (streaming x).mem (streaming x).chip { x with state := 4 } .load) = false
    ∧ ((streaming { x with state := 4 }).chip.ops.all fun o => o.2.kind != .restore 5) = true :=
  ⟨by decide +kernel, .inl rfl, by decide +kernel, rfl, by decide +kernel, by decide +kernel, by decide +kernel, by decide +kernel,
   by decide +kernel, by decide +kernel, by decide +kernel, ⟨_, rfl, rfl, rfl⟩, by decide +kernel⟩

theorem witness_StreamResults_automatic :
    preemptDue preempted.chip (eventAt preempted.chip 3) = true
    ∧ victim preempted.chip (eventAt preempted.chip 3) = some (5 : StreamId).val := by
  decide +kernel

theorem witness_MatrixResults_instructions :
    holding.Runs owner bod ∧ holding.Bare ∧ holding.warpNo < 24576 ∧ holdsTile holding.chip 0 owner.block 0 = true
    ∧ exceeds owner (regRun 28 4) = false ∧ holdsPlane holding.chip 0 owner.block 7 = true
    ∧ holdsTile holding.chip 0 owner.block 3 = false ∧ holding.CanTrap owner :=
  ⟨⟨rfl, rfl⟩, rfl, by decide +kernel, rfl, rfl, by decide +kernel, by decide +kernel, rfl, by decide +kernel⟩

/-- An SCACC at the head of its datapath. -/
def scaled : Scacc :=
  { w := 0, ac := 0, pl := 7, imm := 15, ue := false, sa := Vector.replicate 32 0, sb := List.replicate 4 (Vector.replicate 32 0),
    flag := none, at_ := 50 }

theorem witness_MatrixResults_scacc :
    let s := core0 (at_ war) fun k => { k with scaccs := [scaled] }
    (coreAt s.chip 0).scaccs = [scaled] ∧ scaled.at_ ≤ s.chip.cycle ∧ (coreAt s.chip 0).accPastAt ≠ s.chip.cycle ∧ scaled.sb[3]?.isSome = true :=
  by decide +kernel

/-- A command of core 0, accepted at 10, at the head of a queue, with pages for its core and a shape of one 32-bit element. -/
def command (q : Fin 9) (w0 w1 w2 w3 : W64) : Cmd :=
  { Cmd.blank with w := 0, queue := q, tag := some 63, accepted := some 10, released := true, words := #v[w0, w1, w2, w3] }
def oneElement : Nat := 31 + 2 ^ 8 + 2 ^ 28 + 2 ^ 48 + 2 ^ 68
def shapeCells : List Host.Cell :=
  (((List.range 9).map fun i => (512 + i, BitVec.ofNat 8 (oneElement / 2 ^ (8 * i)))).filter fun e => e.2 != 0)
def commanded (d : Cmd) : State :=
  { mem := shapeCells,
    chip := modCore { (paged war).chip with cmds := [(3, d)] } 0 fun k => { k with eng := k.eng.set d.queue.val [3] } }

theorem may_start (d : Cmd) (h : (nextOf (commanded d).chip d.core d.queue).map (·.1) = some 3) (ha : d.accepted = some 10)
    (hl : 10 + lead d ≤ 100) (h1 : d.started = false) (h2 : d.waiting = false) (h3 : d.finished = none) (h4 : d.released = true) :
    (commanded d).MayStart 3 d := by
  refine ⟨?_, ⟨10, ha, hl⟩, h1, h2, h3, h4, h⟩
  simp [commanded, sget, modCore]

def multiply : Cmd := { command 4 0 0 0 0 with shape := some 0 }

theorem witness_MatrixResults_commands :
    (commanded multiply).MayStart 3 multiply ∧ multiply.shape = some 0
    ∧ (coreAt (commanded multiply).chip 0).mxC ≤ (commanded multiply).chip.cycle ∧ arrayWinner (commanded multiply).chip 0 = some 3
    ∧ (commanded (command 4 1 0 0 0)).MayStart 3 (command 4 1 0 0 0)
    ∧ multiply.mx = none ∧ (command 4 1 0 0 0).shape = none
    ∧ readParams (commanded (command 4 1 0 0 0)).mem (commanded (command 4 1 0 0 0)).chip (command 4 1 0 0 0)
        = .ok (none, (commanded (command 4 1 0 0 0)).chip)
    ∧ (commanded multiply).chip.cycle < (coreAt (core0 (commanded multiply) fun k => { k with mxC := 101 }).chip 0).mxC
    ∧ (coreAt (commanded (command 4 1 0 0 0)).chip 0).mxC ≤ 100 ∧ arrayWinner (commanded (command 4 1 0 0 0)).chip 0 = some 3 :=
  ⟨may_start _ (by decide +kernel) rfl (by decide +kernel) rfl rfl rfl rfl, rfl, by decide +kernel, by decide +kernel,
   may_start _ (by decide +kernel) rfl (by decide +kernel) rfl rfl rfl rfl, rfl, rfl, rfl, by decide +kernel⟩

/-- A matrix command in its drain. -/
def drain : MxRun := { blocks := [(20, 90)], plan := [], a := [], b := [], sums := [(0, [1])], prev := (0, 0, 0) }

theorem witness_MatrixResults_drain :
    let d := { multiply with mx := some drain, started := true }
    sget (commanded d).chip.cmds 3 = some d ∧ d.mx = some drain ∧ d.shape = some 0 ∧ d.finished = none
    ∧ 20 + pbP (0#512).toNat < (commanded d).chip.cycle ∧ 90 ≤ (commanded d).chip.cycle ∧ (commanded d).chip.cycle < 90 + 32
    ∧ sget drain.sums 0 = some [1] :=
  by decide +kernel

/-- A GO of command 3 that may be accepted, into a queue with n commands. -/
def going (n : Nat) : State :=
  let s := commanded { command 0 0 0 0 0 with accepted := none }
  core0 s fun k => { k with go := k.go.set 0 [(3, 99)], eng := k.eng.set 0 (List.replicate n 4) }

theorem shape_of {e : Except (List AFault) (Option Nat × Chip)} {a : Option Nat}
    (h : (match e with | .ok r => decide (r.1 = a) | .error _ => false) = true) : ∃ c, e = .ok (a, c) := by
  cases e with
  | error _ => cases h
  | ok r => exact ⟨r.2, by rw [← of_decide_eq_true h]⟩

def copyCmd : Cmd := command 0 0 8192 4096 (0 + 15 * 16 + 15 * 256)

theorem witness_EngineCommandResults_accept :
    sget (going 15).chip.cmds 3 = some { command 0 0 0 0 0 with accepted := none }
    ∧ (coreAt (going 15).chip 0).go[0] = [(3, 99)] ∧ 99 ≤ (going 15).chip.cycle
    ∧ ((coreAt (going 15).chip 0).eng[0]).length < 16 ∧ 16 ≤ ((coreAt (going 16).chip 0).eng[0]).length
    ∧ wordsBad (going 15).chip (command 0 0 0 0 0) = false ∧ wordsBad (going 15).chip (command 0 0 0 0 9) = true
    ∧ (command 0 0 0 0 0).tag = some 63 ∧ (command 0 0 0 0 0).notify = false
    ∧ (eventAt (going 15).chip 3).info.jdone = false :=
  by decide +kernel

theorem witness_EngineCommandResults_start :
    let d := copyCmd
    let s := commanded d
    s.MayStart 3 d ∧ (∃ c, readShape (commanded (command 0 0 0 1 0)).mem (commanded (command 0 0 0 1 0)).chip (command 0 0 0 1 0) = .ok (none, c))
    ∧ (∃ c, readShape s.mem s.chip d = .ok (some oneElement, c)) ∧ shapeSuits d oneElement = true ∧ shapeSuits d 0 = false
    ∧ faultsOf ((findAll s.mem s.chip d .load (cpReads d oneElement) ++ findAll s.mem s.chip d .store (cpWrites d oneElement)).flatMap (·.2)) = []
    ∧ ((findAll s.mem s.chip d .load (cpReads d oneElement)).flatMap fun e => foundOf e.2).any (fun f => f.x.cls == 4) = false
    ∧ d.dst = [] :=
  ⟨may_start _ (by decide +kernel) rfl (by decide +kernel) rfl rfl rfl rfl, shape_of (by decide +kernel), shape_of (by decide +kernel),
   by decide +kernel⟩

theorem witness_EngineCommandResults_pin :
    let d := command 0 0 1024 0 3
    let s := { commanded d with chip := modCore (commanded d).chip 0 fun k => { k with tlb := [{ fetchLeaf 0 with pte := 0x217 }] } }
    faultsOf (pinPages s.mem s.chip d) = [] ∧ (foundOf (pinPages s.mem s.chip d)).flatMap linesOf = [0]
    ∧ (∀ f ∈ foundOf (pinPages s.mem s.chip d), f.x.home = 1) ∧ s.chip.pinned = [] ∧ pinnedIn s.chip (sliceOfLine 0) + 1 ≤ pinLimit
    ∧ ¬(∀ f ∈ foundOf (pinPages (commanded d).mem (commanded d).chip d), f.x.home = 1) :=
  by decide +kernel


theorem witness_StepRunsDecodedInstruction :
    let s := State.reset.withFetchWord 32 0x2D1
    let x := fetchWarp { Warp.blank with floor := 96 } 32
    let b : Body := { hdr := 0, pc := 64, stop := 96, prio := 0, mask := 0xFFFFFFFF, setA := none, setB := none, kernel := false }
    s.Runs x b ∧ s.chip.phase = .issue ∧ fetchBits s.mem s.chip 0 64 16 = .val 0x2D1 ∧ fetchBits s.mem s.chip 0 80 16 = .val 0
    ∧ s.chip.cur.pc.toNat + 32 ≤ b.stop.toNat ∧ decode (halfBytes 0x2D1 ++ halfBytes 0) = .ok (.nop, 4)
    ∧ (∃ e, decode (halfBytes 0x3F ++ halfBytes 0) = .error e) ∧ decode (halfBytes 0x1500) = .ok (.iaddC ⟨8, 5, false⟩, 2) :=
  ⟨⟨rfl, rfl⟩, rfl, by decide +kernel, by decide +kernel, by decide +kernel, rfl, ⟨_, rfl⟩, rfl⟩

/-- The next instruction stands behind one of 16 bits, and behind one of 32; a body of 16 bits ends before a word of 32. -/
theorem witness_StepRunsDecodedInstruction_compact :
    fetchBits (State.reset.withFetchWord 16 0x1500).mem (State.reset.withFetchWord 16 0x1500).chip 0 64 16 = .val 0x1500
    ∧ (80#64).toNat < (64#64).toNat + 32 := by decide +kernel

/-- An event that is due, and the end of a cycle. -/
theorem witness_StepRunsDecodedInstruction_events :
    let s : State := { State.reset with chip := { State.reset.chip with agenda := [(0, .coneTick)] } }
    let t : State := { State.reset with chip := { State.reset.chip with pos := 6144 } }
    s.chip.phase = .idle ∧ dueEvent s.chip = some .coneTick ∧ t.chip.phase = .idle ∧ dueEvent t.chip = none ∧ 6144 ≤ t.chip.pos :=
  by decide +kernel

/-- A read of source block 0 of command 3, and a write of it to block 4, in flight; the read is answered. -/
def reading (d : Cmd) : State :=
  let o := { flight (.cmdRead 3 0) with act := 1, addr := Vector.replicate 32 0, width := 1024 }
  { commanded d with chip := { (commanded d).chip with
      ops := [(5, o), (7, { o with kind := .cmdWrite 3, addr := Vector.replicate 32 4096 })],
      reqs := [(6, { asked ⟨0, 0, ⟨.hbm, 0⟩, 1024⟩ false with done := true })] } }

def copying : Cmd := { copyCmd with started := true, shape := some (BitVec.ofNat 512 oneElement), src := [(0, none)], dst := [7] }

theorem witness_SourceReplyResults :
    let s := reading copying
    let c := takeEffect s.mem s.chip 6
    (∃ r o, sget c.reqs 6 = some r ∧ sget c.ops r.op = some o ∧ o.kind = .cmdRead 3 0 ∧ o.poison = 0 ∧ o.gone = 0)
    ∧ sget c.cmds 3 = some copying ∧ copying.finished = none ∧ engOf copying.queue = 0
    ∧ (∃ p, sget c.ops 7 = some p ∧ 7 ∈ copying.dst)
    ∧ gotAll [(0, some 0)] (cpSrc copying oneElement 0) (cpSrcW copying oneElement) = true
    ∧ engOf (6 : Fin 9) = 2 ∧ engOf (8 : Fin 9) = 3
    ∧ coP { command 8 0 0 256 0 with src := [(0, some 0)] } = 1 ∧ coArrived { command 8 0 0 256 0 with src := [(0, some 0)] } = true :=
  ⟨⟨{ asked ⟨0, 0, ⟨.hbm, 0⟩, 1024⟩ false with done := true },
    { flight (.cmdRead 3 0) with act := 1, addr := Vector.replicate 32 0, width := 1024 },
    by decide +kernel⟩, by decide +kernel, rfl, by decide +kernel,
   ⟨{ flight (.cmdWrite 3) with act := 1, addr := Vector.replicate 32 4096, width := 1024 }, by decide +kernel⟩,
   by decide +kernel⟩

/-- A gather of one element, with its destination on a page of the core's scratchpad. -/
def gathering : Cmd := command 6 0 (2 ^ 19) 0 (31 * 2 ^ 9)
def gatherState (dstPte : Nat) (d : Cmd) : State :=
  { commanded d with chip := modCore (commanded d).chip 0 fun k =>
      { k with tlb := [fetchLeaf 0, { part := 0, base := 2 ^ 19, size := 2 ^ 19, pte := dstPte }] } }

theorem witness_GatherCollectiveResults_gather :
    let s := gatherState (0x227 + 5 * 2 ^ 9) gathering
    let dst := findAll s.mem s.chip gathering .store (gaWrites gathering)
    (nextOf s.chip 0 6).map (·.1) = some 3 ∧ 10 + lead gathering ≤ s.chip.cycle
    ∧ faultsOf ((findAll s.mem s.chip gathering .load (gaIdxReads gathering) ++ dst).flatMap (·.2)) = []
    ∧ ((dst.flatMap fun e => foundOf e.2).all fun f => f.x.home == 2) = true
    ∧ (((findAll (gatherState 0x207 gathering).mem (gatherState 0x207 gathering).chip gathering .store (gaWrites gathering)).flatMap
        fun e => foundOf e.2).all fun f => f.x.home == 2) = false := by
  decide +kernel

theorem witness_GatherCollectiveResults_collective :
    let d := command 8 0 4096 (1 * 2 ^ 32 + 2 * 2 ^ 8) 0
    (commanded d).MayStart 3 d ∧ 2 ≤ coP d ∧ coP (command 8 0 4096 (1 * 2 ^ 32 + 1 * 2 ^ 8) 0) = 1
    ∧ faultsOf ((findAll (commanded d).mem (commanded d).chip d .load (coReads d) ++ findAll (commanded d).mem (commanded d).chip d .store (coWrites d)).flatMap (·.2)) = []
    ∧ ((commanded d).chip.colls.find? fun k => k.2.g == coGroup d && !k.2.closed) = none :=
  ⟨may_start _ (by decide +kernel) rfl (by decide +kernel) rfl rfl rfl rfl, by decide +kernel⟩

/-- A closed instance of command 3 alone, its block just read, and one that has not closed. -/
theorem witness_GatherCollectiveResults_instance :
    let d := { command 8 0 4096 (1 * 2 ^ 32 + 2 * 2 ^ 8) 0 with started := true, src := [(0, none)], dst := [7] }
    let j : Coll := { g := 0, p := 2, members := [3], closed := true, expired := false }
    let s := { reading d with chip := { (reading d).chip with colls := [(1, j)] } }
    let e := { d with src := [(0, some 0)] }
    ((takeEffect s.mem s.chip 6).colls.find? fun k => k.2.members.contains 3) = some (1, j)
    ∧ coArrived e = true ∧ coAgree [(3, e)] = true ∧ coAgree [(3, e), (4, { e with words := #v[0, 0, 0, 0] })] = false
    ∧ sget [(2, ({ g := 0, p := 2, members := [3], closed := false, expired := false } : Coll))] 2 = some { g := 0, p := 2, members := [3], closed := false, expired := false } :=
  by decide +kernel

def faulted : FaultEntry :=
  { part := 0, page := 0, bits := 19, warps := [0], cmds := [3], streams := [5], addr := 0, migration := true, what := [(0, (1, 0, 7))] }

theorem witness_MemoryEventResults :
    let s := flying (.load 4 7 false false) bits10 false
    s.Canonical ∧ (s.chip.reqs.find? fun e => readsSector 0 e.2) = some (6, asked bits10 false)
    ∧ sget s.chip.ops 5 = some (flight (.load 4 7 false false)) ∧ firstArrived s.chip 6 = 6
    ∧ (withChip fun c => { c with faulting := [(9, faulted)] }).Canonical
    ∧ ((withChip fun c => { c with faults := [(4095, faulted)] }).chip.faults.find? fun k => k.2.part == faulted.part && k.2.page == faulted.page
          && k.2.bits == faulted.bits)
        = some (4095, faulted)
    ∧ freeFault (withChip id).chip = some 0
    ∧ stillWaits (withChip id).chip 0 = false
    ∧ (dev (withChip id).chip (rKvec (coreOf 0))).toNat % 64 = 0 :=
  ⟨⟨by decide +kernel, rfl⟩, by decide +kernel, rfl, by decide +kernel, ⟨by decide +kernel, rfl⟩, by decide +kernel⟩

/-- A fault that waits for its warp's next opportunity, and a line of instructions on its way. -/
theorem witness_MemoryEventResults_deferred :
    let d : Deferred := { code := cWATCH, sub := 0, addr := 0, tmask := 1, pc := 64, seq := 0, cycle := 90, kernel := false,
                          key := 3, cone := none, rcl := false, drn := false }
    let x := { war with deferred := [d] }
    dueDeferred x = some d ∧ d.kernel = false ∧ x.kernel = false
    ∧ (let k : Walk := { core := 0, part := 0, va := 0, rest := [], base := ⟨.hbm, 0⟩, entry := some (fetchLeaf 0), warps := [0],
                         lines := [], prefs := [] }
       sget [(1, k)] 1 = some k ∧ k.entry = some (fetchLeaf 0) ∧ 0 ∈ k.warps ∧ ∀ e ∈ sdel [(1, k)] 1, 0 ∉ e.2.warps) :=
  by decide +kernel

/-- The read of line 0 of instructions, under way. -/
def lining (gone : Bool) : State :=
  let o := { flight (.line 0 0) with w := 24576, act := 1, data := Vector.replicate 32 0, width := 1024, flag := none }
  let home : Home := if gone then .sram 0 else .l2 0
  core0 { at_ war with chip := { (at_ war).chip with
      ops := [(5, o)], reqs := [(6, { asked ⟨0, 0, lineAddr 0, 1024⟩ false with home := home })] } }
    fun k => { k with icWait := [{ line := 0, op := 5 }], hosted := true }

theorem witness_MemoryEventResults_line :
    ((coreAt (lining false).chip 0).icWait.find? fun r => r.line == 0) = some { line := 0, op := 5 }
    ∧ (∃ o, sget (lining false).chip.ops 5 = some o ∧ o.kind = .line 0 0 ∧ o.w = 24576 ∧ o.core = 0 ∧ o.left = 1 ∧ o.gone = 0 ∧ o.data[0] = 0)
    ∧ reqsOf (lining false).chip 5 = [6]
    ∧ (∃ q, sget (lining false).chip.reqs 6 = some q ∧ q.done = false ∧ q.pieces = [⟨0, 0, lineAddr 0, 1024⟩]
        ∧ homeGone (lining false).chip q.home = false)
    ∧ (∃ q, sget (lining true).chip.reqs 6 = some q ∧ homeGone (lining true).chip q.home = true)
    ∧ badSectors (lining false).chip ⟨0, 0, lineAddr 0, 1024⟩ = [] ∧ undefMask (lining false).chip ⟨0, 0, lineAddr 0, 1024⟩ = 0
    ∧ (coreAt (lining false).chip 0).icAge.length < icLines :=
  ⟨by decide +kernel, ⟨_, rfl, by decide +kernel⟩, by decide +kernel, ⟨_, rfl, by decide +kernel⟩, ⟨_, rfl, by decide +kernel⟩,
   by decide +kernel⟩

/-- A slice that is busy, and one whose first warp may issue. -/
def ready : State := State.reset.withFetchWord 32 0x2D1

theorem witness_SchedulerAndWheelResults_issue :
    (core0 ready fun k => { k with slices := [(0, { busy := 5, last := 3 })] }).chip.cycle < 5
    ∧ (sliceAt ready.chip 0 0).busy ≤ ready.chip.cycle
    ∧ ((List.range 4).all fun i => calm (look ready.mem ready.chip i)) = true
    ∧ ((turnOrder 0 0 (sliceAt ready.chip 0 0).last).find? fun w => isReady (look ready.mem ready.chip w)) = some 0
    ∧ ((turnOrder 191 31 3).find? fun w => isReady (look ready.mem ready.chip w)) = none := by
  decide +kernel

/-- A warp at a clause boundary whose timer has expired, of a halted block. -/
def timed : Warp :=
  { war with body := none, tcmp := 50, block := some 5,
             frontier := [{ pc := 128, hdr := 128, prio := 7, mask := 1, age := 1024 }] }

theorem witness_SchedulerAndWheelResults_controls :
    let s : State := { at_ timed with chip := { (at_ timed).chip with halts := [(5, false)] } }
    sget s.chip.warps 0 = some timed ∧ timerDue s.chip timed = true ∧ timed.body = none ∧ timed.wait = .none ∧ timed.halted = false
    ∧ (∃ e, select timed = some e ∧ 1024 ≤ e.age) ∧ timed.tvec = 0 ∧ ({ timed with tvec := 2 } : Warp).tvec ≠ 0
    ∧ (dev s.chip (rKvec (coreOf 0))).toNat % 64 = 0 ∧ isHalted s.chip 0 5 = true ∧ isHalted s.chip 0 6 = false
    ∧ s.chip.warps = [(0, timed)] ∧ jobOfBlock s.chip 0 5 = none
    ∧ ({ war with wait := .halt } : Warp).wait = .halt ∧ s.chip.conePhys.toNat < coneTop
    ∧ (BitVec.ofNat 48 coneTop).toNat = coneTop ∧ ((sget s.chip.msixMask 0).getD 0).getLsbD 0 = false
    ∧ s.chip.coneWritten = false ∧ (0#64).toNat % 2 ^ 48 < (5#48).toNat :=
  ⟨rfl, by decide +kernel, rfl, rfl, rfl, ⟨{ pc := 128, hdr := 128, prio := 7, mask := 1, age := 1024 }, by decide +kernel⟩, by decide +kernel⟩

/-- Partitions 0 and 1 with the first GiB of HBM; their root at 2^20 leads to a table at 2^21, whose first leaf is that GiB. -/
def leafed : State :=
  { mem := [(2 ^ 17, 0x01), (2 ^ 17 + 2, 0x20), (2 ^ 18, 0x07), (2 ^ 18 + 1, 0x06)],
    chip := { (at_ war).chip with
      dev := [(rPtRoot 0, 2 ^ 20), (rPtRoot 1, 2 ^ 20), (rPtn 0 2, 2 ^ 20), (rPtn 1 2, 2 ^ 20)],
      handover := [(0, (0, 1))], giving := [(1, (0, 5))] } }

theorem witness_FabricAndHostResults :
    let s := withChip fun c => { c with msixPend := [(0, 2)] }
    let q := remotePiece 4398046510080 1024
    s.Canonical ∧ (∀ u ∈ unitsOf q, sget s.chip.keyed u = none) ∧ (∀ k ∈ sectorsOf q, sget s.chip.poison k = none)
    ∧ max s.chip.lastStamp.toNat (5#64).toNat < 2 ^ 64 - 1 ∧ s.chip.recovery = false
    ∧ leafOf leafed.mem leafed.chip 0 0 = some (⟨.hbm, 2 ^ 21⟩, 0x607, 33)
    ∧ leafOf leafed.mem leafed.chip 1 0 = some (⟨.hbm, 2 ^ 21⟩, 0x607, 33)
    ∧ pageBusy leafed.chip 1 (pageRange 0x607 33) 33 = false
    ∧ pageBusy { leafed.chip with ops := [(5, { flight (.load 4 7 false false) with part := 1 })], reqs := [(6, asked bits10 false)] }
        1 (pageRange 0x607 33) 33 = true
    ∧ sget leafed.chip.handover 0 = some (0, 1) ∧ (1#64).toNat % 4 = 1 ∧ (2#64).toNat % 4 = 2
    ∧ sget leafed.chip.giving 0 = none ∧ sget leafed.chip.giving 1 = some (0, 5)
    ∧ ((sget s.chip.msixPend 0).getD 0).getLsbD 1 = true ∧ ((sget s.chip.msixPend 0).getD 0).getLsbD 0 = false
    ∧ Config.svnMinimum.toNat ≤ (0xFFFF#16).toNat ∧ s.chip.upStep < 3
    ∧ ptnOn s.chip 0 = false ∧ ptnOn { s.chip with dev := [(rPtn 0 0, 1)] } 0 = true :=
  ⟨⟨by decide +kernel, rfl⟩, by decide +kernel, by decide +kernel, by decide +kernel, rfl, by decide +kernel, by decide +kernel, by decide +kernel, by decide +kernel, rfl, by decide +kernel,
   by decide +kernel, rfl, rfl, by decide +kernel, by decide +kernel, by have := Config.svnMinimum.isLt; simp; omega, by decide +kernel⟩

theorem witness_PartitionAndLimitResults :
    let s := withChip fun c => { c with
      caps := [{ rank := 4, src := 1, watts := 700, part := 2, seq := 1, received := 0, expires := some 5 }], wall := 5, resets := [(1, 2)] }
    ((1#64).getLsbD 0 = true ∧ ptnOn s.chip 0 = false
      ∧ ([1, 2, 3, 5].any fun k => ptnClash s.chip 0 k (dev s.chip (rPtn 0 k)).toNat) = false ∧ turnsWith s.chip 0 ≤ 64)
    ∧ (let t := { s.chip with dev := [(rPtn 0 1, 1), (rPtn 3 0, 1), (rPtn 3 1, 1)] }
       ([1, 2, 3, 5].any fun k => ptnClash t 0 k (dev t (rPtn 0 k)).toNat) = true)
    ∧ sget s.chip.resets 0 = none ∧ sget s.chip.resets 1 ≠ none ∧ cmdsOf s.chip 1 = []
    ∧ cmdsOf { s.chip with cmds := [(3, { Cmd.blank with part := 1 })] } 1 ≠ []
    ∧ s.chip.recovery = false ∧ ((sget s.chip.msixMask 1).getD 0).getLsbD 4 = false
    ∧ (let t := { s.chip with dev := [(rSvn, 5)] }
       (dev t rSvn).toNat ≤ (5#64).toNat % 65536 ∧ (65540#64).toNat % 65536 < (dev t rSvn).toNat)
    ∧ (∃ k, s.chip.caps[0]? = some k ∧ k.expires = some 5 ∧ 5 ≤ s.chip.wall)
    ∧ (firstCap s.chip fun k => k.rank == 4 && k.part == 2).isSome = true :=
  ⟨by decide +kernel, by decide +kernel, rfl, by decide +kernel, by decide +kernel,
   by decide +kernel, rfl, by decide +kernel, by decide +kernel, ⟨_, rfl, rfl, by decide +kernel⟩, by decide +kernel⟩


/-! ## Tags that an opaque code makes -/

/-- Version 1, rank 0 for site 0, with SEQ 0: the first 32 bytes of a cap frame, and its tag. -/
def frameHead : List Byte := 1 :: List.replicate 31 0
def frameTag : BitVec 256 := kmac (BitVec.ofNat 256 (wide4 State.reset.chip (rCapKey 0))) frameHead

theorem witness_PartitionAndLimitResults_frame :
    let fr : CapFrame := ⟨0, frameHead ++ natBytes 32 frameTag.toNat⟩
    fr.dest.toNat = (dev State.reset.chip rMcast).toNat % 2 ^ 48 ∧ frameOk State.reset.chip fr.bytes = true
    ∧ (State.reset.chip.caps.filter fun e => e.rank == (frameCap State.reset.chip fr.bytes).rank).length < 16
    ∧ frameOk State.reset.chip [] = false := by
  have head : (frameHead ++ natBytes 32 frameTag.toNat).take 32 = frameHead := rfl
  have tail : (frameHead ++ natBytes 32 frameTag.toNat).drop 32 = natBytes 32 frameTag.toNat := rfl
  have len : (frameHead ++ natBytes 32 frameTag.toNat).length = 64 := rfl
  refine ⟨by decide +kernel, ?_, by decide +kernel⟩
  have ver : beField (frameHead ++ natBytes 32 frameTag.toNat) 0 1 = 1 := rfl
  have rank : beField (frameHead ++ natBytes 32 frameTag.toNat) 1 1 = 0 := rfl
  have target : beField (frameHead ++ natBytes 32 frameTag.toNat) 4 8 = 0 := rfl
  have source : beField (frameHead ++ natBytes 32 frameTag.toNat) 2 2 = 0 := rfl
  simp only [frameOk, head, tail, len, ver, rank, target, source]
  rw [show kmac _ frameHead = frameTag from rfl]
  simp
  decide +kernel

/-- Stream 5 is saved; its record at the values of bring-up, the tags of its four blocks, and the read of both. -/
def saved : Stream := { Stream.blank with state := 4 }
def savedWord : Nat := 5 * 2 ^ 352
def savedTag (b : Nat) : Nat := saveTag State.reset.chip saved 5 (saved.save.toNat + 512 * b) (fld savedWord (512 * b) 512)
def packTags (f : Nat → Nat) : Nat := f 0 + (f 1 + (f 2 + f 3 * 2 ^ 256) * 2 ^ 256) * 2 ^ 256
def savedTags : Nat := packTags savedTag
def savedRead : Op := { flight (.restore 5) with data := ((Vector.replicate 32 0).set 0 savedWord).set 2 savedTags }

theorem fld_above {w n : Nat} (h : w < 2 ^ n) (hi lo k : Nat) : fld (w + hi * 2 ^ n) (n + lo) k = fld hi lo k := by
  rw [fld, Nat.pow_add, ← Nat.div_div_eq_div_mul, Nat.add_mul_div_right _ _ (Nat.two_pow_pos n), Nat.div_eq_of_lt h, Nat.zero_add, fld]

theorem fld_below {n lo k : Nat} (h : lo + k ≤ n) (w hi : Nat) : fld (w + hi * 2 ^ n) lo k = fld w lo k := by
  obtain ⟨m, rfl⟩ : ∃ m, n = lo + k + m := ⟨n - (lo + k), by omega⟩
  rw [fld, fld, show hi * 2 ^ (lo + k + m) = (hi * 2 ^ m * 2 ^ k) * 2 ^ lo by rw [Nat.pow_add, Nat.pow_add]; ac_rfl,
    Nat.add_mul_div_right _ _ (Nat.two_pow_pos lo), Nat.add_mul_mod_self_right]

/-- The tag of a block rests on the keys of the chip alone. -/
theorem saveTag_keys {c c' : Chip} (h : c.keys = c'.keys) (x : Stream) (n a b : Nat) : saveTag c x n a b = saveTag c' x n a b := by
  rw [saveTag, saveTag, h]

theorem savedTag_lt (k : Nat) : savedTag k < 2 ^ 256 := by
  unfold savedTag saveTag
  exact BitVec.isLt _

theorem fld_whole {x n : Nat} (h : x < 2 ^ n) : fld x 0 n = x := by
  rw [fld, Nat.pow_zero, Nat.div_one, Nat.mod_eq_of_lt h]

theorem fld_tags {n a b c d : Nat} (ha : a < 2 ^ n) (hb : b < 2 ^ n) (hc : c < 2 ^ n) (hd : d < 2 ^ n) :
    let t := a + (b + (c + d * 2 ^ n) * 2 ^ n) * 2 ^ n
    fld t 0 n = a ∧ fld t n n = b ∧ fld t (n + n) n = c ∧ fld t (n + (n + n)) n = d := by
  have one {x : Nat} (hx : x < 2 ^ n) (y : Nat) : fld (x + y * 2 ^ n) n n = fld y 0 n := fld_above hx y 0 n
  have zero (x y : Nat) : fld (x + y * 2 ^ n) 0 n = fld x 0 n := fld_below (Nat.le_of_eq (Nat.zero_add n)) x y
  refine ⟨?_, ?_, ?_, ?_⟩
  · rw [zero, fld_whole ha]
  · rw [one ha, zero, fld_whole hb]
  · rw [fld_above ha, one hb, zero, fld_whole hc]
  · rw [fld_above ha, fld_above hb, one hc, fld_whole hd]

/-- A read that brings the record's words and its four tags holds that record. -/
theorem record_good (c : Chip) (x : Stream) (n : Nat) (o : Op) (a t : Nat) (data : o.data = ((Vector.replicate 32 0).set 0 a).set 2 t)
    (clean : o.poison = 0) (short : a < 2 ^ 2048)
    (tags : ∀ b < 4, fld t (256 * b) 256 = saveTag c x n (x.save.toNat + 512 * b) (fld a (512 * b) 512))
    (own : fld a 352 6 = n) (count : fld a 320 32 = x.scount.toNat) : goodRecord c x n o = some a := by
  have d0 : o.data[0] = a := by rw [data]; rfl
  have d1 : o.data[1] = 0 := by rw [data]; rfl
  have d2 : o.data[2] = t := by rw [data]; rfl
  have v : o.data[0] + o.data[1] * 2 ^ 1024 + o.data[2] * 2 ^ 2048 = a + t * 2 ^ 2048 := by rw [d0, d1, d2, Nat.zero_mul, Nat.add_zero]
  have all : ((List.range 4).all fun b => fld (a + t * 2 ^ 2048) (2048 + 256 * b) 256
      == saveTag c x n (x.save.toNat + 512 * b) (fld (a + t * 2 ^ 2048) (512 * b) 512)) = true := by
    rw [List.all_eq_true]
    intro b hb
    have hb := List.mem_range.1 hb
    rw [fld_above short, fld_below (by omega), tags b hb, beq_self_eq_true]
  have f1 : fld (a + t * 2 ^ 2048) (320 + 32) 6 = n := by rw [fld_below (by decide), own]
  have f2 : fld (a + t * 2 ^ 2048) 320 32 = x.scount.toNat := by rw [fld_below (by decide), count]
  have f3 : fld (a + t * 2 ^ 2048) 0 2048 = a := by rw [fld_below (by decide), fld_whole short]
  rw [goodRecord, v]
  simp only [all, f1, f2, f3, clean, and_self, if_true]

theorem fld_packTags (f : Nat → Nat) (h : ∀ k, f k < 2 ^ 256) :
    ∀ b < 4, fld (packTags f) (256 * b) 256 = f b := by
  obtain ⟨t0, t1, t2, t3⟩ := fld_tags (h 0) (h 1) (h 2) (h 3)
  intro b hb
  match b, hb with
  | 0, _ => exact t0
  | 1, _ => exact t1
  | 2, _ => exact t2
  | 3, _ => exact t3

theorem savedTags_hold : ∀ b < 4, fld savedTags (256 * b) 256 = savedTag b := fld_packTags savedTag savedTag_lt

theorem savedRead_data : savedRead.data = ((Vector.replicate 32 0).set 0 savedWord).set 2 savedTags := rfl
theorem savedWord_fits : savedWord < 2 ^ 2048 ∧ fld savedWord 352 6 = 5 ∧ fld savedWord 320 32 = saved.scount.toNat := by decide +kernel

theorem savedRecord_tags (c : Chip) (h : c.keys = State.reset.chip.keys) : ∀ b < 4,
    fld savedTags (256 * b) 256 = saveTag c saved 5 (saved.save.toNat + 512 * b) (fld savedWord (512 * b) 512) :=
  fun b hb => (savedTags_hold b hb).trans (saveTag_keys h saved 5 _ _).symm

theorem savedRecord_good (c : Chip) (h : c.keys = State.reset.chip.keys) : goodRecord c saved 5 savedRead = some savedWord :=
  record_good c saved 5 savedRead savedWord savedTags savedRead_data rfl savedWord_fits.1 (savedRecord_tags c h) savedWord_fits.2.1 savedWord_fits.2.2

theorem witness_StreamResults_restore :
    let s := withChip fun c => { c with streams := [(5, saved)], ops := [(1, savedRead)] }
    (streamAt s.chip 5).state = 4
    ∧ (s.chip.ops.find? fun o => o.2.kind == .restore 5) = some (1, savedRead)
    ∧ goodRecord s.chip (streamAt s.chip 5) 5 savedRead = some savedWord ∧ fld savedWord (128 + 33) 2 = 0 :=
  ⟨rfl, rfl, savedRecord_good _ rfl, by decide +kernel⟩

/-! ### Further clauses of the statements -/

/-- A mask of which no thread is part. -/
def nobody : Prefix := { zeroing with mask := .p 5, merge := .keep }

theorem witness_SpecialRegisterResults_stamps :
    (behind nobody).Executes war bod (some {}) [] ∧ actOf (behind nobody) war bod = 0
    ∧ (let c := { (at_ war).chip with stamps := [(0, .coneLo 0 5 1)] }
       sget c.warps 0 = some war ∧ c.stamps = [(0, .coneLo 0 5 1)] ∧ c.lastStamp ≠ BitVec.allOnes 64) :=
  ⟨⟨⟨rfl, rfl⟩, rfl, .inr (by decide +kernel)⟩, by decide +kernel, rfl, rfl, by decide +kernel⟩

/-- Two CONERDs of one cycle, by warps 3 and 130. -/
theorem witness_RegionAndDebugResults_pair :
    let c := { (at_ war).chip with warps := [(3, war), (130, kern)], stamps := [(130, .conerd 130 4), (3, .conerd 3 0)] }
    3 < 130 ∧ sget c.warps 3 = some war ∧ sget c.warps 130 = some kern ∧ c.stamps = [(130, .conerd 130 4), (3, .conerd 3 0)]
    ∧ c.lastStamp.toNat + 1 < 2 ^ 64 - 1 ∧ c.conePhys.toNat * 2 ^ 16 < 2 ^ 64 - 1 :=
  ⟨by decide, rfl, rfl, rfl, by decide +kernel⟩

/-- The warp's LD, of its word at 64, meets a page that has no leaf: its walk has ended, or is still to be made. -/
def missing : Warp := { war with s := war.s.set 9 (2 ^ 20) }
def absentLd : LdOps := ⟨4, 9, .v 1, 7, false, false⟩
def absent (walked : Bool) : State :=
  let s := core0 (paged missing) fun k => { k with
    icache := [(0, BitVec.ofNat 1024 (((encodeWord (.ld absentLd)).map (·.2)).getD 0 * 2 ^ 64))] }
  { s with chip := { s.chip with cur := { s.chip.cur with walked := walked } } }

theorem witness_AccessFaults_walks :
    let k : Rule := { acc := .load }
    let a := scaledAddr 9 (.v 1) 32 missing
    let f := fun (s : State) => s.finds missing bod k a (fun _ => 32)
    (∀ g, (absent g).Runs missing bod ∧ (absent g).Bare ∧ (∀ e ∈ (absent g).chip.walks, e.1 < (absent g).chip.fresh))
    ∧ exceeds missing (regRun 4 (wcRegs 7)) = false
    ∧ (absent true).walks missing bod k a (fun _ => 32) = [] ∧ (worst (faultsOf (f (absent true)))).map (·.again) = some true
    ∧ instrAt (absent true).mem (absent true).chip 0 64 bod.stop = .word (.ld absentLd) 32
    ∧ (absent false).walks missing bod k a (fun _ => 32) ≠ [] ∧ (∀ e ∈ faultsOf (f (absent false)), 6 ≤ e.rank)
    ∧ (absent false).walks missing bod { acc := .store, suits := classN } a (fun _ => 32) ≠ [] := by
  refine ⟨fun g => ⟨⟨by cases g <;> rfl, rfl⟩, by cases g <;> rfl, by cases g <;> decide +kernel⟩, by decide +kernel⟩

/-- Stream 5 is SAVED, and the Kiln reaches the page of its save area. -/
theorem witness_StreamResults_resume :
    let x := { Stream.blank with state := 4 }
    let s := withChip fun c => kilnPage { c with streams := [(5, x)] }
    (streamAt s.chip 5).state = 4 ∧ saveOk (saveFound s.mem s.chip x .load) = true := by
  decide +kernel

/-- Entry 8 is queued for a core that is closed, or fenced; warp 0 waits for entry 8 with a job; requests of other chips. -/
theorem witness_EventTableResults_more :
    (let s := { entries with chip := modCore entries.chip 191 fun k => { k with noPush := true } }
     (eventAt s.chip 8).info.queued = some (191, 7) ∧ ((coreAt s.chip 191).noPush || fenced s.chip 191) = true)
    ∧ ((coreAt entries.chip 191).noPush || fenced entries.chip 191) = false
    ∧ inRange entries.chip 0 3 = true ∧ (eventAt entries.chip 3).state = sRUNNING ∧ (eventAt entries.chip 2).state = sREADY
    ∧ (∃ q, sget entries.chip.kreqs 24 = some q ∧ q.op = .fwait)
    ∧ ({ working with wait := .jpop 28 } : Warp).wait = .jpop 28 ∧ working.body = some bod ∧ working.job = some 3
    ∧ fld (0#128).toNat 2 3 = 0 ∧ fld (4#128).toNat 2 3 ≠ 0 :=
  ⟨by decide +kernel, by decide +kernel, by decide +kernel, by decide +kernel, by decide +kernel, ⟨_, rfl, by decide +kernel⟩,
   rfl, rfl, rfl, by decide +kernel⟩

/-- Function 0 reads every named register, another its own of the partition table; register 11 has no name. -/
theorem witness_SystemRegisterResults_reads :
    regNamed rBackoff = true ∧ mayRead (at_ war).chip 0 rBackoff = true ∧ regNamed (rPtn 3 5) = true
    ∧ mayRead (at_ war).chip 3 (rPtn 3 5) = true ∧ mayRead (at_ war).chip 3 (rPtn 2 5) = false ∧ regNamed 65 = false
    ∧ writeFirst (at_ war).chip rBackoff 24576 = false := by
  decide +kernel

/-- Matrix command 3 breaks a rule, and the array is free or held until cycle 101. -/
theorem witness_MatrixResults_rejected :
    let d := { multiply with shape := none }
    let held := core0 (commanded d) fun k => { k with mxC := 101 }
    d.mx = none ∧ d.shape = none ∧ (coreAt (commanded d).chip 0).mxC ≤ (commanded d).chip.cycle ∧ arrayWinner (commanded d).chip 0 = some 3
    ∧ held.chip.cycle < (coreAt held.chip 0).mxC := by
  decide +kernel

/-- A collective of 3 at the head of GO, of a group of 3 of which its warp is a member. -/
def joining : Cmd := { command 8 0 4096 (255 + 3 * 2 ^ 8 + 2 ^ 32) 0 with accepted := none }
theorem witness_EngineCommandResults_open :
    let s := core0 { commanded joining with chip :=
        { (commanded joining).chip with dev := [(rGrp 255 0, BitVec.ofNat 64 (1 + 3 * 2 ^ 6)), (rWgrp 0, BitVec.ofNat 64 (255 + 2 ^ 32))] } }
      fun k => { k with go := k.go.set 8 [(3, 99)], eng := k.eng.set 8 [] }
    sget s.chip.cmds 3 = some joining ∧ (coreAt s.chip 0).go[8] = [(3, 99)] ∧ ((coreAt s.chip 0).eng[8]).length < 16
    ∧ wordsBad s.chip joining = false ∧ engOf 8 = 3 ∧ 2 ≤ coP joining ∧ openColl s.chip (coGroup joining) = none
    ∧ dev s.chip rCoTimeout ≠ 0 ∧ (eventAt s.chip 3).gen ≠ ({ joining with gen := 9 } : Cmd).gen := by
  decide +kernel

/-- An instance of 3 that one other command has joined. -/
theorem witness_GatherCollectiveResults_join :
    let d := command 8 0 4096 (3 * 2 ^ 8 + 2 ^ 32) 0
    let j : Coll := { g := 0, p := 3, members := [4], closed := false, expired := false }
    let s := { commanded d with chip := { (commanded d).chip with colls := [(2, j)] } }
    openColl s.chip (coGroup d) = some (2, j) ∧ j.members.length + 1 < j.p ∧ 2 ≤ coP d := by
  decide +kernel

/-- A fault of partition 0 on the page of `leafed`, which the host owns; what stands before the request for it. -/
def hosting (giving : SMap (W64 × Nat)) : State :=
  { leafed with
    mem := [(2 ^ 17, 0x01), (2 ^ 17 + 2, 0x20), (2 ^ 18, 0x47), (2 ^ 18 + 1, 0x06)],
    chip := { leafed.chip with faulting := [(9, faulted)], giving := giving } }

theorem witness_MemoryEventResults_asks :
    (hosting []).Canonical ∧ sget (hosting []).chip.faulting 9 = some faulted ∧ faulted.migration = true
    ∧ hostOwns (hosting []).mem (hosting []).chip 0 0 = true ∧ hostOwns leafed.mem leafed.chip 0 0 = false
    ∧ sget (hosting []).chip.giving 0 = none ∧ sget (hosting [(0, (0, 3))]).chip.giving 0 ≠ none
    ∧ (hosting []).chip.faults.find? (fun k => k.2.part == faulted.part && k.2.page == faulted.page && k.2.bits == faulted.bits) = none
    ∧ freeFault (hosting []).chip = some 0 :=
  ⟨⟨by decide +kernel, rfl⟩, by decide +kernel⟩

/-- Numbers of a register file and of an accumulator file; the log's next record stands on sector 0. -/
theorem witness_MemoryEventResults_files :
    fileError (2 ^ 56) = some (0, 2) ∧ fileError (2 ^ 56 + 49151) = some (24575, 3) ∧ fileError (2 ^ 56 + 49152) = none ∧ fileError 0 = none
    ∧ sget (at_ war).chip.warps 0 = some war
    ∧ (dev (at_ war).chip rLogBase).toNat + 256 * fld (dev (at_ war).chip rLogHead).toNat 0 8 = 256 * 0
    ∧ (dev (at_ war).chip rLogBase).toNat + 256 * fld (dev (at_ war).chip rLogHead).toNat 0 8 ≠ 256 * 7 := by
  decide +kernel

theorem sget_map {α : Type} (f : Nat → α) : ∀ (l : List Nat) (i : Nat), i ∈ l → sget (l.map fun i => (i, f i)) i = some (f i)
  | j :: l, i, h => by
    by_cases e : j = i
    · subst e; exact if_pos rfl
    · have h : i ∈ l := by simpa [Ne.symm e] using h
      exact (if_neg e).trans (sget_map f l i h)

/-- A fault buffer that is full. -/
def page (i : Nat) : FaultEntry := { faulted with page := (i + 1) * 2 ^ 19 }
def full (n : Nat) : SMap FaultEntry := (List.range n).map fun i => (i, page i)

theorem full_has {n i : Nat} (h : i < n) : sget (full n) i = some (page i) := sget_map page _ i (List.mem_range.2 h)

theorem full_find (n : Nat) : (List.range n).find? (fun i => (sget (full n) i).isNone) = none := by
  rw [List.find?_eq_none]
  intro i h
  rw [full_has (List.mem_range.1 h)]
  exact Bool.false_ne_true

theorem full_free (c : Chip) (h : c.faults = full 4096) : freeFault c = none := by
  rw [freeFault, h]
  exact full_find 4096

theorem witness_MemoryEventResults_full : ∃ c : Chip, freeFault c = none :=
  ⟨{ (at_ war).chip with faults := full 4096 }, full_free _ (by simp only)⟩

/-- The walk of a release, and of a handover to the host, on a page that a request has asked for, that is on its way, or neither. -/
theorem witness_FabricAndHostResults_handover :
    let late := { (hosting []).chip with faults := [(3, { faulted with bits := 33, migration := false })] }
    leafOf (hosting []).mem (hosting []).chip 0 0 = some (⟨.hbm, 2 ^ 21⟩, 0x647, 33) ∧ pteOwn 0x647 = true ∧ pteOwn 0x607 = false
    ∧ givingPage (hosting [(0, (0, 5))]).mem (hosting [(0, (0, 5))]).chip 0 0 = true ∧ givingPage (hosting []).mem (hosting []).chip 0 0 = false
    ∧ Machine.asked late 0 0 33 = true ∧ Machine.asked (hosting []).chip 0 0 33 = false ∧ onPage faulted 0 0 33 = true
    ∧ (∀ i a, sget late.faults i = some a → i < 4096) ∧ pageBusy (hosting []).chip 0 (pageRange 0x647 33) 33 = false := by
  refine ⟨by decide +kernel, by decide +kernel, by decide +kernel, by decide +kernel, by decide +kernel, by decide +kernel,
    by decide +kernel, by decide +kernel, fun i a h => ?_, by decide +kernel⟩
  by_cases e : i = 3
  · omega
  · simp [sget, Ne.symm e] at h

/-- A byte of a partition that holds no key; a stamp to be sent; an image without tags; the steps of bring-up, where partition 1 has no block. -/
theorem witness_FabricAndHostResults_more :
    (∀ u ∈ unitsOf (remotePiece 8 8), (sget (at_ war).chip.keyed u = none ∨ sget (at_ war).chip.keyed u = sget (at_ war).chip.keys 0)
      ∧ (sget (at_ war).chip.l2View u).getD (sget (at_ war).chip.keyed u) = sget (at_ war).chip.keyed u)
    ∧ (at_ war).chip.lastStamp.toNat + 1 < 2 ^ 64 - 1
    ∧ ([] : List (BitVec 256)) ≠ (List.range ((([1] : List Byte).length + 63) / 64)).map (firmwareTag ⟨0, 0, [1], [], []⟩)
    ∧ undefMask (at_ war).chip (remotePiece 8 8) = 0
    ∧ (let s := withChip fun c => { c with upStep := 1, warps := [] }
       s.chip.recovery = false ∧ s.chip.upStep = 1 ∧ ∀ k : CoreId, sget s.chip.warps (128 * k.val + 127) = none)
    ∧ (let s := withChip fun c => { c with upStep := 3, dev := [(rPtn 1 0, 1)] }
       s.chip.recovery = false ∧ 3 ≤ s.chip.upStep ∧ s.chip.upStep ≠ 0 ∧ ptnOn s.chip 1 = true ∧ placedAll s.chip 1 = true
         ∧ placedAll { s.chip with unplaced := [(0, 5)], dev := [(rGrp 5 0, 1)] } 0 = false) := by
  refine ⟨by decide +kernel, by decide +kernel, ?_, by decide +kernel, ⟨by decide +kernel, by decide +kernel, fun k => rfl⟩, by decide +kernel⟩
  simp

/-- Partition 1 is reset while the job of entry 3 runs on block 5 of core 0, whose warp runs or has halted. -/
def resetting (step : Option Nat) (halted : Bool) : State :=
  withChip fun c => { c with
    resets := match step with
      | some n => [(1, n)]
      | none => [],
    dev := [(rPevr 1, 65535 * 2 ^ 16), (rGrp 5 0, 3), (rPtn 1 0, 1)],
    events := [(3, { Event.blank with state := 3, info := { JobInfo.blank with block := some (0, 5) } })],
    warps := [(0, { war with part := 1, block := some 5, halted := halted })] }

theorem witness_PartitionAndLimitResults_reset :
    sget (resetting none false).chip.resets 1 = none ∧ sget (resetting (some 1) true).chip.resets 1 = some 1
    ∧ sget (resetting (some 2) true).chip.resets 1 = some 2
    ∧ (runningOf (resetting none false).chip 1).map (·.1) = [3]
    ∧ ((runningOf (resetting none false).chip 1).any fun e => !blockHalted (resetting none false).chip e.2) = true
    ∧ ((runningOf (resetting (some 1) true).chip 1).all fun e => blockHalted (resetting (some 1) true).chip e.2) = true
    ∧ sget (resetting none false).chip.halts (0 * 256 + 5) = none ∧ warpsOfBlock (resetting none false).chip 0 5 = [0]
    ∧ (warpAt (resetting none false).chip 0).halted = false ∧ inRange (resetting none false).chip 1 3 = true
    ∧ cmdsOf (resetting (some 2) true).chip 1 = [] ∧ (resetting (some 2) true).chip.recovery = false := by
  decide +kernel

/-- The end of a cycle in which nothing was stamped, abandoned or written. -/
theorem witness_StepRunsDecodedInstruction_tick :
    let t : State := { State.reset with chip := { State.reset.chip with pos := 6144 } }
    t.chip.phase = .idle ∧ dueEvent t.chip = none ∧ t.chip.stamps = [] ∧ t.chip.abandoned = [] ∧ t.chip.wlog = [] := by
  decide +kernel

/-! ## Calls that spill, ends of warps, kernel mode, and the rest of the window, of the event table and of TILE -/

/-- As `last_`, with page 0 of HBM in the TLB. -/
def lastPaged (x : Warp) : State := { paged x with chip := { (paged x).chip with cur := (last_ x).chip.cur } }
/-- A warp whose Coils are full, with their stacks below 8,192; one whose Coils are empty with one frame in memory at 4,096. -/
def coiled : Warp :=
  { war with coil := Vector.replicate 32 (List.replicate 4 { pc := 128, prio := 0 }), coilDep := Vector.replicate 32 4,
             csp := Vector.replicate 32 8192 }
def uncoiled : Warp := { war with coilDep := Vector.replicate 32 1, csp := Vector.replicate 32 4096 }

theorem witness_BranchAndCallResults_coils :
    (lastPaged coiled).Runs coiled bod ∧ (lastPaged coiled).Bare ∧ (lastPaged coiled).AtEnd bod
    ∧ (bod.mask &&& maskOf fun t => decide (4 ≤ (coiled.coil[t.val]).length)) = bod.mask
    ∧ (lastPaged coiled).Reaches coiled bod { acc := .store } (fun t => coiled.csp[t.val] - 4096) (fun _ => 128)
    ∧ (lastPaged uncoiled).Runs uncoiled bod ∧ uncoiled.kernel = false
    ∧ (bod.mask &&& maskOf fun t => (uncoiled.coil[t.val]).isEmpty && uncoiled.coilDep[t.val] != 0) = bod.mask
    ∧ (∀ t : Fin 32, (uncoiled.coil[t.val]).isEmpty = true)
    ∧ (lastPaged uncoiled).Reaches uncoiled bod { acc := .load } (fun t => uncoiled.csp[t.val]) (fun _ => 128) := by
  unfold State.AtEnd State.Reaches
  exact ⟨⟨rfl, rfl⟩, rfl, by decide +kernel, by decide +kernel, by decide +kernel, ⟨rfl, rfl⟩, by decide +kernel⟩

/-- In worker and in kernel mode no thread of `parted` or of `kern` has anything to return to; 32,768 clauses back is no header. -/
theorem witness_BranchAndCallResults_ends :
    (last_ parted).Runs parted bod ∧ (last_ kern).Runs kern kbod ∧ kern.kernel = true ∧ (∃ e ∈ parted.frontier, e.mask ≠ 0)
    ∧ (bod.mask &&& maskOf fun t => (parted.coil[t.val]).isEmpty && parted.coilDep[t.val] == 0) = bod.mask
    ∧ (kbod.mask &&& maskOf fun t => (kern.coil[t.val]).isEmpty && kern.coilDep[t.val] == 0) ≠ 0
    ∧ (last_ war).CanTrap war ∧ ¬goodHeader (bod.hdr + (BitVec.ofNat 16 (0x8000 : Fin 65536).val).signExtend 64 * 64) := by
  refine ⟨⟨rfl, rfl⟩, ⟨rfl, rfl⟩, rfl, ⟨_, List.mem_cons_self, by decide +kernel⟩, by decide +kernel, by decide +kernel,
    ⟨rfl, by decide +kernel⟩, ?_⟩
  unfold goodHeader; decide +kernel

/-- The last warp of its block, which runs a job, in its last entry; a warp in kernel mode. -/
def finishing : State :=
  { last_ working with chip := { (last_ working).chip with
      events := [(3, { Event.blank with state := 3, info := { JobInfo.blank with block := some (0, 5), parts := 1 } })] } }

theorem witness_ExitNopTmsetResults_last :
    finishing.Runs working bod ∧ finishing.Bare ∧ finishing.AtEnd bod ∧ working.kernel = false ∧ (∀ e ∈ working.frontier, e.mask = 0)
    ∧ working.bars = [] ∧ working.job = some 3 ∧ working.block = some 5
    ∧ (eventAt finishing.chip (evIdx 3)).info.block = some (coreOf finishing.warpNo, 5)
    ∧ (warpsOfBlock finishing.chip (coreOf finishing.warpNo) 5).filter (· != finishing.warpNo) = []
    ∧ (last_ kern).Runs kern kbod ∧ (last_ kern).Bare ∧ (last_ kern).AtEnd kbod ∧ kern.kernel = true := by
  unfold State.AtEnd
  exact ⟨⟨rfl, rfl⟩, rfl, by decide +kernel, rfl, by decide +kernel, by decide +kernel, rfl, rfl, by decide +kernel, by decide +kernel,
    ⟨rfl, rfl⟩, rfl, by decide +kernel, rfl⟩

theorem witness_TrapResults_kernel : (last_ kern).Runs kern kbod ∧ (last_ kern).Bare ∧ (last_ kern).AtEnd kbod ∧ kern.kernel = true := by
  refine ⟨⟨rfl, rfl⟩, rfl, ?_, rfl⟩
  unfold State.AtEnd; decide +kernel

/-- All threads at the window, and one thread with each form that it does not serve. -/
def many : Warp := { windowed with body := some bod }

theorem witness_EngineWindowStores_others :
    (at_ many).Runs many bod ∧ (at_ many).Bare ∧ (at_ many).CanTrap many ∧ lane bod.mask 0 = true ∧ popCount bod.mask ≠ 1
    ∧ inWindow (scaledAddr 9 (.s 0) (wcWidth 8) many 0).toNat = true ∧ inWindow (scaledAddr 9 (.s 0) (wcWidth 7) windowed 3).toNat = true
    ∧ (7 : Fin 12).val ≠ 8 ∧ inWindow (fullAddr 9 (.s 0) many 0).toNat = true
    ∧ inWindow (scaledAddr 9 (.s 0) 32 many 0).toNat = true ∧ inWindow (scaledAddr 9 (.s 0) 64 many 0).toNat = true
    ∧ exceeds many (regRun 4 (wcRegs 8)) = false ∧ exceeds many (regRun 4 2) = false
    ∧ inWindow (atomAddr ⟨4, 9, 95, .add, .w64, 0⟩ many 0).toNat = true := by
  refine ⟨⟨rfl, rfl⟩, rfl, ⟨rfl, by decide +kernel⟩, by decide +kernel⟩

/-- Tile 0 and pool byte range 63 are the block's own. -/
theorem witness_ResourceResults_held :
    holding.Runs owner bod ∧ holding.Bare ∧ racqOk owner 1 0 = true ∧ racqHeld holding.chip 0 1 0 = true := by
  exact ⟨⟨rfl, rfl⟩, rfl, by decide +kernel⟩

/-- `entries` with request 20 for an entry, of a warp with the job of entry 3, which runs as one part on its block 5. -/
def requesting (n : BitVec 26) (op : KilnOp) : State :=
  { entries with chip := kilnPage { entries.chip with
      warps := [(0, working)],
      kreqs := [(20, { w := 0, part := 0, name := n, op := op, issued := 90 })],
      dev := [(rPevr 0, 65535 * 2 ^ 16), (rTpl 9 2, 2 ^ 40)],
      events := entries.chip.events ++ [(30, { Event.blank with
        state := 3, info := { JobInfo.blank with block := some (0, 5), parts := 1, popped := true, cmds := 2 } })] } }
/-- An error that no host can mend (R248). -/
def lost {α : Type} (e : Except AFault α) : Bool :=
  match e with
  | .error q => !q.again
  | .ok _ => false

theorem lost_error {α : Type} {e : Except AFault α} (h : lost e = true) : ∃ q, e = .error q ∧ q.again = false := by
  cases e with
  | error q => exact ⟨q, rfl, by simpa [lost] using h⟩
  | ok _ => cases h

/-- The words of an FSPAWN of template 9 at entry 40, with the argument block at `arg`. -/
def spawning (arg : W64) : Vector W64 4 := #v[40 + 9 * 2 ^ 26, 2 ^ 32, arg, 0]

theorem witness_EventTableResults_local :
    isLocal (requesting 7 (.evsig 5)).chip 7 = true ∧ (eventAt entries.chip 7).state = sCOUNTER ∧ (eventAt entries.chip 3).state ≠ sCOUNTER
    ∧ reusable (eventAt entries.chip 40) = true ∧ (eventAt entries.chip 40).state ≠ sCOUNTER ∧ reusable (eventAt entries.chip 3) = false
    ∧ (let c := (requesting 40 (.fspawn 4 (spawning 64) 5 3 false)).chip
       (spawning 64)[0].toNat < 2 ^ 38 ∧ (spawning 64)[1].toNat < 2 ^ 48 ∧ (spawning 64)[3] = 0 ∧ inRange c 0 40 = true
         ∧ tplValid c (fld (spawning 64)[0].toNat 26 12) = true ∧ (eventAt c 3).info.children.length < 64
         ∧ working.rcl = false ∧ working.drn = false
         ∧ (∃ out d, kilnRead [] c 0 (spawning 64)[2].toNat 64 = .ok (out, d))
         ∧ (∃ q, kilnRead [] c 0 (spawning (2 ^ 63))[2].toNat 64 = .error q ∧ q.again = false)
         ∧ inRange c 0 65535 = false)
    ∧ (let e := eventAt (requesting 30 (.jdone 5)).chip 30
       e.info.block.map (fun p => p.1 * 256 + p.2.val) = some 5 ∧ e.state = sRUNNING ∧ e.info.popped = true ∧ e.info.jdone = false
         ∧ e.info.parts ≤ 1 ∧ e.info.reclaim = false ∧ e.info.failed = false ∧ e.info.yieldTo = none ∧ e.info.cmds ≠ 0)
    ∧ (withChip fun c => { c with recovery := true }).Canonical ∧ (withChip fun c => { c with recovery := true }).chip.recovery = true := by
  refine ⟨by decide +kernel, by decide +kernel, by decide +kernel, by decide +kernel, by decide +kernel, by decide +kernel,
    ⟨by decide +kernel, by decide +kernel, by decide +kernel, by decide +kernel, by decide +kernel, by decide +kernel, rfl, rfl,
      ⟨_, _, rfl⟩, lost_error (by decide +kernel), by decide +kernel⟩, by decide +kernel, ⟨by decide +kernel, rfl⟩, rfl⟩

/-- A TILE of an x by 1 grid of template f from entry e on, with the stencil bits n and its producers from entry 1 on. -/
def wGrid (x e f n : Nat) : BitVec 256 := BitVec.ofNat 256 (1 + f * 2 ^ 16 + x * 2 ^ 32 + 2 ^ 48 + e * 2 ^ 64 + 2 ^ 192 + n * 2 ^ 218)
/-- The word before its first step, with block 5 of core 0 running template 9, and entries 1 to 7 as in `entries`. -/
def beginning (w : BitVec 256) : State :=
  let s := wording w fun c => { c with
    warps := [(0, working)], events := entries.chip.events, dev := [(rPevr 0, 1000 * 2 ^ 16), (rGrp 5 0, 3 + 9 * 2 ^ 37), (rTpl 9 2, 2 ^ 40)] }
  { s with chip := { s.chip with fetcher := { s.chip.fetcher with begun := false } } }

theorem begins_held (w : BitVec 256) (h : wordOk w = true) : (beginning w).HasWord 5 w := ⟨rfl, rfl, h, rfl, rfl⟩

theorem witness_TileAndCopyWordResults_begins :
    (beginning (wGrid 7 (65536 + 100) 9 0)).HasWord 5 (wGrid 7 (65536 + 100) 9 0)
    ∧ wEb (wGrid 7 (65536 + 100) 9 0) / 65536 ≠ (beginning 0).chip.chipNo.toNat
    ∧ (beginning (wGrid 0 100 9 0)).HasWord 5 (wGrid 0 100 9 0) ∧ wGx (wGrid 0 100 9 0) * wGy (wGrid 0 100 9 0) = 0
    ∧ (beginning (wGrid 7 100 8 0)).HasWord 5 (wGrid 7 100 8 0) ∧ tplValid (beginning 0).chip (wF (wGrid 7 100 8 0) 16 16) = false
    ∧ (beginning (wGrid 7 999 9 0)).HasWord 5 (wGrid 7 999 9 0) ∧ wEb (wGrid 7 999 9 0) / 65536 = 0 ∧ (beginning 0).chip.fetcher.begun = false
    ∧ (∃ e ∈ (beginning 0).chip.warps, ∃ g, e.2.block = some g ∧ gValid (beginning 0).chip g.val = true ∧ gWorker (beginning 0).chip g.val = true
        ∧ gTemplate (beginning 0).chip g.val = wF (wGrid 7 999 9 0) 16 16 ∧ e.2.part = (streamAt (beginning 0).chip 5).part)
    ∧ wF (wGrid 7 999 9 0) 16 16 < 4096 ∧ tplValid (beginning 0).chip (wF (wGrid 7 999 9 0) 16 16) = true
    ∧ inRange (beginning 0).chip 0 (999 + 7 - 1) = false := by
  refine ⟨begins_held _ (by decide +kernel), by decide +kernel, begins_held _ (by decide +kernel), by decide +kernel,
    begins_held _ (by decide +kernel), by decide +kernel, begins_held _ (by decide +kernel), by decide +kernel, rfl,
    ⟨_, List.mem_cons_self, 5, by decide +kernel⟩, by decide +kernel⟩

/-- The first event of a row: bit 12 of the stencil names its own place, which is inside, and bit 11 the one before it, which is not;
the producers of the seven events are entries 1 to 7, in each state. -/
theorem witness_TileAndCopyWordResults_stencil :
    tileBad (beginning (wGrid 7 100 9 (2 ^ 12))).chip (streamAt (beginning 0).chip 5) (wGrid 7 100 9 (2 ^ 12)) = none
    ∧ wSten (wGrid 7 100 9 (2 ^ 12)) = 2 ^ 12 ∧ wSten (wGrid 7 100 9 (2 ^ 11)) = 2 ^ 11
    ∧ (2 ≤ 0 + 12 % 5 ∧ 0 + 12 % 5 < 7 + 2 ∧ 2 ≤ 0 + 12 / 5 ∧ 0 + 12 / 5 < 1 + 2) ∧ ¬2 ≤ 0 + 11 % 5
    ∧ (wProd (wGrid 7 100 9 (2 ^ 12))).toNat / 65536 = (beginning 0).chip.chipNo.toNat
    ∧ (∀ i < 7, ((wProd (wGrid 7 100 9 (2 ^ 12))).toNat + i) % 65536 = i + 1 ∧ (eventAt (beginning 0).chip (i + 1)).state.val = i + 1
        ∧ reusable (eventAt (beginning 0).chip (100 + i)) = true) := by
  decide +kernel

/-- A drain that may time out, and one that never does. -/
theorem witness_StreamResults_timeout :
    dev (streaming (draining 2)).chip rDrainTmo ≠ 0
    ∧ 10 + (dev (streaming (draining 2)).chip rDrainTmo).toNat ≤ (preempted.chip.cycle + 10 ^ 9)
    ∧ dev { (streaming (draining 2)).chip with dev := [(rDrainTmo, 0)] } rDrainTmo = 0 := by
  decide +kernel

/-- The request of `flying` without a slot of HBM, and with one still to come. -/
theorem witness_MemoryEventResults_unserved :
    let s := flying (.load 4 7 false false) bits10 false
    let r := { asked bits10 false with waiting := true }
    let t : Chip := { s.chip with reqs := [(6, r)] }
    fileError 0 = none ∧ (t.reqs.find? fun e => readsSector 0 e.2) = some (6, r) ∧ r.waiting = true
      ∧ (asked bits10 false).waiting = false ∧ s.chip.agenda = [] := by
  refine ⟨by decide +kernel, by decide +kernel, rfl, rfl, rfl⟩

/-- Recovery; a release while the page is on its way and not asked for again, and a request of step 1 still to be made. -/
theorem witness_FabricAndHostResults_recovery :
    (withChip fun c => { c with recovery := true }).Canonical ∧ (withChip fun c => { c with recovery := true }).chip.recovery = true
    ∧ (withChip id).chip.blockKeys = [] ∧ (withChip id).chip.l2View = []
    ∧ askedOf (hosting [(0, (0, 5))]).mem (hosting [(0, (0, 5))]).chip 0 0 = false
    ∧ (let c := { (hosting []).chip with faults := [(3, faulted)] }
       sget c.giving 0 = none ∧ (c.faults.find? fun e => e.2.part.toNat == 0 && e.2.migration) = some (3, faulted)
         ∧ hostOwns (hosting []).mem c 0 faulted.addr.toNat = true) :=
  ⟨⟨by decide +kernel, rfl⟩, rfl, rfl, rfl, by decide +kernel, by decide +kernel⟩

/-- A collective of two whose last element of one command has been read, with the other's read before. -/
theorem witness_GatherCollectiveResults_length :
    ({ g := 0, p := 2, members := [3, 4], closed := true, expired := false } : Coll).p ≤ [(3, multiply), (4, multiply)].length := by
  decide +kernel

theorem test_reset_canonical : Memory.wf State.reset.mem = true := by decide

end Sys2Proof.Tests
end

section
/-!
PROOF. The delivery of messages (R233, R234): what the arrival, the NACK, the resend and the acknowledgement of a message
do, and the back-off that NC_QBACKOFF gives.
-/

namespace Sys2Proof.Machine
open Sys2Proof

/-! ## The agenda -/

@[simp] theorem mem_insertAt {t : Nat} {e : Ev} {l : List (Nat × Ev)} {a : Nat × Ev} :
    a ∈ insertAt t e l ↔ a = (t, e) ∨ a ∈ l := by
  induction l with
  | nil => simp [insertAt]
  | cons b r ih =>
    obtain ⟨u, d⟩ := b
    simp only [insertAt]
    split
    · simp only [List.mem_cons]
    · simp only [List.mem_cons, ih]
      exact or_left_comm

@[simp] theorem mem_schedule_agenda {c : Chip} {t : Nat} {e : Ev} {a : Nat × Ev} :
    a ∈ (schedule c t e).agenda ↔ a = (t, e) ∨ a ∈ c.agenda := mem_insertAt

@[simp] theorem mem_after_agenda {c : Chip} {n : Nat} {e : Ev} {a : Nat × Ev} :
    a ∈ (after c n e).agenda ↔ a = (c.cycle + n, e) ∨ a ∈ c.agenda := mem_insertAt

/-- The chip `d` is `c` but for its agenda and its releases, and of the events of `c` it has lost no more than wakes. -/
structure LosesOnlyWakes (c d : Chip) : Prop where
  same : d = { c with agenda := d.agenda, rel := d.rel }
  kept : ∀ a ∈ c.agenda, (∀ w, isWake w a.2 = false) → a ∈ d.agenda

theorem LosesOnlyWakes.refl (c : Chip) : LosesOnlyWakes c c := ⟨rfl, fun _ h _ => h⟩

theorem LosesOnlyWakes.trans {c d e : Chip} (h : LosesOnlyWakes c d) (g : LosesOnlyWakes d e) : LosesOnlyWakes c e where
  same := by rw [g.same, h.same]
  kept a ha hw := g.kept a (h.kept a ha hw) hw

theorem LosesOnlyWakes.cycle {c d : Chip} (h : LosesOnlyWakes c d) : d.cycle = c.cycle := by rw [h.same]

theorem LosesOnlyWakes.coreAt {c d : Chip} (h : LosesOnlyWakes c d) (k : Nat) : coreAt d k = Machine.coreAt c k := by
  rw [h.same]; rfl

theorem schedule_losesOnlyWakes (c : Chip) (t : Nat) (e : Ev) : LosesOnlyWakes c (schedule c t e) :=
  ⟨rfl, fun _ ha _ => mem_schedule_agenda.2 (.inr ha)⟩

theorem cancelEv_losesOnlyWakes (c : Chip) (w : Nat) : LosesOnlyWakes c (cancelEv c (isWake w)) :=
  ⟨rfl, fun a ha hw => List.mem_filter.2 ⟨ha, by simp [hw w]⟩⟩

theorem wakeHalted_losesOnlyWakes (c : Chip) (core w : Nat) : LosesOnlyWakes c (wakeHalted c core w) := by
  unfold wakeHalted
  refine foldl_keeps (LosesOnlyWakes c) _ (fun b a h => ?_) _ _ (.refl c)
  dsimp only
  split
  · exact h.trans (schedule_losesOnlyWakes ..)
  · exact h

theorem checkQueue_losesOnlyWakes (c : Chip) (core : Nat) (q : Fin 4) : LosesOnlyWakes c (checkQueue c core q) := by
  unfold checkQueue
  refine foldl_keeps (LosesOnlyWakes c) _ (fun b a h => ?_) _ _ (.refl c)
  dsimp only
  split
  · exact h
  · exact h.trans ((cancelEv_losesOnlyWakes ..).trans (schedule_losesOnlyWakes ..))

/-! ## Pairs and flags -/

@[simp] theorem pairAt_modPair_same (c : Chip) (k : Nat) (f : Pair → Pair) : pairAt (modPair c k f) k = f (pairAt c k) := by
  simp [pairAt, modPair]

/-- A completion flag lowered by one changes that flag alone, and no other warp. -/
theorem flagDown_warp {c : Chip} {w : Nat} {x : Warp} (h : sget c.warps w = some x) (f : Option (Fin 12)) :
    sget (flagDown c w f).warps w = some { x with flags := countedDown x f } := by
  cases f with
  | none => exact h
  | some i => simp [flagDown, countedDown, h]

/-! ## Arrival (R233) -/

/-- The chip with a message taken by its queue, and its pair going on to the next number. -/
def takeIn (c : Chip) (g : Msg) : Chip :=
  modCore (modPair c g.key fun p => { p with expect := p.expect + 1, blocked := none }) g.dst fun k =>
    { k with queues := k.queues.set g.q.val (k.queues[g.q.val] ++ [{ value := g.value, at_ := c.cycle }]) }

theorem takeIn_queue (c : Chip) (g : Msg) :
    (coreAt (takeIn c g) g.dst).queues[g.q.val]
      = (coreAt c g.dst).queues[g.q.val] ++ [{ value := g.value, at_ := c.cycle }] := by
  rw [takeIn, core_modCore_same]
  exact Vector.getElem_set_self _

/-- The pair of a message waits for that message, and has refused none but that one. -/
def InTurn (c : Chip) (g : Msg) : Prop :=
  (pairAt c g.key).expect = g.num ∧ ((pairAt c g.key).blocked = none ∨ (pairAt c g.key).blocked = some g.num)

theorem exec_queueMessageArrival_room {s : State} {id : Nat} {g : Msg} (hg : sget s.chip.msgs id = some g)
    (turn : InTurn s.chip g) (room : ((coreAt s.chip g.dst).queues[g.q.val]).length < 32) :
    exec (.queueMessageArrival id) s = run (fun _ c =>
      checkQueue (after (wakeHalted (takeIn c g) g.dst 24576) (ackTime g.src g.dst) (.queueAck id)) g.dst g.q) s := by
  unfold InTurn at turn
  show execQueueMessageArrival id s = _
  simp only [execQueueMessageArrival, run, hg, if_pos turn, if_pos room]
  rfl

theorem exec_queueMessageArrival_full {s : State} {id : Nat} {g : Msg} (hg : sget s.chip.msgs id = some g)
    (turn : InTurn s.chip g) (full : 32 ≤ ((coreAt s.chip g.dst).queues[g.q.val]).length) :
    exec (.queueMessageArrival id) s = run (fun _ c =>
      after (modPair c g.key fun p => { p with blocked := some g.num }) (ackTime g.src g.dst) (.queueNack id)) s := by
  unfold InTurn at turn
  show execQueueMessageArrival id s = _
  simp only [execQueueMessageArrival, run, hg, if_pos turn, if_neg (Nat.not_lt.2 full)]

/-- A queue with room takes a message in turn, behind those it holds, and its acknowledgement is on its way. -/
theorem queueMessageArrival_room {s : State} {id : Nat} {g : Msg} (hg : sget s.chip.msgs id = some g)
    (turn : InTurn s.chip g) (room : ((coreAt s.chip g.dst).queues[g.q.val]).length < 32) :
    ∃ t, exec (.queueMessageArrival id) s = .next t
      ∧ (coreAt t.chip g.dst).queues[g.q.val]
        = (coreAt s.chip g.dst).queues[g.q.val] ++ [{ value := g.value, at_ := s.chip.cycle }]
      ∧ (s.chip.cycle + ackTime g.src g.dst, .queueAck id) ∈ t.chip.agenda := by
  have woken := wakeHalted_losesOnlyWakes (takeIn s.chip g) g.dst 24576
  have checked := checkQueue_losesOnlyWakes
    (after (wakeHalted (takeIn s.chip g) g.dst 24576) (ackTime g.src g.dst) (.queueAck id)) g.dst g.q
  have same := woken.trans ((schedule_losesOnlyWakes ..).trans checked)
  refine ⟨_, exec_queueMessageArrival_room hg turn room, ?_, ?_⟩
  · rw [← takeIn_queue]
    exact congrArg (fun k : Core => k.queues[g.q.val]) (same.coreAt g.dst)
  · exact checked.kept _ (mem_after_agenda.2 (.inl (by rw [woken.cycle]; rfl))) fun _ => rfl

/-- A full queue stays as it is, the pair waits for the message that it has refused, and the NACK is on its way. -/
theorem queueMessageArrival_full {s : State} {id : Nat} {g : Msg} (hg : sget s.chip.msgs id = some g)
    (turn : InTurn s.chip g) (full : 32 ≤ ((coreAt s.chip g.dst).queues[g.q.val]).length) :
    ∃ t, exec (.queueMessageArrival id) s = .next t
      ∧ (coreAt t.chip g.dst).queues[g.q.val] = (coreAt s.chip g.dst).queues[g.q.val]
      ∧ (pairAt t.chip g.key).blocked = some g.num
      ∧ (s.chip.cycle + ackTime g.src g.dst, .queueNack id) ∈ t.chip.agenda := by
  refine ⟨_, exec_queueMessageArrival_full hg turn full, rfl, ?_, mem_after_agenda.2 (.inl rfl)⟩
  show (pairAt (modPair s.chip g.key fun p => { p with blocked := some g.num }) g.key).blocked = some g.num
  rw [pairAt_modPair_same]

/-! ## NACK and resend (R233) -/

/-- Counting a performance event leaves NC_QBACKOFF, and so the back-off. -/
theorem backoff_pmEvent (c : Chip) (core ev k n : Nat) : backoff (pmEvent c core ev k) n = backoff c n := by
  have : dev (pmEvent c core ev k) rBackoff = dev c rBackoff :=
    pmEvent_dev c core ev k rBackoff fun i _ => by simp only [rBackoff, rPmc, rPmSel, rCore]; omega
  simp only [backoff, this]

/-- The chip with a NACK counted at its message and at the sender's core. -/
def nacked (c : Chip) (id : Nat) (g : Msg) : Chip :=
  pmEvent { c with msgs := sput c.msgs id { g with nacks := g.nacks + 1 } } g.src 0x38 1

theorem nacked_cycle (c : Chip) (id : Nat) (g : Msg) : (nacked c id g).cycle = c.cycle := by
  rw [nacked, pmEvent_same]

theorem nacked_msg (c : Chip) (id : Nat) (g : Msg) : sget (nacked c id g).msgs id = some { g with nacks := g.nacks + 1 } := by
  rw [nacked, pmEvent_same]
  exact sget_sput_same ..

theorem nacked_backoff (c : Chip) (id : Nat) (g : Msg) (n : Nat) : backoff (nacked c id g) n = backoff c n :=
  backoff_pmEvent ..

theorem exec_queueNack {s : State} {id : Nat} {g : Msg} (hg : sget s.chip.msgs id = some g) :
    exec (.queueNack id) s
      = run (fun _ c => after (nacked c id g) (backoff (nacked c id g) (g.nacks + 1)) (.queueBackoffResend id)) s := by
  show execQueueNack id s = _
  simp only [execQueueNack, run, hg, nacked]

/-- A NACK counts at the message, which is to be sent again after the back-off of that count. -/
theorem queueNack_next {s : State} {id : Nat} {g : Msg} (hg : sget s.chip.msgs id = some g) :
    ∃ t, exec (.queueNack id) s = .next t
      ∧ (s.chip.cycle + backoff s.chip (g.nacks + 1), .queueBackoffResend id) ∈ t.chip.agenda
      ∧ sget t.chip.msgs id = some { g with nacks := g.nacks + 1 } := by
  refine ⟨_, exec_queueNack hg, mem_after_agenda.2 (.inl ?_), ?_⟩
  · rw [nacked_cycle, nacked_backoff]
  · exact nacked_msg s.chip id g

/-! ## Resend (R233) -/

theorem mem_insertBy {f : Nat → Nat} {a b : Nat} {l : List Nat} : b ∈ insertBy f a l ↔ b = a ∨ b ∈ l := by
  induction l with
  | nil => simp [insertBy]
  | cons c r ih =>
    simp only [insertBy]
    split
    · simp only [List.mem_cons]
    · simp only [List.mem_cons, ih]
      exact or_left_comm

/-- A list put in order has the members it had. -/
@[simp] theorem mem_sortBy {f : Nat → Nat} {b : Nat} {l : List Nat} : b ∈ sortBy f l ↔ b ∈ l := by
  induction l with
  | nil => rfl
  | cons a r ih => rw [show sortBy f (a :: r) = insertBy f a (sortBy f r) from rfl, mem_insertBy, ih, List.mem_cons]

/-- One resend of a run of them: a count of those before it, and the chip. -/
def sendAgain (time : Nat) (p : Nat × Chip) (k : Nat) : Nat × Chip :=
  (p.1 + 1, after p.2 (p.1 + time) (.queueMessageArrival k))

/-- A run of resends keeps the cycle, and every event that is to come. -/
theorem sendAgain_foldl_keeps (time : Nat) (l : List Nat) (p : Nat × Chip) :
    (l.foldl (sendAgain time) p).2.cycle = p.2.cycle ∧ ∀ a ∈ p.2.agenda, a ∈ (l.foldl (sendAgain time) p).2.agenda := by
  refine foldl_keeps (fun q : Nat × Chip => q.2.cycle = p.2.cycle ∧ ∀ a ∈ p.2.agenda, a ∈ q.2.agenda) _ ?_ _ _
    ⟨rfl, fun _ h => h⟩
  rintro q k ⟨cycle, kept⟩
  exact ⟨cycle, fun a ha => mem_after_agenda.2 (.inr (kept a ha))⟩

/-- Each message of a run of resends is to arrive, no sooner than its time from now. -/
theorem sendAgain_foldl_arrives (time : Nat) {l : List Nat} {k : Nat} (hk : k ∈ l) (p : Nat × Chip) :
    ∃ n, (n, .queueMessageArrival k) ∈ (l.foldl (sendAgain time) p).2.agenda ∧ p.2.cycle + time ≤ n := by
  induction l generalizing p with
  | nil => cases hk
  | cons a r ih =>
    rcases List.mem_cons.1 hk with rfl | hr
    · obtain ⟨-, kept⟩ := sendAgain_foldl_keeps time r (sendAgain time p k)
      exact ⟨p.2.cycle + (p.1 + time), kept _ (mem_after_agenda.2 (.inl rfl)), by omega⟩
    · exact ih hr (sendAgain time p a)

/-- The messages that a resend of `g` sends again: those of its window that have left, from its number on, in the order of
their numbers. -/
def resent (c : Chip) (g : Msg) : List Nat :=
  sortBy (fun k => ((sget c.msgs k).map Msg.num).getD 0) ((pairAt c g.key).window.filter fun k =>
    ((sget c.msgs k).map fun h => h.left && decide (g.num ≤ h.num)).getD false)

theorem mem_resent_self {c : Chip} {id : Nat} {g : Msg} (hg : sget c.msgs id = some g) (inWindow : id ∈ (pairAt c g.key).window)
    (left : g.left = true) : id ∈ resent c g := by
  simp [resent, hg, inWindow, left]

/-- The chip behind a resend of `g`. -/
def resend (c : Chip) (g : Msg) : Chip :=
  let p := (resent c g).foldl (sendAgain (msgTime g.src g.dst)) (0, c)
  modPair p.2 g.key fun q => { q with linkFree := p.2.cycle + p.1 }

theorem exec_queueBackoffResend {s : State} {id : Nat} {g : Msg} (hg : sget s.chip.msgs id = some g) :
    exec (.queueBackoffResend id) s = run (fun _ c => resend c g) s := by
  show execQueueBackoffResend id s = _
  simp only [execQueueBackoffResend, run, hg]
  rfl

/-- At the end of its back-off a message of the window goes again, and arrives no sooner than its time from now. -/
theorem queueBackoffResend_next {s : State} {id : Nat} {g : Msg} (hg : sget s.chip.msgs id = some g)
    (inWindow : id ∈ (pairAt s.chip g.key).window) (left : g.left = true) :
    ∃ t n, exec (.queueBackoffResend id) s = .next t
      ∧ (n, .queueMessageArrival id) ∈ t.chip.agenda ∧ s.chip.cycle + msgTime g.src g.dst ≤ n := by
  obtain ⟨n, arrives, late⟩ := sendAgain_foldl_arrives (msgTime g.src g.dst) (mem_resent_self hg inWindow left) (0, s.chip)
  exact ⟨_, n, exec_queueBackoffResend hg, arrives, late⟩

/-! ## Acknowledgement (R54, R233) -/

/-- The chip with a message acknowledged: its flag counts one less, and its place in the window is free. -/
def acked (c : Chip) (id : Nat) (g : Msg) : Chip :=
  modPair (flagDown { c with msgs := sdel c.msgs id } g.w g.flag) g.key fun p => { p with window := p.window.filter (· != id) }

theorem exec_queueAck {s : State} {id : Nat} {g : Msg} (hg : sget s.chip.msgs id = some g) :
    exec (.queueAck id) s = run (fun _ c => acked c id g) s := by
  show execQueueAck id s = _
  simp only [execQueueAck, run, hg, acked]

theorem acked_warp {c : Chip} {x : Warp} (id : Nat) {g : Msg} (h : sget c.warps g.w = some x) :
    sget (acked c id g).warps g.w = some { x with flags := countedDown x g.flag } :=
  flagDown_warp (c := { c with msgs := sdel c.msgs id }) h g.flag

theorem acked_window (c : Chip) (id : Nat) (g : Msg) : id ∉ (pairAt (acked c id g) g.key).window := by
  simp [acked]

/-- The flag of a count that has gone down reads one less, and 0 where it was 0. -/
theorem countedDown_flag (x : Warp) (f : Fin 12) :
    (countedDown x (some f))[f.val] = if x.flags[f.val] = 0 then 0 else x.flags[f.val] - 1 := by
  simp [countedDown]

/-- An acknowledgement lowers the flag that its QSND raised, and takes the message out of the window. -/
theorem queueAck_next {s : State} {id : Nat} {g : Msg} (hg : sget s.chip.msgs id = some g) {x : Warp}
    (hx : sget s.chip.warps g.w = some x) :
    ∃ t y, exec (.queueAck id) s = .next t ∧ sget t.chip.warps g.w = some y
      ∧ (∀ f, g.flag = some f → y.flags[f.val] = if x.flags[f.val] = 0 then 0 else x.flags[f.val] - 1)
      ∧ id ∉ (pairAt t.chip g.key).window := by
  refine ⟨_, _, exec_queueAck hg, acked_warp id hx, fun f hf => ?_, ?_⟩
  · rw [hf]
    exact countedDown_flag x f
  · exact acked_window s.chip id g

/-! ## The back-off (R234) -/

/-- BASE of a value of NC_QBACKOFF, of which 0 acts as 1. -/
def backoffBase (r : Nat) : Nat := if r % 65536 = 0 then 1 else r % 65536

/-- CAP of a value of NC_QBACKOFF, which acts as BASE where it lies below it. -/
def backoffCap (r : Nat) : Nat := if r / 65536 % 65536 < backoffBase r then backoffBase r else r / 65536 % 65536

theorem backoffBase_le_cap (r : Nat) : backoffBase r ≤ backoffCap r := by
  unfold backoffCap
  split <;> omega

theorem backoff_eq (c : Chip) (n : Nat) :
    backoff c n = min (backoffCap (dev c rBackoff).toNat) (backoffBase (dev c rBackoff).toNat * 2 ^ (n - 1)) := by
  have base : max 1 (fld (dev c rBackoff).toNat 0 16) = backoffBase (dev c rBackoff).toNat := by
    unfold backoffBase fld
    split <;> omega
  have cap : max (backoffBase (dev c rBackoff).toNat) (fld (dev c rBackoff).toNat 16 16) = backoffCap (dev c rBackoff).toNat := by
    unfold backoffCap fld
    split <;> omega
  simp only [backoff, base, cap]

/-- The first back-off is BASE. -/
theorem backoff_one (c : Chip) : backoff c 1 = backoffBase (dev c rBackoff).toNat := by
  rw [backoff_eq, Nat.sub_self, Nat.pow_zero, Nat.mul_one]
  exact Nat.min_eq_right (backoffBase_le_cap _)

/-- Each further back-off is twice the one before it, up to CAP. -/
theorem backoff_add_two (c : Chip) (n : Nat) :
    backoff c (n + 2) = min (backoffCap (dev c rBackoff).toNat) (2 * backoff c (n + 1)) := by
  have twice : backoffBase (dev c rBackoff).toNat * 2 ^ (n + 1) = 2 * (backoffBase (dev c rBackoff).toNat * 2 ^ n) := by
    rw [Nat.pow_succ, Nat.mul_comm (2 ^ n) 2, Nat.mul_left_comm]
  rw [backoff_eq, backoff_eq, Nat.add_succ_sub_one, Nat.add_sub_cancel, twice]
  omega

/-! ## NC_QBACKOFF written -/

/-- A write of NC_QBACKOFF keeps the low 32 bits, whoever makes it. -/
theorem regWrite_backoff (m : Memory) (log : Chip → Chip) (host : Option Nat) (c : Chip) (v : W64) :
    regWrite m log host c rBackoff v = setDev c rBackoff (v &&& 0xFFFFFFFF) := rfl

@[simp] theorem askLook_dev (c : Chip) : (askLook c).dev = c.dev := by
  unfold askLook
  dsimp only
  split <;> rfl

theorem toNat_and_low32 (v : W64) : (v &&& 0xFFFFFFFF).toNat = v.toNat % 2 ^ 32 := by
  rw [BitVec.toNat_and]
  exact Nat.and_two_pow_sub_one_eq_mod v.toNat 32

/-- A register write that comes down to a write of NC_QBACKOFF leaves there the low 32 bits of its value. -/
theorem registerWrite_backoff {s : State} {r : RegWrite} {v : W64}
    (hr : exec (.registerWrite r) s = run (kilnRun (wheelAct r)) s)
    (hw : wheelAct r s.mem s.chip = setDev s.chip rBackoff (v &&& 0xFFFFFFFF)) :
    s.Next (.registerWrite r) fun t => (dev t.chip rBackoff).toNat = v.toNat % 2 ^ 32 := by
  refine ⟨_, hr, ?_⟩
  have reads : dev (askLook (wheelAct r s.mem s.chip)) rBackoff = v &&& 0xFFFFFFFF := by
    rw [dev, askLook_dev, hw]
    exact dev_setDev_same ..
  rw [← toNat_and_low32, ← reads]
  rfl

/-- Settles O40: the arrival by room and by a full queue, the NACK, the resend and the acknowledgement, each by the chip it
leaves; the back-off from the two fields of NC_QBACKOFF; and that register as BAR0 and the Wheel write it. -/
theorem messageDelivery : Obligations.MessageDelivery := by
  refine ⟨fun s id g hg => ⟨fun expect blocked => ⟨?_, ?_⟩, ?_, ?_, ?_⟩, fun s n => ⟨?_, ?_⟩, fun s v => ⟨?_, ?_⟩⟩
  · exact queueMessageArrival_room hg ⟨expect, blocked⟩
  · exact queueMessageArrival_full hg ⟨expect, blocked⟩
  · exact queueNack_next hg
  · exact queueBackoffResend_next hg
  · exact fun x hx => queueAck_next hg hx
  · exact backoff_one s.chip
  · exact backoff_add_two s.chip n
  · exact registerWrite_backoff rfl (regWrite_backoff s.mem (fun c => logFree c 0) (some 0) s.chip v)
  · exact registerWrite_backoff rfl (regWrite_backoff s.mem (fun c => logFree c 0) none s.chip v)

end Sys2Proof.Machine
end

section
/-!
PROOF. The exchange of values among the threads of a warp (R250, R251, R393, R413, R415): a cross-lane operation whose
members stand in the entry executes as a vector operation does, SHFL, XPUSH and VOTE are such operations of one destination
register, and what each of them leaves there.
-/

namespace Sys2Proof.Machine
open Sys2Proof

/-! ## Masks of threads -/

theorem lane_not (a : BitVec 32) (t : Fin 32) : lane (~~~a) t = !lane a t := by
  simp [lane]

/-- Two masks of the same threads are the same mask. -/
theorem mask_ext {a b : BitVec 32} (h : ∀ t, lane a t = lane b t) : a = b :=
  BitVec.eq_of_getLsbD_eq fun i hi => h ⟨i, hi⟩

/-- A mask joined with those of a list holds the threads of each. -/
theorem lane_foldl_or {α : Type} (f : α → BitVec 32) (l : List α) (a : BitVec 32) (t : Fin 32) :
    lane (l.foldl (fun a e => a ||| f e) a) t = true ↔ lane a t = true ∨ ∃ e ∈ l, lane (f e) t = true := by
  induction l generalizing a with
  | nil => simp
  | cons e r ih => simp [ih, lane_or, or_assoc]

theorem lane_liveMask {x : Warp} {t : Fin 32} :
    lane (liveMask x) t = true ↔ lane ((x.body.map Body.mask).getD 0) t = true ∨ (∃ e ∈ x.frontier, lane e.mask t = true)
      ∨ ∃ e ∈ x.bars, lane e.mask t = true := by
  unfold liveMask
  rw [lane_foldl_or, lane_foldl_or, or_assoc]

/-- A thread that MERGE zeroes is none of those that execute (R61). -/
theorem lane_zeroOf_of_lane_actOf {s : State} {x : Warp} {b : Body} {t : Fin 32} (h : lane (actOf s x b) t = true) :
    lane (zeroOf s x b) t = false := by
  unfold actOf at h
  unfold zeroOf zeroMask
  split
  · split
    · simp_all [lane_and, lane_not]
    · simp
  · simp

/-! ## Members that stand in the entry (R250) -/

/-- Where W is set, every member stands in the running entry. -/
def State.MembersStand (s : State) (x : Warp) (b : Body) : Prop :=
  waits s.chip.cur.pfx = true → membersOf x s.chip.cur.pfx &&& ~~~b.mask = 0

/-- A member that stands in the entry has not exited. -/
theorem members_live {x : Warp} {b : Body} {mem : BitVec 32} (hb : x.body = some b) (h : mem &&& ~~~b.mask = 0) :
    mem &&& ~~~liveMask x = 0 := by
  refine mask_ext fun t => ?_
  have stands : lane (mem &&& ~~~b.mask) t = false := by rw [h]; exact lane_zero t
  have live : lane b.mask t = true → lane (liveMask x) t = true := fun ht => lane_liveMask.2 (.inl (by simpa [hb] using ht))
  simp only [lane_and, lane_not] at stands ⊢
  cases hm : lane mem t <;> simp_all

/-- A cross-lane operation whose members stand in the entry neither parks nor raises CLX: it acts as `g`, where its effect
on the chip at issue is that of `g`. -/
theorem run_cross {s : State} {x : Warp} {b : Body} {k : Allow} {f g : Act} (hr : s.Runs x b)
    (hf : fits (some k) s.chip.cur.pfx = true) (hm : s.MembersStand x b) (hg : f s.mem s.chip = g s.mem s.chip) :
    run (cross k f) s = run g s := by
  have same : cross k f s.mem s.chip = g s.mem s.chip := by
    rw [← hg, cross, withPfx_fits hf]
    simp only [warpAt_eq hr, entryMask_eq hr]
    by_cases hw : waits s.chip.cur.pfx = true
    · simp [hw, hm hw, members_live hr.2 (hm hw)]
    · simp [hw]
  simp only [run, same]

section
variable {s : State} {x : Warp} {b : Body} {i : Instr}

/-! ## Cross-lane operations of one destination register -/

/-- A vector operation that writes one register in some of its active threads leaves it as it was in the others. -/
theorem wrote_alu_within {z : Warp} {k : Cls} {u : Uses} {f : In → Out32} {d : Nat}
    {mask : BitVec 32} {g : Fin 32 → W32} (hz : SameButIssue (aluWarp s x b k u f) z) (hd : u.dst.contains d = true)
    (hv : (f (aluIn s x b)).v = [(d, mask, g)]) (hp : ∀ y, ((f (aluIn s x b)).post y).v = y.v)
    (hmask : ∀ t, lane mask t = true → lane (actOf s x b) t = true) : Wrote x z mask (zeroOf s x b) d g := by
  intro t
  rw [hz.vread, vread_congr (aluWarp_v ..), vread_congr (aluWrite_v _ _ _ _ _ _ hp), vread_freeLast hd, hv]
  simp only [List.foldl_cons, List.foldl_nil, vread_writeOne, lane_or, lane_and]
  by_cases hact : lane (actOf s x b) t = true
  · simp [hact, lane_zeroOf_of_lane_actOf hact]
  · have : lane mask t = false := by simpa using mt (hmask t) hact
    simp [hact, this]

/-- A cross-lane operation that writes vd in the threads `mask`, given its operands and its members. -/
def crossOne (i : Instr) (d : Nat) (mask : In → BitVec 32 → BitVec 32) (g : In → BitVec 32 → Fin 32 → W32) : Act :=
  cross crossAllow fun m c =>
    alu { allow := some crossAllow, lat := 8 } (usesOf i c.cur.pfx) (fun j =>
      { v := [(d, mask j (membersOf j.x c.cur.pfx), g j (membersOf j.x c.cur.pfx))] }) m c

/-- What a cross-lane operation of one destination leaves in vd, where it executes and its members stand in the entry. -/
theorem crossOne_gives {d : Nat} {mask : In → BitVec 32 → BitVec 32}
    {g : In → BitVec 32 → Fin 32 → W32} (hi : exec i s = run (crossOne i d mask g) s)
    (hd : (usesOf i s.chip.cur.pfx).dst = [d]) (hm : s.MembersStand x b) (h : s.Executes x b (some crossAllow) [d])
    (hmask : ∀ t, lane (mask (aluIn s x b) (membersOf x s.chip.cur.pfx)) t = true → lane (actOf s x b) t = true) :
    s.Gives i fun _ y => Wrote x y (mask (aluIn s x b) (membersOf x s.chip.cur.pfx)) (zeroOf s x b) d
      (g (aluIn s x b) (membersOf x s.chip.cur.pfx)) := by
  obtain ⟨t, z, ht, hw, hz, -, -⟩ := alu_next (k := { allow := some crossAllow, lat := 8 }) (u := usesOf i s.chip.cur.pfx)
    (f := fun j => { v := [(d, mask j (membersOf j.x s.chip.cur.pfx), g j (membersOf j.x s.chip.cur.pfx))] })
    (by rw [hd]; exact h) (fun _ => rfl) rfl
  obtain ⟨hr, hf, -⟩ := h
  exact ⟨t, z, (hi.trans (run_cross hr hf hm rfl)).trans ht, hw,
    wrote_alu_within hz (by simp [hd]) rfl (fun _ => rfl) hmask⟩

/-- As `crossOne_gives`, for an operation that writes each active thread. -/
theorem crossOne_writes {d : Nat} {g : In → BitVec 32 → Fin 32 → W32}
    (hi : exec i s = run (crossOne i d (fun j _ => j.act) g) s) (hd : (usesOf i s.chip.cur.pfx).dst = [d])
    (hm : s.MembersStand x b) (h : s.Executes x b (some crossAllow) [d]) :
    s.Writes i x b d (g (aluIn s x b) (membersOf x s.chip.cur.pfx)) :=
  (crossOne_gives hi hd hm h fun _ ht => ht :)

/-! ## SHFL (R393) -/

theorem shfl_eq_crossOne (i : Instr) (o : VOps) (src : Nat → Nat → Nat) :
    shfl i o src = crossOne i o.d.val (fun j mem => j.act &&& mem) fun j mem t =>
      let u : Fin 32 := Fin.ofNat 32 (src t.val ((opd32 j.x o.b t).toNat % 32))
      if lane mem u then opd32 j.x o.a u else opd32 j.x o.a t := rfl

theorem exec_shflIdx (o : VOps) (s : State) : exec (.shflIdx o) s = run (shfl (.shflIdx o) o fun _ n => n) s := rfl
theorem exec_shflUp (o : VOps) (s : State) :
    exec (.shflUp o) s = run (shfl (.shflUp o) o fun t n => if t < n then t else t - n) s := rfl
theorem exec_shflDn (o : VOps) (s : State) :
    exec (.shflDn o) s = run (shfl (.shflDn o) o fun t n => if 31 < t + n then t else t + n) s := rfl
theorem exec_shflXor (o : VOps) (s : State) : exec (.shflXor o) s = run (shfl (.shflXor o) o fun t n => t ^^^ n) s := rfl

/-- SHFL gives each active member the operand of its source thread, its own where the source is no member. -/
theorem shfl_gives {o : VOps} {src : Nat → Nat → Nat}
    (hi : exec i s = run (shfl i o src) s) (hd : (usesOf i s.chip.cur.pfx).dst = [o.d.val]) (hm : s.MembersStand x b)
    (h : s.Executes x b (some crossAllow) [o.d.val]) :
    s.Gives i fun _ y => Wrote x y (actOf s x b &&& membersOf x s.chip.cur.pfx) (zeroOf s x b) o.d.val fun t =>
      let u : Fin 32 := Fin.ofNat 32 (src t.val ((opd32 x o.b t).toNat % 32))
      if lane (membersOf x s.chip.cur.pfx) u then opd32 x o.a u else opd32 x o.a t := by
  rw [shfl_eq_crossOne] at hi
  exact (crossOne_gives hi hd hm h fun t ht => by
    rw [lane_and, Bool.and_eq_true] at ht
    exact ht.1 :)

/-! ## XPUSH (R251, R415) -/

/-- Thread u, active and a member, names thread t as its destination. -/
def pushesTo (x : Warp) (o : VOps) (act mem : BitVec 32) (t u : Fin 32) : Bool :=
  lane act u && lane mem u && decide ((opd32 x o.b u).toNat % 32 = t.val)

/-- The highest-numbered thread that names thread t. -/
def pushedBy (x : Warp) (o : VOps) (act mem : BitVec 32) (t : Fin 32) : Option (Fin 32) :=
  (List.finRange 32).reverse.find? (pushesTo x o act mem t)

theorem pushedBy_of_highest {x : Warp} {o : VOps} {act mem : BitVec 32} {t u : Fin 32} (hu : pushesTo x o act mem t u = true)
    (highest : ∀ v, u < v → pushesTo x o act mem t v = false) : pushedBy x o act mem t = some u := by
  obtain ⟨above, below, cut⟩ := List.append_of_mem (List.mem_reverse.2 (List.mem_finRange u))
  have falling : (above ++ u :: below).Pairwise (· > ·) := by
    rw [← cut, List.pairwise_reverse]
    exact List.pairwise_lt_finRange 32
  obtain ⟨-, -, greater⟩ := List.pairwise_append.1 falling
  refine List.find?_eq_some_iff_append.2 ⟨hu, above, below, cut, fun v hv => ?_⟩
  rw [highest v (greater v hv u List.mem_cons_self)]
  rfl

theorem pushedBy_of_none {x : Warp} {o : VOps} {act mem : BitVec 32} {t : Fin 32}
    (unnamed : ∀ u, pushesTo x o act mem t u = false) : pushedBy x o act mem t = none :=
  List.find?_eq_none.2 fun u _ => by simp [unnamed u]

/-- The threads that an XPUSH writes: the active members that one names. -/
def pushMask (x : Warp) (o : VOps) (act mem : BitVec 32) : BitVec 32 :=
  act &&& mem &&& maskOf fun t => (pushedBy x o act mem t).isSome

theorem lane_pushMask (x : Warp) (o : VOps) (act mem : BitVec 32) (t : Fin 32) :
    lane (pushMask x o act mem) t = (lane (act &&& mem) t && (pushedBy x o act mem t).isSome) := by
  rw [pushMask, lane_and, lane_maskOf]

theorem exec_xpush (o : VOps) (s : State) :
    exec (.xpush o) s = run (crossOne (.xpush o) o.d.val (fun j mem => pushMask j.x o j.act mem) fun j mem t =>
      (pushedBy j.x o j.act mem t).elim 0 fun u => opd32 j.x o.a u) s := by
  have test (x : Warp) (act mem : BitVec 32) (t : Fin 32) :
      (fun u => lane (act &&& mem) u && (opd32 x o.b u).toNat % 32 == t.val) = pushesTo x o act mem t := by
    funext u
    rw [pushesTo, lane_and]
    rfl
  show execXpush o s = _
  simp only [execXpush, test]
  rfl

/-- XPUSH leaves a thread that active members name with the operand of the highest-numbered of them, where the thread is an
active member itself, and a thread that none names with what it held. -/
theorem xpush_gives {o : VOps} (hm : s.MembersStand x b)
    (h : s.Executes x b (some crossAllow) [o.d.val]) :
    s.Gives (.xpush o) fun _ y => ∀ t : Fin 32, lane (zeroOf s x b) t = false →
      let hits := pushesTo x o (actOf s x b) (membersOf x s.chip.cur.pfx) t
      (∀ u, hits u = true → (∀ v, u < v → hits v = false) →
          lane (actOf s x b &&& membersOf x s.chip.cur.pfx) t = true → vread y o.d.val t = opd32 x o.a u)
        ∧ ((∀ u, hits u = false) → vread y o.d.val t = vread x o.d.val t) := by
  obtain ⟨t, y, ht, hy, wrote⟩ := crossOne_gives (exec_xpush o s) rfl hm h fun t ht => by
    rw [lane_pushMask, lane_and, Bool.and_eq_true, Bool.and_eq_true] at ht
    exact ht.1.1
  refine ⟨t, y, ht, hy, fun t zero => ⟨fun u hu highest member => ?_, fun unnamed => ?_⟩⟩
  · have by_u := pushedBy_of_highest hu highest
    rw [wrote t, lane_pushMask]
    simp [aluIn, by_u, member]
  · have by_none := pushedBy_of_none unnamed
    rw [wrote t, lane_pushMask]
    simp [aluIn, by_none, zero]

/-! ## VOTE (R413) -/

/-- The members that vote yes: those that are active and whose operand is not 0. -/
def votes (x : Warp) (a : Opd) (act mem : BitVec 32) : BitVec 32 := mem &&& act &&& maskOf fun u => opd32 x a u != 0

theorem lane_votes (x : Warp) (a : Opd) (act mem : BitVec 32) (u : Fin 32) :
    lane (votes x a act mem) u = (lane mem u && (lane act u && opd32 x a u != 0)) := by
  rw [votes, lane_and, lane_and, lane_maskOf, Bool.and_assoc]

theorem votes_eq_maskOf (x : Warp) (a : Opd) (act mem : BitVec 32) :
    votes x a act mem = maskOf fun u => lane mem u && (lane act u && opd32 x a u != 0) :=
  mask_ext fun u => by rw [lane_votes, lane_maskOf]

theorem votes_eq_members_iff (x : Warp) (a : Opd) (act mem : BitVec 32) :
    votes x a act mem = mem ↔ (List.finRange 32).all (fun u => !lane mem u || (lane act u && opd32 x a u != 0)) = true := by
  have member (u : Fin 32) : lane (votes x a act mem) u = lane mem u
      ↔ (!lane mem u || (lane act u && opd32 x a u != 0)) = true := by
    rw [lane_votes]
    cases lane mem u <;> simp
  rw [List.all_eq_true]
  exact ⟨fun e u _ => (member u).1 (by rw [e]), fun h => mask_ext fun u => (member u).2 (h u (List.mem_finRange u))⟩

theorem votes_eq_zero_iff (x : Warp) (a : Opd) (act mem : BitVec 32) :
    votes x a act mem = 0 ↔ (List.finRange 32).any (fun u => lane mem u && (lane act u && opd32 x a u != 0)) = false := by
  rw [List.any_eq_false]
  constructor
  · intro e u _
    rw [← lane_votes, e]
    simp
  · intro h
    refine mask_ext fun u => ?_
    rw [lane_votes]
    simpa using h u (List.mem_finRange u)

theorem vote_eq_crossOne (i : Instr) (o : UnOps) (f : BitVec 32 → BitVec 32 → W32) :
    vote i o f = crossOne i o.d.val (fun j _ => j.act) fun j mem _ => f mem (votes j.x o.a j.act mem) := rfl

theorem exec_voteAll (o : UnOps) (s : State) :
    exec (.voteAll o) s = run (vote (.voteAll o) o fun mem v => if v = mem then 1 else 0) s := rfl
theorem exec_voteAny (o : UnOps) (s : State) :
    exec (.voteAny o) s = run (vote (.voteAny o) o fun _ v => if v = 0 then 0 else 1) s := rfl
theorem exec_voteBal (o : UnOps) (s : State) : exec (.voteBal o) s = run (vote (.voteBal o) o fun _ v => v) s := rfl
theorem exec_voteEq (o : VOps) (s : State) :
    exec (.voteEq o) s = run (crossOne (.voteEq o) o.d.val (fun j _ => j.act) fun j mem t =>
      mem &&& j.act &&& maskOf fun u => opd32 j.x o.a u == opd32 j.x o.b t) s := rfl

/-- VOTE gives each active thread, member or not, what it makes of the votes. -/
theorem vote_writes {o : UnOps} {f : BitVec 32 → BitVec 32 → W32} {v : W32}
    (hi : exec i s = run (vote i o f) s) (hd : (usesOf i s.chip.cur.pfx).dst = [o.d.val]) (hm : s.MembersStand x b)
    (h : s.Executes x b (some crossAllow) [o.d.val])
    (hv : f (membersOf x s.chip.cur.pfx) (votes x o.a (actOf s x b) (membersOf x s.chip.cur.pfx)) = v) :
    s.Writes i x b o.d.val fun _ => v := by
  rw [vote_eq_crossOne] at hi
  subst hv
  exact crossOne_writes hi hd hm h

end

/-- Settles O16: SHFL and XPUSH by the threads that they write, VOTE.EQ by its value in each active thread, and the other
forms of VOTE by what the mask of the votes says of the members. -/
theorem crossLaneResults : Obligations.CrossLaneResults := by
  intro s x b hm
  refine ⟨fun o h => ⟨?_, ?_, ?_, ?_, ?_, ?_⟩, fun o h => ⟨?_, ?_, ?_⟩⟩
  · exact (shfl_gives (exec_shflIdx o s) rfl hm h :)
  · exact (shfl_gives (exec_shflUp o s) rfl hm h :)
  · exact (shfl_gives (exec_shflDn o s) rfl hm h :)
  · exact (shfl_gives (exec_shflXor o s) rfl hm h :)
  · exact (xpush_gives hm h :)
  · exact (crossOne_writes (exec_voteEq o s) rfl hm h :)
  · refine vote_writes (exec_voteAll o s) rfl hm h ?_
    simp only [votes_eq_members_iff]
  · refine vote_writes (exec_voteAny o s) rfl hm h ?_
    simp only [votes_eq_zero_iff]
    cases (List.finRange 32).any _ <;> rfl
  · exact vote_writes (exec_voteBal o s) rfl hm h (votes_eq_maskOf ..)

end Sys2Proof.Machine
end
